-- ==== Sys2Proof/Word.lean ====
section
/-! DEFINITION. The two words the control link and the drive port move: bytes, and the 16-bit frame check. -/
namespace Sys2Proof

/-- One byte of a frame (R172) or one character of a drive order (R175). -/
abbrev Byte := BitVec 8

/-- The 16-bit frame check (R163). -/
abbrev Half := BitVec 16

end Sys2Proof
end

