-- ==== Sys2Proof/Syntax.lean ====
section
/-! DEFINITION. The commands of the J240: one constructor of `Instr` per row of the opcode table. -/
namespace Sys2Proof

/-- The blocks that take hand-offs within one event (00_scope.md, "Block overview"). -/
inductive Block where
  | tr | iu | ss | tc | awu
deriving DecidableEq, Repr

/-- A REQUEST frame as the host clocks it (R163, R172): the station byte, the parameter bytes, the check word, and how
many bytes were clocked before select was deasserted. The type byte is 1, the request code is the row's, and the length
byte is the number of parameter bytes. `order` is the order in which the blocks take the event's hand-offs where the
rules leave it open (log entry 3); it is no part of the frame. -/
structure Frame where
  station : Byte
  params : List Byte
  check : Half
  clocked : Nat
  order : List Block
deriving DecidableEq, Repr

/-- How much of a FETCH NOTICE frame a command covers (R169): the whole frame with nothing between its start and its
end, its start alone (the type byte), or its end, select being deasserted after `clocked` bytes. -/
inductive FetchStage where
  | whole (clocked : Nat)
  | start
  | finish (clocked : Nat)
deriving DecidableEq, Repr

/-- The raw levels of the three console lines at a tick (R155). -/
structure ConsoleLevels where
  line1 : Bool
  line2 : Bool
  line3 : Bool
deriving DecidableEq, Repr

/-- The commands: requests carry their frame, events carry what the surroundings supply. -/
inductive Instr where
  | powerUp
  | resetPin
  | planClear (f : Frame)
  | planWrite (f : Frame)
  | planRead (f : Frame)
  | planCheck (f : Frame)
  | planSave (f : Frame)
  /-- The end of a save; `matched` is the outcome of the read-back (R21). -/
  | saveEnd (matched : Bool)
  | planLoad (f : Frame)
  | goRun (f : Frame)
  | goQuiet (f : Frame)
  | stopAll (f : Frame)
  | resume (f : Frame)
  | resetLayout (f : Frame)
  | enterTrain (f : Frame)
  | retireTrain (f : Frame)
  | acquireTrain (f : Frame)
  | releaseTrain (f : Frame)
  | setSpeed (f : Frame)
  | reverseTrain (f : Frame)
  | hold (f : Frame)
  | unhold (f : Frame)
  | setAuto (f : Frame)
  | keepAlive (f : Frame)
  | seekTrain (f : Frame)
  | readTrainField (f : Frame)
  | readTrainRecord (f : Frame)
  | keepAliveExpiry (cab : Nat) (order : List Block)
  | setRoute (f : Frame)
  | cancelRoute (f : Frame)
  | approachTimerExpiry (slot : Nat) (order : List Block)
  | pointTest (f : Frame)
  | readRoute (f : Frame)
  | readSection (f : Frame)
  | readPoint (f : Frame)
  | readSignal (f : Frame)
  | clearFault (f : Frame)
  | pulseExpiry (point : Nat)
  | throwTimeout (point : Nat) (order : List Block)
  | homeTurntable (f : Frame)
  | turn (f : Frame)
  | withdrawTurn (f : Frame)
  | readTurntable (f : Frame)
  | turntableTimerExpiry (order : List Block)
  | startDemo (f : Frame)
  | stopDemo (f : Frame)
  | readBoard (f : Frame)
  | readPanel (f : Frame)
  | demoTimeout (order : List Block)
  | dwellEnd (slot : Nat) (order : List Block)
  | cooldownExpiry (panel : Nat)
  | clearStatus (f : Frame)
  | setNoticeMask (f : Frame)
  | identify (f : Frame)
  /-- A FETCH REPLY frame of `clocked` bytes (R165). -/
  | fetchReply (clocked : Nat)
  | fetchNotice (stage : FetchStage)
  | layoutTick (lines : ConsoleLevels) (order : List Block)
  /-- A scan completes; `fdi` is the bit stream received on FDI, input bit 0 first, the 8 returned check bits after the
  input bits (R25 stage 2). -/
  | scanCompletion (fdi : List Bool) (order : List Block)
  | orderCompletion
  /-- A REQUEST frame whose code names no request (R163 test 4). -/
  | unknownRequest (code : Byte) (f : Frame)
deriving DecidableEq, Repr

end Sys2Proof
end

