-- ==== Sys2Proof/Decode.lean ====
section
/-! DEFINITION. Words of the opcode table (none has bits) and the request codes of R172. -/
namespace Sys2Proof

/-- The command a word of the opcode table spells. The table gives no row any bits, so no word spells one. -/
def decodeTableWord (_nbits _w : Nat) : Option Instr := none

/-- R172: the high four bits of a request code name the block, the low four its place in that block's list. -/
def namesRequest (code : Nat) : Bool :=
  let place := code % 16
  match code / 16 with
  | 1 => place < 6
  | 2 => place < 5
  | 3 => place < 13
  | 4 => place < 8
  | 5 => place < 4
  | 6 => place < 4
  | 7 => place < 3
  | _ => false

end Sys2Proof
end

