-- ==== Sys2Proof/Config.lean ====
section
/-! DEFINITION. What one J240 fixes: its capacities, its link constants, and the one value the manual leaves open. -/
namespace Sys2Proof.Config

/-- Train slots (R40). -/
def trainSlots : Nat := 48
/-- Active route slots (R75). -/
def routeSlots : Nat := 32
/-- Entries of the route stack (R107). -/
def stackEntries : Nat := 16
/-- Entries of the turn queue (R128). -/
def turnEntries : Nat := 6
/-- Entries of the visitor queue (R144). -/
def visitorEntries : Nat := 8
/-- Entries of the notice table (R162). -/
def noticeEntries : Nat := 32
/-- The part number and the link revision of IDENTIFY (R170). -/
def partNumber : Nat := 240
def linkRevision : Nat := 1

/-- How many hand-offs, and how many rounds of speed recomputation, one event may run. DEDUCED (log entry 31): the rules
bound an event's hand-offs well below this; a hand-off left over would stand in `State.due` for the next event. -/
def handoffBound : Nat := 64

/-- The free value of R51 (log entry 22): whether the new head direction is EAST when the tail is joined to its
neighbour on neither side. It has no body; `State.freeCount` gives every reversal a value of its own. -/
opaque unjoinedReversal : Nat → Bool

end Sys2Proof.Config
end

