-- ==== Sys2Proof/Machine/State.lean ====
section
/-! DEFINITION. Everything the manual gives the J240 to hold, as plain data, and the state right after reset. -/
namespace Sys2Proof.Machine

/-! ### Sparse tables -/

/-- A table by number: the rows present, keys strictly rising. A table whose keys all rest at one value lists only the
keys that hold another (`Tab.Wf`, `Tab.WfD` in Machine/Ops.lean). -/
structure Tab (α : Type) where
  rows : List (Nat × α)
deriving DecidableEq, Repr

/-! ### The track plan (01_the_track_plan.md) -/

/-- A direction in the frame of one section. -/
inductive Dir where
  | east | west
deriving DecidableEq, Repr

/-- A point position. -/
inductive Pos where
  | normal | reverse
deriving DecidableEq, Repr

/-- An end of the bridge. -/
inductive End where
  | a | b
deriving DecidableEq, Repr

/-- The end a turn request asks for (R132). -/
inductive EndChoice where
  | a | b | either
deriving DecidableEq, Repr

/-- R2: how the other blocks treat a section. -/
inductive SectionKind where
  | plain | platform | staging | bridge | road
deriving DecidableEq, Repr

/-- R2, R3: a join to `target`, perhaps flipping the frame, perhaps on a point's position. -/
structure Succ where
  target : Nat
  flip : Bool
  cond : Option (Nat × Pos)
deriving DecidableEq, Repr

/-- R2: a section record. -/
structure SectionRec where
  length : Nat
  detector : Nat
  kind : SectionKind
  limit : Nat
  east : List Succ
  west : List Succ
  board : Nat
deriving DecidableEq, Repr

/-- R5: a point record. -/
structure PointRec where
  sect : Nat
  normalDrive : Nat
  reverseDrive : Nat
  normalDetect : Nat
  reverseDetect : Nat
  pulse : Nat
  throw : Nat
  reverseLimit : Nat
deriving DecidableEq, Repr

/-- MAIN or SHUNT: the kind of a signal (R6) and the class of a route (R7). -/
inductive MainShunt where
  | main | shunt
deriving DecidableEq, Repr

/-- R6: a signal record. -/
structure SignalRec where
  kind : MainShunt
  sect : Nat
  dir : Dir
  approach : Nat
  stop : Nat
  caution : Option Nat
  second : Option Nat
  clear : Option Nat
  subsidiary : Option Nat
deriving DecidableEq, Repr

/-- R7: a route record. -/
structure RouteRec where
  cls : MainShunt
  entry : Nat
  exit : Nat
  sections : List Nat
  points : List (Nat × Pos)
  flanks : List (Nat × Pos)
  overlap : List Nat
  requirement : Option (Nat × End)
deriving DecidableEq, Repr

/-- R4: a road record. -/
structure RoadRec where
  index : Nat
  sect : Nat
  flip : Bool
deriving DecidableEq, Repr

/-- R8: the turntable parameters. -/
structure TurntableRec where
  present : Bool := false
  bridge : Nat := 0
  stepTimeout : Nat := 10
  lockTimeout : Nat := 20
  stopSector : Option Nat := none
  indexBit : Nat := 0
  homeBit : Nat := 0
  lockBit : Nat := 0
  cwBit : Nat := 0
  acwBit : Nat := 0
  releaseBit : Nat := 0
deriving DecidableEq, Repr

/-- R9: the six classes of train. -/
inductive TrainClass where
  | express | stopping | goods | shunting | lightEngine | demo
deriving DecidableEq, Repr

/-- R9: a class record. -/
structure ClassRec where
  maxGrade : Nat
  accel : Nat
  braking : Nat
deriving DecidableEq, Repr

/-- R9: the class table, with the values of the empty plan. -/
structure ClassTable where
  express : ClassRec := ⟨60, 2, 8⟩
  stopping : ClassRec := ⟨45, 2, 8⟩
  goods : ClassRec := ⟨40, 1, 4⟩
  shunting : ClassRec := ⟨15, 2, 6⟩
  lightEngine : ClassRec := ⟨50, 3, 10⟩
  demo : ClassRec := ⟨30, 2, 8⟩
deriving DecidableEq, Repr

/-- R10: a station record (keep-alive in seconds). -/
structure StationRec where
  floor : Nat := 6
  keepAlive : Nat := 10
deriving DecidableEq, Repr

/-- R11: a trigger's direction filter. -/
inductive DirFilter where
  | east | west | either
deriving DecidableEq, Repr

/-- R11: what a trigger does. -/
inductive Action where
  | requestRoute (route : Nat)
  | dwell (ticks route : Nat)
  | setSpeed (grade : Nat)
  | endDemo
  | notice
deriving DecidableEq, Repr

/-- R11: a trigger record. The class filter lists its classes in the order of R9. -/
structure TriggerRec where
  sect : Nat
  dir : DirFilter
  classes : List TrainClass
  action : Action
deriving DecidableEq, Repr

/-- R12: what kind of demo, with the fields of that kind. -/
inductive DemoKind where
  | run (route grade : Nat)
  | turn (road : Nat) (endAt : EndChoice)
deriving DecidableEq, Repr

/-- R12: a demo record (time limit in seconds). -/
structure DemoRec where
  kind : DemoKind
  train : Nat
  limit : Nat
deriving DecidableEq, Repr

/-- R13: a button record. -/
structure ButtonRec where
  input : Nat
  lamp : Nat
  demo : Nat
deriving DecidableEq, Repr

/-- R13: a board record. -/
structure BoardRec where
  sections : List Nat
deriving DecidableEq, Repr

/-- R14: what a press on a full visitor queue does. -/
inductive QueuePolicy where
  | keepOldest | keepNewest
deriving DecidableEq, Repr

/-- R14: the device parameters (times in seconds). -/
structure DeviceRec where
  approachLock : Nat := 30
  clearDebounce : Nat := 6
  lowSpeed : Nat := 12
  cooldown : Nat := 20
  policy : QueuePolicy := .keepOldest
  console1 : Nat := 0
  console2 : Nat := 0
  console3 : Nat := 0
  inputLength : Nat := 8
  outputLength : Nat := 8
deriving DecidableEq, Repr

/-- R1: the plan tables. A button's key is its panel times 256 plus its button (R173). A station without a row holds the
default of R10. The default value is the empty plan. -/
structure Plan where
  sections : Tab SectionRec := ⟨[]⟩
  points : Tab PointRec := ⟨[]⟩
  signals : Tab SignalRec := ⟨[]⟩
  routes : Tab RouteRec := ⟨[]⟩
  roads : Tab RoadRec := ⟨[]⟩
  triggers : Tab TriggerRec := ⟨[]⟩
  demos : Tab DemoRec := ⟨[]⟩
  buttons : Tab ButtonRec := ⟨[]⟩
  boards : Tab BoardRec := ⟨[]⟩
  turntable : TurntableRec := {}
  classes : ClassTable := {}
  stations : Tab StationRec := ⟨[]⟩
  device : DeviceRec := {}
deriving DecidableEq, Repr

/-- R1: what Plan Memory holds. The store is the image whose check passes, or none: VALID or BLANK. -/
structure PM where
  plan : Plan := {}
  valid : Bool := false
  store : Option Plan := none
  saving : Bool := false
deriving DecidableEq, Repr

/-! ### The field chain (02_the_field_chain.md) -/

/-- R24: one input bit; the default is its value at power-up. -/
structure InBit where
  value : Bool := true
  count : Nat := 0
  threshold : Nat := 2
deriving DecidableEq, Repr

/-- R28: which check pattern a scan sends. -/
inductive CheckPattern where
  | a | b
deriving DecidableEq, Repr

/-- R29: the chain check state. -/
inductive ChainState where
  | good | suspect | fault
deriving DecidableEq, Repr

/-- R24: what the Field Scanner holds. `sent` is the output image of the scan in progress (R25); `latched` is what the
output registers present to the field (log entry 9). -/
structure FS where
  inLen : Nat := 8
  outLen : Nat := 8
  inputs : Tab InBit := ⟨[]⟩
  image : Tab Bool := ⟨[]⟩
  check : CheckPattern := .a
  chain : ChainState := .good
  recovery : Nat := 0
  fieldFault : Bool := false
  sent : Tab Bool := ⟨[]⟩
  latched : Tab Bool := ⟨[]⟩
deriving DecidableEq, Repr

/-! ### The train register (03_the_train_register.md) -/

/-- R41: a train's owner. -/
inductive Owner where
  | nobody
  | supervisor
  | cab (cab handle : Nat)
  | awu
deriving DecidableEq, Repr

/-- R41: drive sense. -/
inductive Sense where
  | forward | backward
deriving DecidableEq, Repr

/-- R41: a train's state. -/
inductive TrainState where
  | active | held | turning | lost
deriving DecidableEq, Repr

/-- R41: a train record; the slot is its key. -/
structure Train where
  number : Nat
  cls : TrainClass
  length : Nat
  owner : Owner
  span : List Nat
  dir : Dir
  sense : Sense
  state : TrainState
  auto : Bool
  overrun : Bool
  requested : Nat
  granted : Nat
  route : Option Nat
  dwell : Option Nat
deriving DecidableEq, Repr

/-- R43: a cab's three handles, each 0 (empty) or a train slot. -/
structure Handles where
  h1 : Nat := 0
  h2 : Nat := 0
  h3 : Nat := 0
deriving DecidableEq, Repr

/-- R54: a cab's keep-alive. -/
inductive KeepAlive where
  | absent
  | counting (ticks : Nat)
  | expired
deriving DecidableEq, Repr

/-- R40: what the Train Register holds. -/
structure TR where
  trains : Tab Train := ⟨[]⟩
  handles : Tab Handles := ⟨[]⟩
  keepAlive : Tab KeepAlive := ⟨[]⟩
  cursor : Nat := 0
  vacated : Bool := false
  repeatField : Option Nat := none
  stray : Tab Bool := ⟨[]⟩
deriving DecidableEq, Repr

/-! ### The Interlocking Unit (05, 06, 07) -/

/-- R75: the state of an active route. -/
inductive RouteState where
  | setting | cleared | occupied | cancelling
deriving DecidableEq, Repr

/-- R75: the mark of a section within its route. -/
inductive SectionMark where
  | reserved | entered | released
deriving DecidableEq, Repr

/-- R75: an active route record; the slot is its key. `moving` is the points-moving count. -/
structure ActiveRoute where
  route : Nat
  train : Option Nat
  station : Nat
  state : RouteState
  marks : List SectionMark
  moving : Nat
  approach : Option Nat
deriving DecidableEq, Repr

/-- R76: a section's reservation mark. -/
inductive Mark where
  | free
  | route (slot : Nat)
  | overlap (slot : Nat)
deriving DecidableEq, Repr

/-- R77: a point's state. -/
inductive PointState where
  | normal | reverse | movingN | movingR | undetected | failed
deriving DecidableEq, Repr

/-- R77: what the IU holds for a point; the default is its value at power-up. `pulse` carries the drive output it is
timing with the ticks remaining. -/
structure Point where
  state : PointState := .undetected
  locks : Nat := 0
  demand : Option Pos := none
  fault : Bool := false
  pulse : Option (Pos × Nat) := none
  throw : Option Nat := none
deriving DecidableEq, Repr

/-- R92: what a signal shows. -/
inductive Aspect where
  | stop | caution | prelim | clear | shunt
deriving DecidableEq, Repr

/-- R92, R96: the values written to a signal's lamp bits. -/
structure Lamps where
  stop : Bool := true
  caution : Bool := false
  second : Bool := false
  clear : Bool := false
  subsidiary : Bool := false
deriving DecidableEq, Repr

/-- R92: a signal's aspect and lamps; the default shows STOP. -/
structure Signal where
  aspect : Aspect := .stop
  lamps : Lamps := {}
deriving DecidableEq, Repr

/-- R107: a waiting route request; its place in the list is its arrival order. -/
structure StackEntry where
  route : Nat
  train : Option Nat
  station : Nat
  clamped : Nat
  effective : Nat
deriving DecidableEq, Repr

/-- R75, R76, R77, R92, R107: what the Interlocking Unit holds. -/
structure IU where
  routes : Tab ActiveRoute := ⟨[]⟩
  marks : Tab Mark := ⟨[]⟩
  points : Tab Point := ⟨[]⟩
  signals : Tab Signal := ⟨[]⟩
  stack : List StackEntry := []
deriving DecidableEq, Repr

/-! ### The Speed Supervisor (08) -/

/-- R114: a train's target and emergency mark. -/
structure SpeedRec where
  target : Nat := 0
  emergency : Bool := false
deriving DecidableEq, Repr

/-- R123: a drive order. -/
structure DriveOrder where
  number : Nat
  grade : Nat
  sense : Sense
  emergency : Bool
deriving DecidableEq, Repr

/-- R114: what the Speed Supervisor holds. `port` is the order in flight, none in IDLE. -/
structure SS where
  trains : Tab SpeedRec := ⟨[]⟩
  urgent : List Nat := []
  refresh : Nat := 0
  broadcast : Bool := false
  port : Option DriveOrder := none
deriving DecidableEq, Repr

/-! ### The Turntable Controller (09) -/

/-- R128: the turntable state. -/
inductive TableState where
  | unindexed | homing | locked | unlocking | moving | locking | halted | faulted
deriving DecidableEq, Repr

/-- R128: the stage of homing. -/
inductive Phase where
  | release | seek | engage
deriving DecidableEq, Repr

/-- R128: the way the bridge turns. -/
inductive Turning where
  | clockwise | anticlockwise
deriving DecidableEq, Repr

/-- R128: the move in progress; `target` is the index end A is to reach. -/
structure Move where
  target : Nat
  endAt : End
  dir : Turning
  steps : Nat
deriving DecidableEq, Repr

/-- R128: a turn request; its place in the queue is its arrival order. -/
structure TurnReq where
  train : Option Nat
  road : Nat
  endAt : EndChoice
  station : Nat
  clamped : Nat
  effective : Nat
  follow : Bool
deriving DecidableEq, Repr

/-- R128: what the Turntable Controller holds. `served` is the arrival order of the served request; `returnState` is set
for HELD and clear for ACTIVE; `stopEnd` says that a request has ended in STOP with its burst rule still to be applied
(R141). -/
structure TC where
  state : TableState := .unindexed
  pos : Option Nat := none
  phase : Option Phase := none
  index : Option Nat := none
  move : Option Move := none
  timer : Option Nat := none
  served : Option Nat := none
  returnHeld : Option Bool := none
  burst : Option Nat := none
  preempt : Bool := false
  stopEnd : Bool := false
  queue : List TurnReq := []
deriving DecidableEq, Repr

/-! ### The Automatic Working Unit (10) -/

/-- R144: the running demo. -/
structure Running where
  demo : Nat
  train : Nat
  panel : Nat
  button : Nat
  remaining : Nat
deriving DecidableEq, Repr

/-- R144: a visitor queue entry; its place in the list is its arrival order. -/
structure Visitor where
  demo : Nat
  panel : Nat
  button : Nat
deriving DecidableEq, Repr

/-- R144: what a dwell restores and requests at its end. -/
structure DwellRec where
  grade : Nat
  route : Nat
deriving DecidableEq, Repr

/-- R144: a button lamp. -/
inductive Lamp where
  | off | steady | flash
deriving DecidableEq, Repr

/-- R153: the status of a board line. -/
inductive LineStatus where
  | atPlatform | approaching | held
deriving DecidableEq, Repr

/-- R153: a board line. -/
structure BoardLine where
  number : Nat
  status : LineStatus
  sect : Nat
  time : Option Nat
deriving DecidableEq, Repr

/-- R144: a console line's accepted value and its last two samples, the newest first. -/
structure ConsoleLine where
  accepted : Bool := false
  sample1 : Bool := false
  sample2 : Bool := false
deriving DecidableEq, Repr

/-- R144: what the Automatic Working Unit holds. -/
structure AWU where
  running : Option Running := none
  queue : List Visitor := []
  dwells : Tab DwellRec := ⟨[]⟩
  cooldown : Tab Nat := ⟨[]⟩
  lamps : Tab Lamp := ⟨[]⟩
  views : Tab (List BoardLine) := ⟨[]⟩
  line1 : ConsoleLine := {}
  line2 : ConsoleLine := {}
  line3 : ConsoleLine := {}
deriving DecidableEq, Repr

/-! ### Mode Control (11) -/

/-- R156: the layout mode. -/
inductive Mode where
  | setup | run | quiet | stop
deriving DecidableEq, Repr

/-- R156: what Mode Control holds. `remembered` is RUN or QUIET or none; `ticks` counts the ticks issued. -/
structure MC where
  mode : Mode := .setup
  remembered : Option Mode := none
  ticks : Nat := 0
deriving DecidableEq, Repr

/-! ### The Control Link Port (12) -/

/-- R164: why a request is refused, in the order of its table. -/
inductive Reason where
  | badFrame | unknownRequest | badMode | notPermitted | notOwner | noSuch | conflict | tableFull | busy | range
  | planInvalid | notIndexed | tooLong | faultPresent
deriving DecidableEq, Repr

/-- R163: the answer of an owner block, with its payload. -/
inductive Answer where
  | done (payload : List Byte)
  | accepted (payload : List Byte)
  | refused (reason : Reason) (payload : List Byte)
deriving DecidableEq, Repr

/-- R162: a held reply. -/
structure Reply where
  request : Nat
  answer : Answer
deriving DecidableEq, Repr

/-- R166: the 21 causes in priority order. -/
inductive Cause where
  | fieldFault | overrun | stray | trainLost | pointFailed | pointLost | turntableFault
  | routeSet | routeFailed | routeDone | stackDropped | turnDone | cabExpired | modeChanged | planSaved
  | planSaveFailed | planEmpty | trigger
  | demoStarted | demoEnded | boardChanged
deriving DecidableEq, Repr

/-- R162: a notice entry; its class follows from the cause and its place in the list is its arrival order. -/
structure Notice where
  cause : Cause
  subject : Nat
  count : Nat
  detail : Nat
deriving DecidableEq, Repr

/-- R162, R169: the fetch selection: the copy of the entry the frame carries, the entries present at selection, and the
raises since. `present` is clear once the selected entry has left the table. -/
structure Selection where
  entry : Notice
  entries : Nat
  raises : Nat
  present : Bool
deriving DecidableEq, Repr

/-- R162: what the Control Link Port holds. The mask's bit c - 1 enables cause c (R173). -/
structure CLP where
  holder : Option Reply := none
  dropped : Bool := false
  noticeLost : Bool := false
  notices : List Notice := []
  mask : BitVec 21 := BitVec.allOnes 21
  selection : Option Selection := none
deriving DecidableEq, Repr

/-! ### The machine -/

/-- R129: a served turn request has ended; the hand-off to the AWU. -/
structure TurnEnd where
  station : Nat
  train : Option Nat
  road : Nat
  completed : Bool
deriving DecidableEq, Repr

/-- R145: a trigger that acts on the train in a slot at a head arrival; the hand-off of TR to the AWU. -/
structure Arrival where
  slot : Nat
  trigger : Nat
  action : Action
deriving DecidableEq, Repr

/-- Hand-offs of the event in progress that their blocks have not taken yet (log entry 5): a retry scan of the IU
(R110), a demo start attempt of the AWU (R150), an arbitration of the TC (R134), the ends of served requests for the AWU
(R129), whether the newest turn request has been granted (R132), and the triggers of the section report in progress
(R64, R145). All are at rest between events. -/
structure Due where
  scan : Bool := false
  attempt : Bool := false
  arbitrate : Bool := false
  turnEnds : List TurnEnd := []
  newestGranted : Bool := false
  arrivals : List Arrival := []
deriving DecidableEq, Repr

/-- Everything the J240 holds, block by block; then the model's own fields: the commands that wait, the order the blocks
take hand-offs in (log entry 3), the hand-offs not yet taken, the bytes sent in the last frame (R171, R172), and the
number of free values used (log entry 22). -/
structure State where
  pm : PM := {}
  fs : FS := {}
  tr : TR := {}
  iu : IU := {}
  ss : SS := {}
  tc : TC := {}
  awu : AWU := {}
  mc : MC := {}
  clp : CLP := {}
  pending : List Instr := []
  order : List Block := []
  due : Due := {}
  linkOut : List Byte := []
  freeCount : Nat := 0
deriving DecidableEq, Repr

/-- Why a step stops. The part has no event that stops it: its faults are states and notices (R30, R80, R140). -/
inductive Fault where
deriving DecidableEq, Repr

/-- Why a command has no meaning. -/
inductive Refusal where
  /-- Raised by an arm of `exec` without a meaning; safe. No arm raises it. -/
  | notModelled (mnemonic : String)
  /-- Raised by UNKNOWN_REQUEST when its code names a request, so that the operand is no command of that row (R163
  test 4, log entry 34); safe. -/
  | namedRequest
deriving DecidableEq, Repr

/-- R161: the machine right after power-up with a store that was never written (R23, log entry 1): every block at its
power-up values, the empty plan, SETUP, and PLAN_EMPTY alone in the notice table. -/
def State.reset : State :=
  { clp := { notices := [⟨.planEmpty, 0, 1, 0⟩] } }

end Sys2Proof.Machine
end

