-- ==== Sys2Proof/Machine/Ops.lean ====
section
/-! DEFINITION. The named operations the blocks share: sparse tables, the fields of State, the output image, the notice
table, debounced reads, and the look-ups of trains, routes and sections. -/
namespace Sys2Proof.Machine

/-! ### Sparse tables -/

/-- The value at key `k` of a list of rows. -/
def rowsGet {α : Type} : List (Nat × α) → Nat → Option α
  | [], _ => none
  | (i, x) :: t, k => if i = k then some x else rowsGet t k

/-- The rows with `x` at key `k`, in rising order. -/
def rowsPut {α : Type} (rows : List (Nat × α)) (k : Nat) (x : α) : List (Nat × α) :=
  match rows with
  | [] => [(k, x)]
  | row :: later =>
    if k < row.1 then (k, x) :: row :: later
    else if row.1 = k then (k, x) :: later
    else row :: rowsPut later k x

/-- The rows without key `k`. -/
def rowsErase {α : Type} : List (Nat × α) → Nat → List (Nat × α)
  | [], _ => []
  | (i, y) :: t, k => if i = k then t else (i, y) :: rowsErase t k

/-- The row at key `k`, if present. -/
def Tab.get? {α : Type} (t : Tab α) (k : Nat) : Option α := rowsGet t.rows k
/-- The value at key `k` of a table that rests at `d`. -/
def Tab.getD {α : Type} (d : α) (t : Tab α) (k : Nat) : α := (rowsGet t.rows k).getD d
/-- Write the row at key `k`. -/
def Tab.put {α : Type} (t : Tab α) (k : Nat) (x : α) : Tab α := ⟨rowsPut t.rows k x⟩
/-- Remove the row at key `k`. -/
def Tab.erase {α : Type} (t : Tab α) (k : Nat) : Tab α := ⟨rowsErase t.rows k⟩
/-- Write key `k` of a table that rests at `d`, keeping its canonical form. -/
def Tab.putD {α : Type} [DecidableEq α] (d : α) (t : Tab α) (k : Nat) (x : α) : Tab α :=
  if x = d then t.erase k else t.put k x
/-- The keys present, rising. -/
def Tab.keys {α : Type} (t : Tab α) : List Nat := t.rows.map Prod.fst

/-- Keys strictly rising. -/
abbrev Tab.Wf {α : Type} (t : Tab α) : Prop := t.keys.Pairwise (· < ·)
/-- Keys strictly rising and no row at the resting value. -/
abbrev Tab.WfD {α : Type} [DecidableEq α] (d : α) (t : Tab α) : Prop :=
  t.Wf ∧ ∀ r ∈ t.rows, r.2 ≠ d

/-- The lowest of the keys `k`, `k + 1`, … below `k + n` that is absent. -/
def lowestFree {α : Type} (t : Tab α) : Nat → Nat → Option Nat
  | _, 0 => none
  | k, n + 1 => if (t.get? k).isNone then some k else lowestFree t (k + 1) n

/-! ### Fields of State -/

/-- The plan tables in force. -/
def State.plan (s : State) : Plan := s.pm.plan

/-- Rewrite the output image. -/
def State.setOut (s : State) (bit : Nat) (v : Bool) : State :=
  { s with fs := { s.fs with image := Tab.putD false s.fs.image bit v } }

/-- R27: one bit of the output image. -/
def State.out (s : State) (bit : Nat) : Bool := Tab.getD false s.fs.image bit

/-- Write the record of the train in a slot. -/
def State.putTrain (s : State) (slot : Nat) (t : Train) : State :=
  { s with tr := { s.tr with trains := s.tr.trains.put slot t } }

/-- The record of the train in a slot. -/
def State.train? (s : State) (slot : Nat) : Option Train := s.tr.trains.get? slot

/-- Change the record of the train in a slot, if there is one. -/
def State.updTrain (s : State) (slot : Nat) (g : Train → Train) : State :=
  match s.train? slot with
  | none => s
  | some t => s.putTrain slot (g t)

/-- The active route record in a slot. -/
def State.route? (s : State) (slot : Nat) : Option ActiveRoute := s.iu.routes.get? slot

/-- Write the active route record in a slot. -/
def State.putRoute (s : State) (slot : Nat) (r : ActiveRoute) : State :=
  { s with iu := { s.iu with routes := s.iu.routes.put slot r } }

/-- What the IU holds for a point. -/
def State.point (s : State) (p : Nat) : Point := Tab.getD {} s.iu.points p

/-- Write what the IU holds for a point. -/
def State.putPoint (s : State) (p : Nat) (st : Point) : State :=
  { s with iu := { s.iu with points := Tab.putD {} s.iu.points p st } }

/-- R76: a section's reservation mark. -/
def State.mark (s : State) (sec : Nat) : Mark := Tab.getD .free s.iu.marks sec

/-- Write a section's reservation mark. -/
def State.putMark (s : State) (sec : Nat) (m : Mark) : State :=
  { s with iu := { s.iu with marks := Tab.putD .free s.iu.marks sec m } }

/-- R40: a section's stray mark. -/
def State.stray (s : State) (sec : Nat) : Bool := Tab.getD false s.tr.stray sec

/-- Write a section's stray mark. -/
def State.putStray (s : State) (sec : Nat) (v : Bool) : State :=
  { s with tr := { s.tr with stray := Tab.putD false s.tr.stray sec v } }

/-- R114: a train's target and emergency mark. -/
def State.speed (s : State) (slot : Nat) : SpeedRec := Tab.getD {} s.ss.trains slot

/-- Write a train's target and emergency mark. -/
def State.putSpeed (s : State) (slot : Nat) (r : SpeedRec) : State :=
  { s with ss := { s.ss with trains := s.ss.trains.put slot r } }

/-- The layout mode lets routes and turns be set: RUN or QUIET. -/
def State.working (s : State) : Bool := decide (s.mc.mode = .run ∨ s.mc.mode = .quiet)

/-- Mark a retry trigger (R110). -/
def State.wantScan (s : State) : State := { s with due := { s.due with scan := true } }
/-- Mark a demo start attempt (R150). -/
def State.wantAttempt (s : State) : State := { s with due := { s.due with attempt := true } }
/-- Mark an event of the TC (R134). -/
def State.wantArbitrate (s : State) : State := { s with due := { s.due with arbitrate := true } }
/-- R87, R99: a release is handed to the route stack retry, the AWU's demo retry and the TC. -/
def State.handRelease (s : State) : State := s.wantScan.wantAttempt.wantArbitrate

/-! ### Notices (R166, R167) -/

/-- R166: the code of a cause. -/
def Cause.code : Cause → Nat
  | .fieldFault => 1 | .overrun => 2 | .stray => 3 | .trainLost => 4 | .pointFailed => 5 | .pointLost => 6
  | .turntableFault => 7
  | .routeSet => 8 | .routeFailed => 9 | .routeDone => 10 | .stackDropped => 11 | .turnDone => 12 | .cabExpired => 13
  | .modeChanged => 14 | .planSaved => 15 | .planSaveFailed => 16 | .planEmpty => 17 | .trigger => 18
  | .demoStarted => 19 | .demoEnded => 20 | .boardChanged => 21

/-- R166, R172: the class of a cause: 0 SAFETY, 1 OPERATION, 2 VISITOR. A lower number ranks higher. -/
def Cause.rank (c : Cause) : Nat :=
  if c.code ≤ 7 then 0 else if c.code ≤ 18 then 1 else 2

/-- A count saturates at 15 (R162, R167). -/
def sat15 (n : Nat) : Nat := min (n + 1) 15

/-- R167: raise the entry for a cause and subject. -/
def raiseNotice (c : Cause) (subject detail : Nat) (n : Notice) : Notice :=
  if n.cause = c ∧ n.subject = subject then { n with count := sat15 n.count, detail := detail } else n

/-- The table holds an entry for a cause and subject. -/
def noticed (l : List Notice) (c : Cause) (subject : Nat) : Bool :=
  l.any (fun n => decide (n.cause = c ∧ n.subject = subject))

/-- R167: the lowest class present, as the highest rank number. -/
def lowestRank (l : List Notice) : Nat := l.foldl (fun r n => max r n.cause.rank) 0

/-- R167: the table without the oldest entry of a class, and that entry. -/
def evict (rank : Nat) : List Notice → List Notice × Option Notice
  | [] => ([], none)
  | n :: t =>
    if n.cause.rank = rank then (t, some n)
    else
      let (t', gone) := evict rank t
      (n :: t', gone)

/-- R169: an entry that leaves the table while it is selected is gone for the fetch. -/
def deselect (sel : Option Selection) (gone : Option Notice) : Option Selection :=
  match sel, gone with
  | some x, some n => some (if x.entry.cause = n.cause ∧ x.entry.subject = n.subject then { x with present := false } else x)
  | sel, _ => sel

/-- R167: count a raise of the selected entry. -/
def raiseSelection (c : Cause) (subject : Nat) (sel : Option Selection) : Option Selection :=
  match sel with
  | none => none
  | some x =>
    some (if x.present ∧ x.entry.cause = c ∧ x.entry.subject = subject then { x with raises := sat15 x.raises } else x)

/-- R167: record a notice in the control link port. -/
def CLP.record (p : CLP) (c : Cause) (subject detail : Nat) : CLP :=
  if noticed p.notices c subject then
    { p with notices := p.notices.map (raiseNotice c subject detail), selection := raiseSelection c subject p.selection }
  else if p.notices.length < Config.noticeEntries then
    { p with notices := p.notices ++ [⟨c, subject, 1, detail⟩] }
  else if c.rank < lowestRank p.notices then
    let (rest, gone) := evict (lowestRank p.notices) p.notices
    { p with notices := rest ++ [⟨c, subject, 1, detail⟩], selection := deselect p.selection gone, noticeLost := true }
  else
    { p with noticeLost := true }

/-- R167: make a notice with a detail. -/
def State.noticeWith (s : State) (c : Cause) (subject detail : Nat) : State :=
  { s with clp := s.clp.record c subject detail }

/-- R167: make a notice whose detail is 0. -/
def State.notice (s : State) (c : Cause) (subject : Nat) : State := s.noticeWith c subject 0

/-! ### Debounced reads (R26, R34) -/

/-- R26, R34: the debounced value of an input bit; a bit outside the chain reads set. -/
def State.input (s : State) (bit : Nat) : Bool :=
  if bit < s.fs.inLen then (Tab.getD {} s.fs.inputs bit).value else true

/-- R2: a section's debounced occupancy. A section without a record has no detector and reads clear (log entry 28). -/
def State.occupied (s : State) (sec : Nat) : Bool :=
  match s.plan.sections.get? sec with
  | none => false
  | some r => s.input r.detector

/-! ### Look-ups -/

/-- The slot of a train number. -/
def State.slotOf (s : State) (number : Nat) : Option Nat :=
  (s.tr.trains.rows.find? (fun r => decide (r.2.number = number))).map Prod.fst

/-- The slot of the train in whose span a section lies. -/
def State.spanOf (s : State) (sec : Nat) : Option Nat :=
  (s.tr.trains.rows.find? (fun r => r.2.span.contains sec)).map Prod.fst

/-- A section lies in some train's span. -/
def State.inSpan (s : State) (sec : Nat) : Bool := (s.spanOf sec).isSome

/-- The head section of a train. -/
def Train.head (t : Train) : Nat := t.span.getLast?.getD 0

/-- The plan's record of an active route. -/
def State.routeRec (s : State) (r : ActiveRoute) : Option RouteRec := s.plan.routes.get? r.route

/-- The active route with a given entry signal: its slot (R75: there is at most one). -/
def State.activeAt (s : State) (signal : Nat) : Option Nat :=
  (s.iu.routes.rows.find? (fun r => decide ((s.routeRec r.2).map RouteRec.entry = some signal))).map Prod.fst

/-- The slot a reservation mark names. -/
def Mark.slot : Mark → Option Nat
  | .free => none
  | .route k => some k
  | .overlap k => some k

/-- The place of a key in a list. -/
def placeOf (x : Nat) : List Nat → Option Nat
  | [] => none
  | y :: t => if y = x then some 0 else (placeOf x t).map (· + 1)

/-- The mark of a section within an active route. -/
def State.sectionMark (s : State) (r : ActiveRoute) (sec : Nat) : Option SectionMark :=
  ((s.routeRec r).bind (fun d => placeOf sec d.sections)).bind (fun i => r.marks[i]?)

/-! ### Directions, positions and classes -/

def Dir.opp : Dir → Dir
  | .east => .west
  | .west => .east

/-- R3: the direction in which a join is entered. -/
def Dir.through (d : Dir) (flip : Bool) : Dir := if flip then d.opp else d

/-- The state of a point that stands in a position. -/
def Pos.settled : Pos → PointState
  | .normal => .normal
  | .reverse => .reverse

/-- The state of a point that moves to a position (R78). -/
def Pos.moving : Pos → PointState
  | .normal => .movingN
  | .reverse => .movingR

/-- R5: the drive output for a position. -/
def PointRec.drive (r : PointRec) : Pos → Nat
  | .normal => r.normalDrive
  | .reverse => r.reverseDrive

/-- R77: a throw is in flight. -/
def PointState.inFlight : PointState → Bool
  | .movingN => true
  | .movingR => true
  | _ => false

/-- R9: the record of a class. -/
def ClassTable.get (t : ClassTable) : TrainClass → ClassRec
  | .express => t.express
  | .stopping => t.stopping
  | .goods => t.goods
  | .shunting => t.shunting
  | .lightEngine => t.lightEngine
  | .demo => t.demo

/-- R10: a cab's station record. -/
def Plan.station (p : Plan) (cab : Nat) : StationRec := Tab.getD {} p.stations cab

/-- R106: the floor of a station. -/
def Plan.floor (p : Plan) (station : Nat) : Nat :=
  if station = 0 then 0 else if station = 40 then 14 else (p.station station).floor

/-- R106: the clamped level. -/
def Plan.clampLevel (p : Plan) (station level : Nat) : Nat := max (min level 15) (p.floor station)

/-- Every point of a route definition with its position, point settings first. -/
def RouteRec.settings (r : RouteRec) : List (Nat × Pos) := r.points ++ r.flanks

/-- Every section a route reserves, overlap last. -/
def RouteRec.reach (r : RouteRec) : List Nat := r.sections ++ r.overlap

/-! ### Orders of blocks (log entry 3) -/

/-- The standard order of the blocks. -/
def standardOrder : List Block := [.tr, .iu, .tc, .awu, .ss]

/-- The blocks named first, each once, then the rest in the standard order. -/
def fullOrder (l : List Block) : List Block :=
  l.eraseDups ++ standardOrder.filter (fun b => !l.contains b)

/-! ### Trains and their owners (R43, R54) -/

/-- R43: a cab's handle. -/
def Handles.get (h : Handles) : Nat → Nat
  | 1 => h.h1
  | 2 => h.h2
  | 3 => h.h3
  | _ => 0

/-- R43: write a cab's handle. -/
def Handles.set (h : Handles) (i slot : Nat) : Handles :=
  match i with
  | 1 => { h with h1 := slot }
  | 2 => { h with h2 := slot }
  | 3 => { h with h3 := slot }
  | _ => h

/-- R43: the lowest empty handle. -/
def Handles.lowest (h : Handles) : Option Nat :=
  if h.h1 = 0 then some 1 else if h.h2 = 0 then some 2 else if h.h3 = 0 then some 3 else none

/-- The handle table of a cab. -/
def State.handles (s : State) (cab : Nat) : Handles := Tab.getD {} s.tr.handles cab

/-- Write the handle table of a cab. -/
def State.putHandles (s : State) (cab : Nat) (h : Handles) : State :=
  { s with tr := { s.tr with handles := Tab.putD {} s.tr.handles cab h } }

/-- The keep-alive of a cab. -/
def State.keepAliveOf (s : State) (cab : Nat) : KeepAlive := Tab.getD .absent s.tr.keepAlive cab

/-- Write the keep-alive of a cab. -/
def State.putKeepAlive (s : State) (cab : Nat) (k : KeepAlive) : State :=
  { s with tr := { s.tr with keepAlive := Tab.putD .absent s.tr.keepAlive cab k } }

/-- R54: a cab's full keep-alive time in ticks. -/
def State.keepAliveTime (s : State) (cab : Nat) : Nat := (s.plan.station cab).keepAlive * 10

/-- R54: start or restart a cab's countdown if it holds a train. -/
def State.restartKeepAlive (s : State) (cab : Nat) : State :=
  if s.handles cab = {} then s else s.putKeepAlive cab (.counting (s.keepAliveTime cab))

/-- R43, R54: empty the handle through which a cab owns a train; a cab left with none has no keep-alive. -/
def State.dropHandle (s : State) (owner : Owner) : State :=
  match owner with
  | .cab c h =>
    let s := s.putHandles c ((s.handles c).set h 0)
    if s.handles c = {} then s.putKeepAlive c .absent else s
  | _ => s

/-- R43: give a train to a cab at its lowest empty handle; a cab's first train starts its keep-alive (R54). -/
def State.giveToCab (s : State) (slot cab : Nat) : State :=
  match (s.handles cab).lowest with
  | none => s
  | some h =>
    let s := (s.putHandles cab ((s.handles cab).set h slot)).updTrain slot (fun t => { t with owner := .cab cab h })
    match s.keepAliveOf cab with
    | .absent => s.restartKeepAlive cab
    | _ => s

/-- R71: a train whose one span section has cleared is LOST. -/
def State.loseTrain (s : State) (slot : Nat) : State :=
  match s.train? slot with
  | none => s
  | some t => ((s.putTrain slot { t with state := .lost }).notice .trainLost t.number).wantArbitrate

/-- R71: the test of a span: an ACTIVE or HELD train with one section that reads clear is LOST. -/
def State.testSpan (s : State) (slot : Nat) : State :=
  match s.train? slot with
  | none => s
  | some t =>
    if (t.state = .active ∨ t.state = .held) ∧ t.span.length = 1 ∧ !s.occupied t.head then s.loseTrain slot else s

end Sys2Proof.Machine
end

