-- ==== Sys2Proof/Machine/PlanQuery.lean ====
section
/-! DEFINITION. What the plan says of joins: successor entries, conditions, bridge links and the next sections of a
train (R3, R4, R60). -/
namespace Sys2Proof.Machine

/-- R2: the successor entries a section record holds on a side. -/
def Plan.entries (p : Plan) (x : Nat) (d : Dir) : List Succ :=
  match p.sections.get? x with
  | none => []
  | some r =>
    match d with
    | .east => r.east
    | .west => r.west

/-- R3: whether an entry applies, by the state of its condition point. A point that is moving, undetected or failed
admits both legs. -/
def Succ.applies (look : Nat → PointState) (e : Succ) : Bool :=
  match e.cond with
  | none => true
  | some (p, q) =>
    match look p with
    | .normal => decide (q = .normal)
    | .reverse => decide (q = .reverse)
    | _ => true

/-- R4: the bridge side of a road. -/
def RoadRec.bridgeSide (r : RoadRec) : Dir := if r.flip then .east else .west

/-- The index position opposite one. -/
def opposite (p : Nat) : Nat := (p + 24) % 48

/-- R4: the bridge links of a section on a side, with end A at position `align`; none while the turntable is not
LOCKED. -/
def Plan.bridgeLinks (p : Plan) (align : Option Nat) (x : Nat) (d : Dir) : List Succ :=
  match align with
  | none => []
  | some a =>
    if x = p.turntable.bridge then
      match d with
      | .east => (p.roads.rows.filter (fun r => decide (r.2.index = a))).map (fun r => ⟨r.2.sect, r.2.flip, none⟩)
      | .west =>
        (p.roads.rows.filter (fun r => decide (r.2.index = opposite a))).map (fun r => ⟨r.2.sect, !r.2.flip, none⟩)
    else
      (p.roads.rows.filter (fun r => decide (r.2.sect = x ∧ r.2.bridgeSide = d))).flatMap (fun r =>
        (if r.2.index = a then [⟨p.turntable.bridge, r.2.flip, none⟩] else []) ++
        (if r.2.index = opposite a then [⟨p.turntable.bridge, !r.2.flip, none⟩] else []))

/-- R3, R4: every join of a section on a side, whatever its condition. -/
def Plan.joins (p : Plan) (align : Option Nat) (x : Nat) (d : Dir) : List Succ :=
  p.entries x d ++ p.bridgeLinks align x d

/-- R3, R4: the applying joins of a section on a side. -/
def Plan.successors (p : Plan) (look : Nat → PointState) (align : Option Nat) (x : Nat) (d : Dir) : List Succ :=
  (p.joins align x d).filter (Succ.applies look)

/-- R3: the selection with every point as it stands. -/
def State.look (s : State) (p : Nat) : PointState := (s.point p).state

/-- R4: the present alignment, known while the turntable is LOCKED. -/
def State.align (s : State) : Option Nat :=
  if s.tc.state = .locked ∧ s.plan.turntable.present then s.tc.pos else none

/-- An entry conditioned NORMAL. -/
def Succ.onNormal (e : Succ) : Bool :=
  match e.cond with
  | some (_, .normal) => true
  | _ => false

/-- R60: where two entries name one section, the one conditioned NORMAL gives the direction on entry. -/
def mergeTargets (l : List Succ) : List Succ :=
  let sorted := l.filter Succ.onNormal ++ l.filter (fun e => !e.onNormal)
  sorted.foldl (fun acc e => if acc.any (fun x => decide (x.target = e.target)) then acc else acc ++ [e]) []

/-- R60: a train's next sections, each with the direction on entry. A LOST train has none. -/
def State.nextSections (s : State) (t : Train) : List (Nat × Dir) :=
  if t.state = .lost then []
  else
    (mergeTargets (s.plan.successors s.look s.align t.head t.dir)).map (fun e => (e.target, t.dir.through e.flip))

/-- R45: two sections are joined on a side of the first: the first has an entry there naming the second, or the second
has an entry that leads back to that side. -/
def Plan.joinedOn (p : Plan) (align : Option Nat) (x : Nat) (d : Dir) (y : Nat) : Bool :=
  (p.joins align x d).any (fun e => decide (e.target = y)) ||
  [Dir.east, Dir.west].any (fun b =>
    (p.joins align y b).any (fun e => decide (e.target = x ∧ (b.through e.flip).opp = d)))

/-- R45: two sections are joined when either has an entry naming the other, whatever its condition. -/
def Plan.joined (p : Plan) (align : Option Nat) (x y : Nat) : Bool :=
  p.joinedOn align x .east y || p.joinedOn align x .west y

/-- R8: a section is the bridge. -/
def Plan.isBridge (p : Plan) (x : Nat) : Bool :=
  match p.sections.get? x with
  | none => false
  | some r => decide (r.kind = .bridge)

/-- R7: the position of end A that puts an end at a road's index. -/
def RoadRec.alignFor (r : RoadRec) : End → Nat
  | .a => r.index
  | .b => opposite r.index

/-- R4, R7: the alignment a route's turntable requirement names. -/
def Plan.requiredAlign (p : Plan) (r : RouteRec) : Option Nat :=
  match r.requirement with
  | none => none
  | some (road, e) => (p.roads.get? road).map (fun x => x.alignFor e)

/-- R2: a section's length. -/
def Plan.lengthOf (p : Plan) (x : Nat) : Nat :=
  match p.sections.get? x with
  | none => 0
  | some r => r.length

end Sys2Proof.Machine
end

