-- ==== Sys2Proof/Machine/Interlocking.lean ====
section
/-! DEFINITION. The Interlocking Unit: points and their throws, the route checks, activation, release, retirement and
cancellation of routes, and the route stack (R75 to R113). -/
namespace Sys2Proof.Machine

/-! ### Points -/

/-- R36: the position a point's debounced detect pair shows. -/
def State.detected (s : State) (r : PointRec) : Option Pos :=
  match s.input r.normalDetect, s.input r.reverseDetect with
  | true, false => some .normal
  | false, true => some .reverse
  | _, _ => none

/-- R78: command a point to a position. A pulse still timing the other drive output is ended first (log entry 17). -/
def State.command (s : State) (p : Nat) (q : Pos) : State :=
  match s.plan.points.get? p with
  | none => s
  | some r =>
    let st := s.point p
    if st.state = q.moving then s
    else
      let s :=
        match st.pulse with
        | some (o, _) => if o = q then s else s.setOut (r.drive o) false
        | none => s
      (s.setOut (r.drive q) true).putPoint p { st with state := q.moving, pulse := some (q, r.pulse), throw := some r.throw }

/-- R78: the end of a pulse. -/
def State.endPulse (s : State) (p : Nat) : State :=
  let st := s.point p
  match st.pulse with
  | none => s
  | some (q, _) =>
    let s := s.putPoint p { st with pulse := none }
    match s.plan.points.get? p with
    | none => s
    | some r => s.setOut (r.drive q) false

/-- R85, R86, R87: the SETTING route that waits on a point's throw: the one that locks it. A moving point is locked by
at most one route (R80). -/
def State.waitingOn (s : State) (p : Nat) : Option Nat :=
  (s.iu.routes.rows.find? (fun r =>
    decide (r.2.state = .setting ∧ r.2.moving ≠ 0) &&
    (match s.routeRec r.2 with
     | none => false
     | some d => d.settings.any (fun x => decide (x.1 = p))))).map Prod.fst

/-! ### Routes that clear -/

/-- R86: a route becomes CLEARED, and the current route of its train if that train has none. -/
def State.clearRoute (s : State) (slot : Nat) : State :=
  match s.route? slot with
  | none => s
  | some r =>
    let s := (s.putRoute slot { r with state := .cleared }).notice .routeSet r.route
    match r.train with
    | none => s
    | some k => s.updTrain k (fun t => if t.route.isNone then { t with route := some slot } else t)

/-- R86: a throw a route waits on has ended. -/
def State.throwEnded (s : State) (p : Nat) : State :=
  match s.waitingOn p with
  | none => s
  | some slot =>
    match s.route? slot with
    | none => s
    | some r =>
      let s := s.putRoute slot { r with moving := r.moving - 1 }
      if r.moving - 1 = 0 then s.clearRoute slot else s

/-! ### Release and retirement -/

/-- R99, R100: give up one lock of a point. -/
def State.unlock (s : State) (p : Nat) : State :=
  let st := s.point p
  (s.putPoint p { st with locks := st.locks - 1, demand := if st.locks ≤ 1 then none else st.demand }).handRelease

/-- The sections of a route that are RELEASED in it. -/
def releasedSections (d : RouteRec) (r : ActiveRoute) : List Nat :=
  ((d.sections.zip r.marks).filter (fun x => decide (x.2 = .released))).map Prod.fst

/-- R100: the points whose locks the route still holds. -/
def stillLocked (p : Plan) (d : RouteRec) (r : ActiveRoute) : List Nat :=
  (d.points.filter (fun x =>
    match p.points.get? x.1 with
    | none => true
    | some q => !(releasedSections d r).contains q.sect)).map Prod.fst ++ d.flanks.map Prod.fst

/-- R100 step 1: clear every reservation mark that names a slot. -/
def State.clearMarks (s : State) (slot : Nat) : State :=
  ((s.iu.marks.rows.filter (fun m => decide (m.2.slot = some slot))).map Prod.fst).foldl (fun s x => s.putMark x .free) s

/-- R86, R100 step 3: no train's current route names a slot any longer. -/
def State.forgetRoute (s : State) (slot : Nat) : State :=
  { s with tr := { s.tr with trains := ⟨s.tr.trains.rows.map (fun r =>
      (r.1, if r.2.route = some slot then { r.2 with route := none } else r.2))⟩ } }

/-- R100: a route leaves the active route table, with its notice. -/
def State.retireRoute (s : State) (slot : Nat) (c : Cause) (detail : Nat) : State :=
  match s.route? slot with
  | none => s
  | some r =>
    let s := s.clearMarks slot
    let s :=
      match s.routeRec r with
      | none => s
      | some d => (stillLocked s.plan d r).foldl State.unlock s
    let s := { s with iu := { s.iu with routes := s.iu.routes.erase slot } }
    ((s.forgetRoute slot).noticeWith c r.route detail).handRelease

/-- R166: the reasons of ROUTE_FAILED. -/
def reasonPoint : Nat := 1
def reasonCancelled : Nat := 2

/-- R99 steps 1 and 2: release one section of a route. -/
def State.releaseMark (s : State) (slot sec : Nat) : State :=
  match s.route? slot with
  | none => s
  | some r =>
    match s.routeRec r with
    | none => s
    | some d =>
      match placeOf sec d.sections with
      | none => s
      | some i =>
        let s := (s.putRoute slot { r with marks := r.marks.set i .released }).putMark sec .free
        let lying := d.points.filter (fun x => decide ((s.plan.points.get? x.1).map PointRec.sect = some sec))
        (lying.foldl (fun s x => s.unlock x.1) s).handRelease

/-- R99 step 3, R104: a route with every section RELEASED is retired with ROUTE_DONE. -/
def State.retireIfReleased (s : State) (slot : Nat) : State :=
  match s.route? slot with
  | none => s
  | some r => if r.marks.all (fun m => decide (m = .released)) then s.retireRoute slot .routeDone 0 else s

/-- R99: release a section if a route has it ENTERED. -/
def State.releaseEntered (s : State) (sec : Nat) : State :=
  match s.mark sec with
  | .route slot =>
    match s.route? slot with
    | none => s
    | some r =>
      if s.sectionMark r sec = some .entered then (s.releaseMark slot sec).retireIfReleased slot else s
  | _ => s

/-- R102, R103: the approach section of a route's entry signal is absent, or debounced clear and in no span. -/
def State.approachFree (s : State) (r : ActiveRoute) : Bool :=
  match (s.routeRec r).bind (fun d => s.plan.signals.get? d.entry) with
  | none => true
  | some g => decide (g.approach = 0) || (!s.occupied g.approach && !s.inSpan g.approach)

/-- R103: retire every CANCELLING route whose approach section is found clear, by ascending slot (log entry 60). -/
def State.approachTest (s : State) : State :=
  s.iu.routes.keys.foldl (fun s slot =>
    match s.route? slot with
    | none => s
    | some r =>
      if r.state = .cancelling ∧ s.approachFree r then s.retireRoute slot .routeFailed reasonCancelled else s) s

/-- R99, R103, R110: a tail departure or a section clear handed on by TR. -/
def State.sectionLeft (s : State) (sec : Nat) : State := (s.releaseEntered sec).wantScan.approachTest

/-- R67, R103, R110: the clearing of a stray mark handed on by TR. -/
def State.strayCleared (s : State) (_sec : Nat) : State := s.wantScan.wantArbitrate.approachTest

/-! ### Failed throws and detection -/

/-- R80, R87: a throw fails; a route that waits on it is retired. -/
def State.failThrow (s : State) (p : Nat) : State :=
  let waiting := s.waitingOn p
  let s := s.endPulse p
  let s := (s.putPoint p { s.point p with state := .failed, fault := true, throw := none }).notice .pointFailed p
  match waiting with
  | none => s
  | some slot => s.retireRoute slot .routeFailed reasonPoint

/-- R80: a section that became occupied abandons the throw of each moving point that lies in it. The manual orders no
two points of one section; the model takes them by ascending id (log entry 20). -/
def State.sectionOccupied (s : State) (sec : Nat) : State :=
  (s.plan.points.rows.filter (fun r => decide (r.2.sect = sec))).foldl (fun s r =>
    if (s.point r.1).state.inFlight then s.failThrow r.1 else s) s

/-- R79: the state a point takes by its state, its fault flag and the position its pair shows; none for no change. -/
def pointMove (st : Point) (shown : Option Pos) : Option PointState :=
  match st.state, shown with
  | .normal, some .reverse => some .reverse
  | .normal, none => some .undetected
  | .reverse, some .normal => some .normal
  | .reverse, none => some .undetected
  | .undetected, some q => some q.settled
  | .movingN, some .normal => some .normal
  | .movingR, some .reverse => some .reverse
  | .failed, some q => if st.fault then none else some q.settled
  | _, _ => none

/-- R81: a locked point that stood in its demanded position has left it. -/
def loses (before : Point) (after : PointState) : Bool :=
  match before.demand with
  | none => false
  | some q => decide (0 < before.locks ∧ before.state = q.settled ∧ after ≠ q.settled)

/-- R79, R81, R86: a detection report, or the taking of the present pair. A change into NORMAL or REVERSE is a point
settle, which retries the route stack. -/
def State.detection (s : State) (p : Nat) : State :=
  match s.plan.points.get? p with
  | none => s
  | some r =>
    let st := s.point p
    let shown := s.detected r
    match pointMove st shown with
    | none =>
      if st.state = .failed ∧ st.fault = false ∧ shown = none then
        (s.putPoint p { st with fault := true }).notice .pointFailed p
      else s
    | some after =>
      let s := s.putPoint p { st with state := after, throw := none }
      let s := if loses st after then s.notice .pointLost p else s
      let s := if st.state.inFlight then s.throwEnded p else s
      if after = .normal ∨ after = .reverse then s.wantScan else s

/-- R15, R77: a point set to UNDETECTED, unlocked and without fault; its drive pulse goes on only while its output bit
stays set (log entry 18). -/
def State.resetPoint (s : State) (p : Nat) (keepPulse : Bool) : State :=
  s.putPoint p { pulse := if keepPulse then (s.point p).pulse else none }

/-! ### The route checks (R83) -/

/-- What a SET ROUTE asks for (R82). -/
structure RouteAsk where
  route : Nat
  train : Option Nat
  station : Nat
  level : Nat
  stack : Bool
deriving DecidableEq, Repr

/-- R83 check 2, R132: the request names a train that is not in the register. -/
def State.unknownTrain (s : State) : Option Nat → Bool
  | none => false
  | some n => (s.slotOf n).isNone

/-- R82, R132: the train number of a request is absent or within 1 to 9999. -/
def trainInRange : Option Nat → Bool
  | none => true
  | some n => decide (1 ≤ n ∧ n ≤ 9999)

/-- R83 check 4: a section a route may take. -/
def State.sectionFree (s : State) (sec : Nat) : Bool :=
  decide (s.mark sec = .free) && !s.occupied sec && !s.inSpan sec && !s.stray sec

/-- R83 check 5: a point stands where a route wants it and every lock on it agrees. -/
def State.placed (s : State) (p : Nat) (q : Pos) : Bool :=
  decide ((s.point p).state = q.settled) && (decide ((s.point p).locks = 0) || decide ((s.point p).demand = some q))

/-- R83 check 5: a point the IU may command. -/
def State.movable (s : State) (p : Nat) : Bool :=
  match s.plan.points.get? p with
  | none => false
  | some r => decide ((s.point p).locks = 0) && !(s.point p).fault && s.sectionFree r.sect

/-- R83 check 6: the road a route's turntable requirement fails at. -/
def State.requirementFails (s : State) (d : RouteRec) : Option Nat :=
  match d.requirement with
  | none => none
  | some (road, e) =>
    match s.plan.roads.get? road with
    | none => some road
    | some x => if s.tc.state = .locked ∧ s.tc.pos = some (x.alignFor e) then none else some road

/-- R83: the first route check that fails, with the item that fails it; none when every check passes. -/
def State.routeCheck (s : State) (a : RouteAsk) : Option (Nat × Nat) :=
  match s.plan.routes.get? a.route with
  | none => some (1, 0)
  | some d =>
    if s.unknownTrain a.train then some (2, 0)
    else
      match s.activeAt d.entry with
      | some slot => some (3, slot)
      | none =>
        match d.reach.find? (fun x => !s.sectionFree x) with
        | some sec => some (4, sec)
        | none =>
          match d.settings.find? (fun x => !(s.placed x.1 x.2 || s.movable x.1)) with
          | some x => some (5, x.1)
          | none =>
            match s.requirementFails d with
            | some road => some (6, road)
            | none => if (lowestFree s.iu.routes 1 Config.routeSlots).isNone then some (7, 0) else none

/-! ### Activation (R85) -/

/-- R85 step 3: add one lock to a point. -/
def State.lock (s : State) (x : Nat × Pos) : State :=
  s.putPoint x.1 { s.point x.1 with locks := (s.point x.1).locks + 1, demand := some x.2 }

/-- R85: activate a route in its slot; the answer is that slot. -/
def State.activate (s : State) (d : RouteRec) (slot : Nat) (a : RouteAsk) : State :=
  let toMove := d.settings.filter (fun x => !decide ((s.point x.1).state = x.2.settled))
  let s := s.putRoute slot
    { route := a.route, train := a.train.bind s.slotOf, station := a.station, state := .setting,
      marks := d.sections.map (fun _ => .reserved), moving := toMove.length, approach := none }
  let s := d.sections.foldl (fun s x => s.putMark x (.route slot)) s
  let s := d.overlap.foldl (fun s x => s.putMark x (.overlap slot)) s
  let s := d.settings.foldl State.lock s
  let s := toMove.foldl (fun s x => s.command x.1 x.2) s
  let s := s.wantArbitrate
  if toMove.length = 0 then s.clearRoute slot else s

/-- R85: activate a route whose checks have passed in the lowest empty slot. -/
def State.activateChecked (s : State) (a : RouteAsk) : State × Nat :=
  match s.plan.routes.get? a.route, lowestFree s.iu.routes 1 Config.routeSlots with
  | some d, some slot => (s.activate d slot a, slot)
  | _, _ => (s, 0)

/-! ### The route stack (R106 to R112) -/

/-- The byte of a number (R173). -/
def byte (n : Nat) : Byte := BitVec.ofNat 8 n

/-- R108: offer a request that failed check `c` at item `i` to the route stack. The payload tells stacked by its first
byte, 1 (log entry 15). -/
def State.offer (s : State) (a : RouteAsk) (c i : Nat) : State × Answer :=
  if s.iu.stack.any (fun e => decide (e.route = a.route)) then (s, .refused .conflict [])
  else if Config.stackEntries ≤ s.iu.stack.length then (s, .refused .tableFull [])
  else
    let level := s.plan.clampLevel a.station a.level
    ({ s with iu := { s.iu with stack := s.iu.stack ++ [⟨a.route, a.train, a.station, level, level⟩] } },
      .accepted [1, byte c, byte i, byte level])

/-- R82, R83, R84: put a SET ROUTE to the IU. The payload of an activation is 0, for not stacked, and the slot (log
entry 15). -/
def State.askRoute (s : State) (a : RouteAsk) : State × Answer :=
  if !s.working then (s, .refused .badMode [])
  else if !(decide (1 ≤ a.route ∧ a.route ≤ 400) && trainInRange a.train) then (s, .refused .range [])
  else
    match s.routeCheck a with
    | none =>
      let (s', slot) := s.activateChecked a
      (s', .accepted [0, byte slot])
    | some (c, i) =>
      if c ≤ 2 then (s, .refused .noSuch [])
      else if a.stack then s.offer a c i
      else if c = 7 then (s, .refused .tableFull [])
      else (s, .refused .conflict [byte c, byte i])

/-- R112 step 3: age every older untried entry. -/
def ageOlder (untried : List Nat) : List StackEntry → List StackEntry :=
  List.map (fun e => if untried.contains e.route then { e with effective := e.effective - 1 } else e)

/-- R111: the untried entry of lowest effective level, the oldest of those. -/
def nextTry (untried : List Nat) (l : List StackEntry) : Option StackEntry :=
  (l.filter (fun e => untried.contains e.route)).foldl (fun best e =>
    match best with
    | none => some e
    | some b => if e.effective < b.effective then some e else some b) none

/-- R111: the request an entry puts through SET ROUTE. -/
def StackEntry.ask (e : StackEntry) : RouteAsk := ⟨e.route, e.train, e.station, e.clamped, false⟩

/-- R112: grant an entry: activate its route, remove it, age the older untried entries. -/
def State.grantEntry (s : State) (e : StackEntry) (untried : List Nat) : State :=
  let older := s.iu.stack.takeWhile (fun x => !decide (x.route = e.route))
  let newer := (s.iu.stack.dropWhile (fun x => !decide (x.route = e.route))).tail
  let s := (s.activateChecked e.ask).1
  { s with iu := { s.iu with stack := ageOlder untried older ++ newer } }

/-- R111: try the untried entries one at a time. -/
def retryLoop : Nat → List Nat → State → State
  | 0, _, s => s
  | n + 1, untried, s =>
    match nextTry untried s.iu.stack with
    | none => s
    | some e =>
      let rest := untried.filter (fun r => !decide (r = e.route))
      match s.routeCheck e.ask with
      | none => retryLoop n rest (s.grantEntry e rest)
      | some _ => retryLoop n rest s

/-- R111: one retry scan of the stack. -/
def State.retryScan (s : State) : State :=
  retryLoop s.iu.stack.length (s.iu.stack.map StackEntry.route) s

/-! ### Cancelling (R101 to R105) -/

/-- R104: the kept section of an OCCUPIED route assigned to a train: the first RESERVED one after the last ENTERED one,
by place. -/
def keptPlace (r : ActiveRoute) : Option Nat :=
  if r.train.isNone then none
  else
    let marks := r.marks.zipIdx
    let last := (marks.filter (fun m => decide (m.1 = .entered))).foldl (fun _ m => some m.2) none
    (marks.find? (fun m => decide (m.1 = .reserved) &&
      (match last with | none => false | some i => decide (i < m.2)))).map Prod.snd

/-- R104, R105: release every RESERVED section of a route but the one at a place. -/
def State.releaseReserved (s : State) (slot : Nat) (keep : Option Nat) : State :=
  match s.route? slot with
  | none => s
  | some r =>
    match s.routeRec r with
    | none => s
    | some d =>
      let gone := ((d.sections.zip r.marks).zipIdx.filter
        (fun x => decide (x.1.2 = .reserved ∧ some x.2 ≠ keep))).map (fun x => x.1.1)
      (gone.foldl (fun s x => s.releaseMark slot x) s).retireIfReleased slot

/-- R101 to R104: cancel an active route by its state. -/
def State.cancelActive (s : State) (slot : Nat) : State × Answer :=
  match s.route? slot with
  | none => (s, .done [])
  | some r =>
    match r.state with
    | .setting => (s.retireRoute slot .routeFailed reasonCancelled, .done [])
    | .cleared =>
      if s.approachFree r then (s.retireRoute slot .routeFailed reasonCancelled, .done [])
      else
        (s.putRoute slot { r with state := .cancelling, approach := some (s.plan.device.approachLock * 10) },
          .accepted [])
    | .cancelling => (s, .accepted [])
    | .occupied => (s.releaseReserved slot (keptPlace r), .done [])

/-- R109: remove the stack entry of a route. -/
def State.dropStacked (s : State) (route : Nat) : State :=
  { s with iu := { s.iu with stack := s.iu.stack.filter (fun e => !decide (e.route = route)) } }

/-- R101: cancel a route where the sender may: its stack entry, and the active record in a slot. -/
def State.cancelParts (s : State) (route : Nat) (drops : Bool) (slot : Option Nat) : State × Answer :=
  let s := if drops then s.dropStacked route else s
  match slot with
  | some k => s.cancelActive k
  | none => (s, .done [])

/-- The stack entry of a route. -/
def State.stacked (s : State) (route : Nat) : Option StackEntry :=
  s.iu.stack.find? (fun e => decide (e.route = route))

/-- R105: the reversal of a train: its OCCUPIED routes give up what it has not entered, by ascending slot (log
entry 60). -/
def State.reverseRoutes (s : State) (train : Nat) : State :=
  s.iu.routes.keys.foldl (fun s slot =>
    match s.route? slot with
    | none => s
    | some r => if r.state = .occupied ∧ r.train = some train then s.releaseReserved slot none else s) s

/-- R103: the end of a CANCELLING route's approach timer. -/
def State.approachExpired (s : State) (slot : Nat) : State :=
  match s.route? slot with
  | none => s
  | some r => if r.state = .cancelling then s.retireRoute slot .routeFailed reasonCancelled else s

/-! ### Entry of a train (R63, R98) -/

/-- R63: how a section is reserved for a train: on its own route, or as the first section of a route it passes onto. -/
inductive Reserved where
  | own (slot : Nat)
  | first (slot : Nat)
deriving DecidableEq, Repr

/-- R63: whether a section is reserved for the train in a slot, entered in a direction. -/
def State.reservedFor (s : State) (train : Nat) (sec : Nat) (d : Dir) : Option Reserved :=
  match s.mark sec, s.train? train with
  | .route slot, some t =>
    match s.route? slot with
    | none => none
    | some r =>
      if t.route = some slot ∧ r.state = .occupied ∧ s.sectionMark r sec = some .reserved then some (.own slot)
      else
        match s.routeRec r with
        | none => none
        | some def_ =>
          if def_.sections.head? = some sec ∧ (r.state = .cleared ∨ r.state = .cancelling) ∧
              (r.train = none ∨ r.train = some train) ∧
              (s.plan.signals.get? def_.entry).map SignalRec.dir = some d then
            some (.first slot)
          else none
  | _, _ => none

/-- R98: mark a section ENTERED in a route. -/
def ActiveRoute.enter (r : ActiveRoute) (i : Nat) : ActiveRoute := { r with marks := r.marks.set i .entered }

/-- R98: a train's head enters a section reserved for it. -/
def State.headEntry (s : State) (train sec : Nat) (how : Reserved) : State :=
  match how with
  | .own slot =>
    match s.route? slot with
    | none => s
    | some r =>
      match (s.routeRec r).bind (fun d => placeOf sec d.sections) with
      | none => s
      | some i => s.putRoute slot (r.enter i)
  | .first slot =>
    match s.route? slot with
    | none => s
    | some r =>
      let r := { r with train := some train, state := .occupied, approach := none }
      (s.putRoute slot (r.enter 0)).updTrain train (fun t => { t with route := some slot })

end Sys2Proof.Machine
end

