-- ==== Sys2Proof/Machine/Flags.lean ====
section
/-! DEFINITION. What the part shows: aspects and lamps of signals (R93 to R96), button lamps (R149), ATTN (R168) and the
status byte (R171). -/
namespace Sys2Proof.Machine

/-! ### Aspects -/

/-- R93: the proceed conditions of a route but for the mode. -/
def State.meetsBarMode (s : State) (r : ActiveRoute) : Bool :=
  match s.routeRec r with
  | none => false
  | some d =>
    decide (r.state = .cleared) &&
    d.settings.all (fun x => decide ((s.point x.1).state = x.2.settled)) &&
    d.reach.all (fun x => !s.occupied x && !s.inSpan x && !s.stray x)

/-- R93: the proceed conditions of a route. -/
def State.meets (s : State) (r : ActiveRoute) : Bool := s.working && s.meetsBarMode r

/-- R94, R117: the active route whose entry signal is a route's exit signal. -/
def State.beyond (s : State) (d : RouteRec) : Option Nat := if d.exit = 0 then none else s.activeAt d.exit

/-- R94: the routes counted from a route on, at most `n`. -/
def chainDepth (s : State) : Nat → RouteRec → Nat
  | 0, _ => 0
  | n + 1, d =>
    1 + (match (s.beyond d).bind s.route? with
      | none => 0
      | some r =>
        match s.routeRec r with
        | none => 0
        | some e => if e.cls = .main ∧ s.meets r then chainDepth s n e else 0)

/-- R94: the depth of a route, at most 3. -/
def State.depth (s : State) (d : RouteRec) : Nat := chainDepth s 3 d

/-- R93: the aspect of a depth. -/
def depthAspect (k : Nat) : Aspect :=
  if k ≤ 1 then .caution else if k = 2 then .prelim else .clear

/-- R93: the aspect a signal shows for the state as it stands. -/
def State.aspectOf (s : State) (signal : Nat) : Aspect :=
  match (s.activeAt signal).bind s.route? with
  | none => .stop
  | some r =>
    match s.routeRec r with
    | none => .stop
    | some d => if !s.meets r then .stop else if d.cls = .shunt then .shunt else depthAspect (s.depth d)

/-- R96: the lamps of an aspect. -/
def lampsFor (kind : MainShunt) : Aspect → Lamps
  | .stop => {}
  | .caution => { stop := false, caution := decide (kind = .main) }
  | .prelim => { stop := false, caution := decide (kind = .main), second := decide (kind = .main) }
  | .clear => { stop := false, clear := decide (kind = .main) }
  | .shunt => { stop := decide (kind = .main), subsidiary := true }

/-- Write an optional output bit. -/
def State.setOut? (s : State) (bit : Option Nat) (v : Bool) : State :=
  match bit with
  | none => s
  | some b => s.setOut b v

/-- R96: write a signal's aspect and its lamp bits. -/
def State.showAspect (s : State) (signal : Nat) (g : SignalRec) (a : Aspect) : State :=
  let l := lampsFor g.kind a
  let s := { s with iu := { s.iu with signals := Tab.putD {} s.iu.signals signal ⟨a, l⟩ } }
  ((((s.setOut g.stop l.stop).setOut? g.caution l.caution).setOut? g.second l.second).setOut? g.clear l.clear).setOut?
    g.subsidiary l.subsidiary

/-- R92: what the IU holds for a signal. -/
def State.signal (s : State) (signal : Nat) : Signal := Tab.getD {} s.iu.signals signal

/-- R95: give every signal whose aspect changes its new aspect. -/
def State.refreshAspects (s : State) : State :=
  s.plan.signals.rows.foldl (fun s g =>
    let a := s.aspectOf g.1
    if a = (s.signal g.1).aspect then s else s.showAspect g.1 g.2 a) s

/-- R15, R92: light the stop lamp of every signal. -/
def State.stopSignals (s : State) : State :=
  s.plan.signals.rows.foldl (fun s g => s.showAspect g.1 g.2 .stop) s

/-! ### Console functions and button lamps -/

/-- R155: a console line with a function code is asserted. -/
def State.console (s : State) (code : Nat) : Bool :=
  (s.awu.line1.accepted && decide (s.plan.device.console1 = code)) ||
  (s.awu.line2.accepted && decide (s.plan.device.console2 = code)) ||
  (s.awu.line3.accepted && decide (s.plan.device.console3 = code))

/-- R155: the function codes. -/
def emergencyStop : Nat := 1
def panelLock : Nat := 2
def boardHold : Nat := 3
def lampTest : Nat := 4
def demoAbort : Nat := 5

/-- R148, R149: a demo is in the queue or RUNNING. -/
def State.demoBusy (s : State) (demo : Nat) : Bool :=
  s.awu.queue.any (fun v => decide (v.demo = demo)) || decide (s.awu.running.map Running.demo = some demo)

/-- R149: the lamp of a button. -/
def State.lampOf (s : State) (b : ButtonRec) : Lamp :=
  if s.console lampTest then .steady
  else if !decide (s.mc.mode = .run) || s.console panelLock then .off
  else if s.demoBusy b.demo then .flash
  else .steady

/-- R144: the lamp the AWU holds for a button. -/
def State.lamp (s : State) (key : Nat) : Lamp := Tab.getD .off s.awu.lamps key

/-- R149: write a lamp. A FLASH lamp is written 1 first (log entry 19). -/
def State.showLamp (s : State) (key : Nat) (b : ButtonRec) (l : Lamp) : State :=
  { s with awu := { s.awu with lamps := Tab.putD .off s.awu.lamps key l } }.setOut b.lamp (!decide (l = Lamp.off))

/-- R149: write every button lamp whose value changes. -/
def State.refreshLamps (s : State) : State :=
  s.plan.buttons.rows.foldl (fun s b =>
    let l := s.lampOf b.2
    if l = s.lamp b.1 then s else s.showLamp b.1 b.2 l) s

/-- R27, R149: the alternate writing of the FLASH lamps at a tick. -/
def State.flashLamps (s : State) : State :=
  s.plan.buttons.rows.foldl (fun s b =>
    if s.lamp b.1 = .flash then s.setOut b.2.lamp (!s.out b.2.lamp) else s) s

/-! ### The link's flags -/

/-- R173: a cause is enabled in the mask. -/
def CLP.enabled (p : CLP) (c : Cause) : Bool := p.mask.getLsbD (c.code - 1)

/-- R168: ATTN is asserted while an entry of an enabled cause is present. -/
def State.attn (s : State) : Bool := s.clp.notices.any (fun n => s.clp.enabled n.cause)

/-- R156, R171: the number of a mode. -/
def Mode.code : Mode → Nat
  | .setup => 0
  | .run => 1
  | .quiet => 2
  | .stop => 3

/-- R171: the status byte. -/
def State.status (s : State) : Byte :=
  byte s.mc.mode.code |||
  (if s.clp.holder.isSome then 4#8 else 0#8) |||
  (if s.clp.notices.isEmpty then 0#8 else 8#8) |||
  (if s.fs.fieldFault then 16#8 else 0#8) |||
  (if s.clp.noticeLost then 32#8 else 0#8) |||
  (if s.clp.dropped then 64#8 else 0#8) |||
  (if s.fs.chain = .fault then 128#8 else 0#8)

end Sys2Proof.Machine
end

