-- ==== Sys2Proof/Machine/Speed.lean ====
section
/-! DEFINITION. The Speed Supervisor: the start route, the authority, the target and the granted grade, and the drive
port (R114 to R127). -/
namespace Sys2Proof.Machine

/-! ### Authority (R116, R117) -/

/-- R116 step 2: the routes ahead that qualify as start route. -/
def State.routesAhead (s : State) (train : Nat) (t : Train) : List Nat :=
  (s.nextSections t).filterMap (fun n =>
    match s.reservedFor train n.1 n.2 with
    | some (.first slot) => some slot
    | _ => none)

/-- R116: the start route of a train. A LOST train has none, whatever its current route (log entry 54). -/
def State.startRoute (s : State) (train : Nat) : Option Nat :=
  match s.train? train with
  | none => none
  | some t =>
    if t.state = .lost then none else
    let ahead :=
      match s.routesAhead train t with
      | [slot] => some slot
      | _ => none
    match t.route with
    | none => ahead
    | some k =>
      match s.route? k with
      | none => ahead
      | some r => if r.state = .occupied then some k else ahead

/-- The sections of a route with their marks, after the last ENTERED one. -/
def afterEntered (l : List (Nat × SectionMark)) : List (Nat × SectionMark) :=
  (l.reverse.takeWhile (fun x => !decide (x.2 = .entered))).reverse

/-- R117: the sections of a route where the walk begins: the first RESERVED one after the last ENTERED one, or the
route's first section. -/
def walkFrom (l : List (Nat × SectionMark)) : List (Nat × SectionMark) :=
  if l.any (fun x => decide (x.2 = .entered)) then (afterEntered l).dropWhile (fun x => !decide (x.2 = .reserved))
  else l

/-- R117: the walk may take a section for the train in a slot. -/
def State.walkable (s : State) (train : Nat) (d : RouteRec) (x : Nat × SectionMark) : Bool :=
  let own := decide (s.spanOf x.1 = some train)
  decide (x.2 = .reserved) && !s.stray x.1 &&
  (own || (!s.inSpan x.1 && !s.occupied x.1)) &&
  d.points.all (fun p =>
    !decide ((s.plan.points.get? p.1).map PointRec.sect = some x.1) || decide ((s.point p.1).state = p.2.settled))

/-- R117: one stretch of the authority walk: an active route with the sections taken of it. -/
structure Stretch where
  slot : Nat
  taken : List Nat
deriving DecidableEq, Repr

/-- R117: the walk takes sections of a route in CLEARED that meets the proceed conditions but for the mode, of one in
OCCUPIED whose flanks hold, and of one in CANCELLING. -/
def State.runnable (s : State) (r : ActiveRoute) (d : RouteRec) : Bool :=
  match r.state with
  | .cleared => s.meetsBarMode r
  | .occupied => d.flanks.all (fun x => decide ((s.point x.1).state = x.2.settled))
  | .cancelling => true
  | .setting => false

/-- R117: the sections of a route the walk takes, and whether it took them to the last. Of a CANCELLING route it takes the
first alone. A section RELEASED by cancellation ends it, also where it lies just ahead of the last ENTERED one. -/
def State.walkRoute (s : State) (train : Nat) (r : ActiveRoute) (d : RouteRec) : List Nat × Bool :=
  let all := d.sections.zip r.marks
  let run := (walkFrom all).takeWhile (s.walkable train d)
  if !s.runnable r d then ([], false)
  else if r.state = .cancelling then ((run.take 1).map Prod.fst, false)
  else
    (run.map Prod.fst,
      decide (run.length = (walkFrom all).length) && (!(walkFrom all).isEmpty || (afterEntered all).isEmpty))

/-- R117: a route the walk may chain into. -/
def State.chains (s : State) (train : Nat) (r : ActiveRoute) : Bool :=
  s.meetsBarMode r && decide (r.train = none ∨ r.train = some train)

/-- R117: the walk from a route on, over at most `n` routes. -/
def walk (s : State) (train : Nat) : Nat → Nat → List Stretch
  | 0, _ => []
  | n + 1, slot =>
    match s.route? slot with
    | none => []
    | some r =>
      match s.routeRec r with
      | none => []
      | some d =>
        let (taken, toEnd) := s.walkRoute train r d
        ⟨slot, taken⟩ ::
          (if toEnd then
            match s.beyond d with
            | none => []
            | some next =>
              match s.route? next with
              | none => []
              | some q => if s.chains train q then walk s train n next else []
          else [])

/-- R117: the authority walk of the train in a slot. -/
def State.authorityWalk (s : State) (train : Nat) : List Stretch :=
  match s.startRoute train with
  | none => []
  | some slot => walk s train 3 slot

/-- R117: the authority in centimetres, saturating at 65,535. -/
def State.authority (s : State) (train : Nat) : Nat :=
  min (((s.authorityWalk train).flatMap Stretch.taken).foldl (fun n x => n + s.plan.lengthOf x) 0) 65535

/-! ### The caps (R118, R119) -/

/-- R118: the speed limit of a section. -/
def Plan.limitOf (p : Plan) (x : Nat) : Nat :=
  match p.sections.get? x with
  | none => 63
  | some r => r.limit

/-- R118: the reverse limits of the points lying REVERSE in a section. -/
def State.reverseLimits (s : State) (sec : Nat) : List Nat :=
  (s.plan.points.rows.filter (fun p => decide (p.2.sect = sec ∧ (s.point p.1).state = .reverse))).map
    (fun p => p.2.reverseLimit)

/-- R118: the reverse limits of a walked route's point settings demanded REVERSE in the sections taken. -/
def State.demandedLimits (s : State) (w : Stretch) : List Nat :=
  match (s.route? w.slot).bind s.routeRec with
  | none => []
  | some d =>
    d.points.filterMap (fun x =>
      match s.plan.points.get? x.1 with
      | none => none
      | some p => if x.2 = .reverse ∧ w.taken.contains p.sect then some p.reverseLimit else none)

/-- R118: the element cap. -/
def State.elementCap (s : State) (train : Nat) (t : Train) : Nat :=
  let w := s.authorityWalk train
  (t.span.map s.plan.limitOf ++ t.span.flatMap s.reverseLimits ++ (w.flatMap Stretch.taken).map s.plan.limitOf ++
    w.flatMap s.demandedLimits).foldl min 63

/-- R118: the class of an active route. -/
def State.classOf (s : State) (slot : Nat) : Option MainShunt :=
  ((s.route? slot).bind s.routeRec).map RouteRec.cls

/-- R118: the aspect cap. -/
def State.aspectCap (s : State) (train : Nat) (t : Train) : Nat :=
  if (s.startRoute train).bind s.classOf = some .shunt ∨ t.route.bind s.classOf = some .shunt then
    s.plan.device.lowSpeed
  else 63

/-- The greatest number up to `n` whose square does not exceed `x`. -/
def sqrtUpTo : Nat → Nat → Nat
  | 0, _ => 0
  | n + 1, x => if (n + 1) * (n + 1) ≤ x then n + 1 else sqrtUpTo n x

/-- R119: the braking limit of a braking rate and an authority: the integer square root, capped at 63. -/
def brakingLimit (a d : Nat) : Nat := sqrtUpTo 63 (2 * a * d)

/-! ### The target (R119, R120) -/

/-- R119: a section holds back a train whose next section it is. -/
def State.blocked (s : State) (train : Nat) (sec : Nat) : Bool :=
  s.stray sec ||
  (match s.spanOf sec with
   | none => s.occupied sec
   | some k => !decide (k = train))

/-- R119: an emergency cause holds. -/
def State.emergencyCause (s : State) (train : Nat) (t : Train) : Bool :=
  !s.working || decide (t.state = .lost) || t.overrun || decide (s.fs.chain = .fault) ||
  (s.nextSections t).any (fun n => s.blocked train n.1)

/-- R119: the least of the five grades. -/
def State.provisional (s : State) (train : Nat) (t : Train) : Nat :=
  let c := s.plan.classes.get t.cls
  min (min (min (min t.requested c.maxGrade) (s.elementCap train t)) (s.aspectCap train t))
    (brakingLimit c.braking (s.authority train))

/-- R119: the target of a train. -/
def State.targetOf (s : State) (train : Nat) (t : Train) : Nat :=
  if s.emergencyCause train t ∨ t.state = .held ∨ t.state = .turning then 0 else s.provisional train t

/-! ### The granted grade and the urgent list (R120 to R124) -/

/-- R124: a train joins the tail of the urgent list unless it is on it. -/
def State.joinUrgent (s : State) (train : Nat) : State :=
  if s.ss.urgent.contains train then s else { s with ss := { s.ss with urgent := s.ss.urgent ++ [train] } }

/-- R121, R124, R134: write a changed granted grade. -/
def State.grant (s : State) (train : Nat) (t : Train) (g : Nat) : State :=
  let s := (s.putTrain train { t with granted := g }).joinUrgent train
  if s.tc.queue.any (fun q => decide (q.train = some t.number)) then s.wantArbitrate else s

/-- R119, R120, R121: recompute a train's target, and bring its granted grade down at once. -/
def State.recompute (s : State) (train : Nat) : State :=
  match s.train? train with
  | none => s
  | some t =>
    let target := s.targetOf train t
    let falls := decide (target < t.granted)
    let mark := (s.speed train).emergency || (falls && decide (target = 0) && s.emergencyCause train t)
    let s := s.putSpeed train ⟨target, mark⟩
    if falls then s.grant train t target else s

/-- R115: recompute every train, in ascending slot order. -/
def State.recomputeAll (s : State) : State := s.tr.trains.keys.foldl State.recompute s

/-- R122: raise a train's granted grade towards its target at a tick. -/
def State.ramp (s : State) (train : Nat) : State :=
  match s.train? train with
  | none => s
  | some t =>
    let target := (s.speed train).target
    if t.granted < target then
      let g := min target (t.granted + (s.plan.classes.get t.cls).accel)
      let s := s.putSpeed train { s.speed train with emergency := (s.speed train).emergency && decide (g = 0) }
      s.grant train t g
    else s

/-- R122: the SS's part of a tick. -/
def State.rampAll (s : State) : State := s.tr.trains.keys.foldl State.ramp s

/-! ### The drive port (R123 to R126) -/

/-- R123: the broadcast STOP-ALL. -/
def stopAllOrder : DriveOrder := ⟨0, 0, .forward, true⟩

/-- R123: the order for a train, as its record stands. -/
def State.orderFor (s : State) (train : Nat) (t : Train) : DriveOrder :=
  ⟨t.number, t.granted, t.sense, (s.speed train).emergency⟩

/-- R125: the slot of the next refresh order. -/
def State.nextRefresh (s : State) : Option Nat :=
  match s.tr.trains.keys.find? (fun k => decide (s.ss.refresh < k)) with
  | some k => some k
  | none => s.tr.trains.keys.head?

/-- R123, R124: start the order of a train; it leaves the urgent list. -/
def State.startOrder (s : State) (train : Nat) (refresh : Bool) : State :=
  match s.train? train with
  | none => { s with ss := { s.ss with urgent := s.ss.urgent.filter (fun k => !decide (k = train)) } }
  | some t =>
    { s with ss := { s.ss with
        urgent := s.ss.urgent.filter (fun k => !decide (k = train)),
        refresh := if refresh then train else s.ss.refresh,
        port := some (s.orderFor train t) } }

/-- R123: an idle port starts the order to be sent next, if there is one. -/
def State.kickPort (s : State) : State :=
  match s.ss.port with
  | some _ => s
  | none =>
    if s.ss.broadcast then { s with ss := { s.ss with broadcast := false, port := some stopAllOrder } }
    else
      match s.ss.urgent with
      | k :: _ => s.startOrder k false
      | [] =>
        match s.nextRefresh with
        | some k => s.startOrder k true
        | none => s

/-- R175: the five characters of a drive order. -/
def DriveOrder.characters (o : DriveOrder) : List Byte :=
  let hi := byte (o.number / 256)
  let lo := byte o.number
  let body := byte (o.grade % 64 + (if o.sense = .backward then 64 else 0) + (if o.emergency then 128 else 0))
  [126#8, hi, lo, body, 126#8 ^^^ hi ^^^ lo ^^^ body]

end Sys2Proof.Machine
end

