-- ==== Sys2Proof/Machine/Turntable.lean ====
section
/-! DEFINITION. The Turntable Controller: homing, turn requests and arbitration, bursts, move planning, the move and its
faults (R128 to R143). -/
namespace Sys2Proof.Machine

/-- Write what the TC holds. -/
def State.setTc (s : State) (tc : TC) : State := { s with tc := tc }

/-- Write the turntable outputs; while the turntable is absent its bit fields are not read (R8). -/
def State.driveTable (s : State) (cw acw release : Bool) : State :=
  let t := s.plan.turntable
  if t.present then ((s.setOut t.cwBit cw).setOut t.acwBit acw).setOut t.releaseBit release else s

/-- The rotate outputs of a direction, with the lock release output at 1. -/
def State.driveTurning (s : State) (d : Turning) : State :=
  s.driveTable (decide (d = .clockwise)) (decide (d = .anticlockwise)) true

/-- R128: the TC at its power-up values with an empty queue. -/
def TC.unindexed : TC := {}

/-! ### Planning a move (R136) -/

/-- R136: clockwise and anticlockwise steps from `p` to `t`. -/
def stepsCw (p t : Nat) : Nat := (t + 48 - p) % 48
def stepsAcw (p t : Nat) : Nat := (p + 48 - t) % 48

/-- R136: the steps in a direction. -/
def stepsTo (p t : Nat) : Turning → Nat
  | .clockwise => stepsCw p t
  | .anticlockwise => stepsAcw p t

/-- R136: the stop sector bars a path. -/
def barred (z : Option Nat) (p t : Nat) (d : Turning) : Bool :=
  match z with
  | none => false
  | some z =>
    match d with
    | .clockwise => decide ((z + 48 - p) % 48 < stepsCw p t)
    | .anticlockwise => decide ((p + 48 - (z + 1) % 48) % 48 < stepsAcw p t)

/-- R136: the target of an end: the position of end A that puts it at index `q`. -/
def targetFor (q : Nat) : End → Nat
  | .a => q
  | .b => opposite q

/-- R136: the ends a request allows, end A first. -/
def EndChoice.ends : EndChoice → List End
  | .a => [.a]
  | .b => [.b]
  | .either => [.a, .b]

/-- R136: the candidate moves in the order that settles ties, end A before B and clockwise before anticlockwise. -/
def candidates (p q : Nat) (e : EndChoice) : List Move :=
  e.ends.flatMap (fun x => [Turning.clockwise, Turning.anticlockwise].map (fun d =>
    ⟨targetFor q x, x, d, stepsTo p (targetFor q x) d⟩))

/-- The first move of fewest steps. -/
def fewest : List Move → Option Move
  | [] => none
  | m :: t =>
    match fewest t with
    | none => some m
    | some n => if m.steps ≤ n.steps then some m else some n

/-- R136: the move chosen. -/
def planMove (p q : Nat) (e : EndChoice) (z : Option Nat) : Option Move :=
  fewest ((candidates p q e).filter (fun m => !barred z p m.target m.dir))

/-- R141: the move to one target planned afresh. -/
def planAgain (p : Nat) (m : Move) (z : Option Nat) : Option Move :=
  fewest (([Turning.clockwise, Turning.anticlockwise].map (fun d =>
    { m with dir := d, steps := stepsTo p m.target d })).filter (fun m => !barred z p m.target m.dir))

/-- R136, R138: one step of end A. -/
def stepFrom (p : Nat) : Turning → Nat
  | .clockwise => (p + 1) % 48
  | .anticlockwise => (p + 47) % 48

/-! ### Eligibility (R133) -/

/-- The trains whose span holds a section. -/
def State.trainsOn (s : State) (sec : Nat) : List (Nat × Train) :=
  s.tr.trains.rows.filter (fun r => r.2.span.contains sec)

/-- R133: a turn request is eligible. -/
def State.eligible (s : State) (e : TurnReq) : Bool :=
  let b := s.plan.turntable.bridge
  decide (s.mark b = .free) && !s.stray b &&
  (match e.train with
   | none => (s.trainsOn b).isEmpty
   | some n =>
     (s.trainsOn b).all (fun r => decide (r.2.number = n)) &&
     (match (s.slotOf n).bind s.train? with
      | none => false
      | some t => decide (t.span = [b] ∧ t.granted = 0 ∧ (t.state = .active ∨ t.state = .held))))

/-! ### The end of a request (R139) and faults (R140) -/

/-- The queue without the entry at a place; the entries behind it close up (R128). -/
def State.removeTurn (s : State) (i : Nat) : State :=
  s.setTc { s.tc with
    queue := s.tc.queue.eraseIdx i,
    served := s.tc.served.bind (fun k => if k = i + 1 then none else if i + 1 < k then some (k - 1) else some k) }

/-- R129, R139: hand the end of a served request to the AWU. -/
def State.handTurnEnd (s : State) (e : TurnReq) (completed : Bool) : State :=
  { s with due := { s.due with turnEnds := s.due.turnEnds ++ [⟨e.station, e.train, e.road, completed⟩] } }

/-- R137, R139, R140: take a served train back out of TURNING into its return state and test its span (R71). -/
def State.handBack (s : State) (e : TurnReq) : State :=
  match s.tc.returnHeld, e.train.bind s.slotOf with
  | some held, some slot =>
    let s := s.setTc { s.tc with returnHeld := none }
    ((s.updTrain slot (fun t => { t with state := if held then .held else .active })).testSpan slot).wantArbitrate
  | _, _ => s.setTc { s.tc with returnHeld := none }

/-- R139: the request at a place ends. `stopEnd` keeps the end for the burst rule when the mode is STOP (R141). -/
def State.endRequest (s : State) (i : Nat) (e : TurnReq) : State :=
  let s := (s.handBack e).removeTurn i
  let s := s.setTc { s.tc with served := none, move := none, stopEnd := decide (s.mc.mode = .stop) }
  ((s.notice .turnDone e.road).handTurnEnd e true).wantArbitrate

/-- The served request and its place. -/
def State.servedTurn (s : State) : Option (Nat × TurnReq) :=
  s.tc.served.bind (fun k => (s.tc.queue[k - 1]?).map (fun e => (k - 1, e)))

/-- R129, R131, R138: the turntable becomes LOCKED. -/
def State.becomeLocked (s : State) : State :=
  (s.setTc { s.tc with state := .locked, timer := none, phase := none, index := none }).handRelease

/-- R140: the turntable becomes FAULTED at a stage. -/
def State.faultTable (s : State) (stage : Nat) : State :=
  let s := s.driveTable false false false
  let s := s.setTc { s.tc with state := .faulted, timer := none, phase := none, index := none }
  let s :=
    match s.servedTurn with
    | none => s
    | some (i, e) =>
      let s := (s.handBack e).removeTurn i
      (s.setTc { s.tc with served := none, move := none }).handTurnEnd e false
  let s := s.setTc { s.tc with burst := none, preempt := false, stopEnd := false }
  (s.notice .turntableFault stage).wantArbitrate

/-! ### Grants (R134, R135, R137) -/

/-- R134: age every older eligible request. -/
def State.ageTurns (s : State) (i : Nat) : State :=
  s.setTc { s.tc with queue := s.tc.queue.zipIdx.map (fun x =>
    if x.2 < i ∧ s.eligible x.1 then { x.1 with effective := x.1.effective - 1 } else x.1) }

/-- R137: start a move with steps for the request at a place. -/
def State.startMove (s : State) (i : Nat) (e : TurnReq) (m : Move) : State :=
  let held := ((e.train.bind s.slotOf).bind s.train?).map (fun t => decide (t.state = .held))
  let s := s.setTc { s.tc with
    state := .unlocking, move := some m, served := some (i + 1), returnHeld := held,
    timer := some s.plan.turntable.lockTimeout }
  let s :=
    match e.train.bind s.slotOf with
    | none => s
    | some slot => s.updTrain slot (fun t => { t with state := .turning })
  s.driveTable false false true

/-- R134, R135: a grant ages the older eligible requests and starts or ends a burst. -/
def State.openGrant (s : State) (i : Nat) (e : TurnReq) : State :=
  let newest := decide (i + 1 = s.tc.queue.length)
  let s := s.ageTurns i
  let s := s.setTc { s.tc with burst := if e.follow then some e.station else none, preempt := false, stopEnd := false }
  { s with due := { s.due with newestGranted := s.due.newestGranted || newest } }

/-- R136, R137: plan the move of the request at a place: it ends at once or starts. -/
def State.serveTurn (s : State) (i : Nat) (e : TurnReq) : State :=
  match s.tc.pos, s.plan.roads.get? e.road with
  | some p, some road =>
    match planMove p road.index e.endAt s.plan.turntable.stopSector with
    | none => s
    | some m => if m.steps = 0 then s.endRequest i e else s.startMove i e m
  | _, _ => s

/-- R135, R137: grant the request at a place. -/
def State.grantTurn (s : State) (i : Nat) (e : TurnReq) : State := (s.openGrant i e).serveTurn i e

/-- R134: the eligible request of lowest effective level, the oldest of those, with its place. -/
def State.bestTurn (s : State) : Option (Nat × TurnReq) :=
  (s.tc.queue.zipIdx.filter (fun x => s.eligible x.1)).foldl (fun best x =>
    match best with
    | none => some (x.2, x.1)
    | some b => if x.1.effective < b.2.effective then some (x.2, x.1) else some b) none

/-- R135: the oldest request of a station, with its place. -/
def State.oldestFrom (s : State) (station : Nat) : Option (Nat × TurnReq) :=
  (s.tc.queue.zipIdx.find? (fun x => decide (x.1.station = station))).map (fun x => (x.2, x.1))

/-- R134: the TC may grant. -/
def State.free (s : State) : Bool :=
  decide (s.tc.state = .locked) && s.tc.served.isNone && s.working

/-- R134, R135: arbitration and the burst rule, until nothing more is granted. Each round ends a burst or grants. -/
def arbitrateLoop : Nat → State → State
  | 0, s => s
  | n + 1, s =>
    if !s.free then s
    else
      match s.tc.burst with
      | some station =>
        if s.tc.preempt then arbitrateLoop n (s.setTc { s.tc with burst := none, preempt := false, stopEnd := false })
        else
          match s.oldestFrom station with
          | none => arbitrateLoop n (s.setTc { s.tc with burst := none, stopEnd := false })
          | some (i, e) =>
            if s.eligible e then arbitrateLoop n (s.grantTurn i e) else s.setTc { s.tc with stopEnd := false }
      | none =>
        match s.bestTurn with
        | none => s.setTc { s.tc with stopEnd := false }
        | some (i, e) => arbitrateLoop n (s.grantTurn i e)

/-- R134: what the TC does at the end of each of its events. A round removes a request, starts a move or ends a burst,
and a burst starts with a grant, so two rounds for each place of the queue and two more are enough. -/
def State.arbitrate (s : State) : State := arbitrateLoop (2 * s.tc.queue.length + 2) s

/-! ### Requests of the TC (R130, R132, R142) -/

/-- What a TURN asks for (R132). -/
structure TurnAsk where
  train : Option Nat
  road : Nat
  endAt : EndChoice
  station : Nat
  level : Nat
  follow : Bool
deriving DecidableEq, Repr

/-- R132, R135: write an admitted request at the back of the queue, setting the preempt mark where it preempts. -/
def State.admitTurn (s : State) (a : TurnAsk) : State :=
  let level := s.plan.clampLevel a.station a.level
  let preempts :=
    match s.tc.burst with
    | none => false
    | some b => decide (b ≠ a.station ∧ level ≤ 3)
  s.setTc { s.tc with
    queue := s.tc.queue ++ [⟨a.train, a.road, a.endAt, a.station, level, level, a.follow⟩],
    preempt := s.tc.preempt || preempts }

/-- R132: the train named is longer than the bridge. -/
def State.overlong (s : State) (n : Option Nat) : Bool :=
  match (n.bind s.slotOf).bind s.train? with
  | none => false
  | some t => decide (s.plan.lengthOf s.plan.turntable.bridge < t.length)

/-- R132: a turn request that names the train stands in the queue. -/
def State.waitsToTurn (s : State) : Option Nat → Bool
  | none => false
  | some n => s.tc.queue.any (fun e => decide (e.train = some n))

/-- R132: the tests of a TURN, in order; none when all pass. -/
def State.turnRefusal (s : State) (a : TurnAsk) : Option Reason :=
  if !s.working then some .badMode
  else if !(decide (1 ≤ a.road ∧ a.road ≤ 20) && trainInRange a.train) then some .range
  else if s.tc.state = .unindexed ∨ s.tc.state = .faulted then some .notIndexed
  else if (s.plan.roads.get? a.road).isNone then some .noSuch
  else if s.unknownTrain a.train then some .noSuch
  else if s.overlong a.train then some .tooLong
  else if s.waitsToTurn a.train then some .conflict
  else if Config.turnEntries ≤ s.tc.queue.length then some .tableFull
  else none

/-- R132: put a TURN to the TC. -/
def State.askTurn (s : State) (a : TurnAsk) : State × Answer :=
  match s.turnRefusal a with
  | some r => (s, .refused r [])
  | none =>
    let s := s.admitTurn a
    let arrival := s.tc.queue.length
    let s := ({ s with due := { s.due with newestGranted := false } } : State).arbitrate
    (s, .accepted [byte arrival, byte (s.plan.clampLevel a.station a.level), if s.due.newestGranted then 1#8 else 0#8])

/-- R130: the bridge is free for homing. -/
def State.freeForHoming (s : State) : Bool :=
  let b := s.plan.turntable.bridge
  decide (s.mark b = .free) && !s.stray b &&
  (s.trainsOn b).all (fun r => decide (r.2.span = [b] ∧ r.2.granted = 0))

/-- R131: the RELEASE phase ends: SEEK. -/
def State.seek (s : State) : State :=
  (s.setTc { s.tc with phase := some .seek, index := some 0, timer := some s.plan.turntable.stepTimeout }).driveTable
    true false true

/-- R130: put a HOME TURNTABLE to the TC. -/
def State.askHome (s : State) (station : Nat) : State × Answer :=
  if station ≠ 0 then (s, .refused .notPermitted [])
  else if !s.working then (s, .refused .badMode [])
  else if !s.plan.turntable.present then (s, .refused .notIndexed [])
  else if s.tc.state = .homing ∨ s.tc.state = .unlocking ∨ s.tc.state = .moving ∨ s.tc.state = .locking then
    (s, .refused .busy [])
  else if !s.freeForHoming then (s, .refused .conflict [])
  else
    let s := s.setTc { s.tc with
      state := .homing, phase := some .release, pos := none, index := none, burst := none, preempt := false,
      stopEnd := false, timer := some s.plan.turntable.lockTimeout }
    let s := (s.driveTable false false true).wantArbitrate
    (if s.input s.plan.turntable.lockBit then s else s.seek, .accepted [])

/-- R135: the follower a waiting burst holds the turntable for, by place. -/
def State.waitedFor (s : State) : Option Nat :=
  if s.tc.state = .locked ∧ s.tc.served.isNone ∧ s.tc.stopEnd = false then
    (s.tc.burst.bind s.oldestFrom).map Prod.fst
  else none

/-- R135, R142: an entry leaves the queue before it is served; a burst waiting for it ends. -/
def State.dropTurn (s : State) (i : Nat) : State :=
  let ends := decide (s.waitedFor = some i)
  let s := s.removeTurn i
  (if ends then s.setTc { s.tc with burst := none, preempt := false } else s).wantArbitrate

/-- R47, R142: the place of the request that names a train. -/
def State.turnOf (s : State) (number : Nat) : Option Nat :=
  (s.tc.queue.zipIdx.find? (fun x => decide (x.1.train = some number))).map Prod.snd

/-- R142: the place of the oldest plain alignment of a station for a road and end. -/
def State.plainTurn (s : State) (station road : Nat) (e : EndChoice) : Option Nat :=
  (s.tc.queue.zipIdx.find? (fun x =>
    decide (x.1.train = none ∧ x.1.station = station ∧ x.1.road = road ∧ x.1.endAt = e))).map Prod.snd

/-- R47: a retired train's requests leave the queue. -/
def State.dropTurnsOf (s : State) (number : Nat) : State :=
  match s.turnOf number with
  | none => s
  | some i => s.dropTurn i

/-! ### Sensor events and timers (R131, R138) -/

/-- R131: an index arrival without a home arrival, in the SEEK phase. -/
def State.countIndex (s : State) : State :=
  let n := (s.tc.index.getD 0) + 1
  if 48 ≤ n then s.faultTable 4
  else s.setTc { s.tc with index := some n, timer := some s.plan.turntable.stepTimeout }

/-- R131: the home arrival in the SEEK phase: ENGAGE at position 0. -/
def State.engage (s : State) : State :=
  (s.setTc { s.tc with
    phase := some .engage, index := none, pos := some 0, timer := some s.plan.turntable.lockTimeout }).driveTable
    false false false

/-- R138: an index arrival in MOVING or HALTED. -/
def State.stepIndex (s : State) (m : Move) : State :=
  let s := s.setTc { s.tc with
    pos := s.tc.pos.map (fun p => stepFrom p m.dir), move := some { m with steps := m.steps - 1 } }
  if s.tc.state = .moving then
    if m.steps - 1 = 0 then
      (s.setTc { s.tc with state := .locking, timer := some s.plan.turntable.lockTimeout }).driveTable false false false
    else s.setTc { s.tc with timer := some s.plan.turntable.stepTimeout }
  else s

/-- R131, R138: an index or home arrival. -/
def State.arrival (s : State) (index home : Bool) : State :=
  match s.tc.state with
  | .homing => if s.tc.phase = some .seek then (if home then s.engage else if index then s.countIndex else s) else s
  | .moving | .halted =>
    match s.tc.move with
    | none => s
    | some m => if index then s.stepIndex m else s
  | _ => s

/-- R131, R138: lock confirmed. -/
def State.lockConfirmed (s : State) : State :=
  match s.tc.state with
  | .homing => if s.tc.phase = some .engage then s.becomeLocked.notice .turnDone 0 else s
  | .locking =>
    match s.servedTurn with
    | none => s.becomeLocked
    | some (i, e) => s.becomeLocked.endRequest i e
  | _ => s

/-- R131, R138: lock dropped. -/
def State.lockDropped (s : State) : State :=
  match s.tc.state with
  | .homing => if s.tc.phase = some .release then s.seek else s
  | .unlocking =>
    if s.mc.mode = .stop then s.setTc { s.tc with state := .halted, timer := none }
    else
      match s.tc.move with
      | none => s
      | some m =>
        (s.setTc { s.tc with state := .moving, timer := some s.plan.turntable.stepTimeout }).driveTurning m.dir
  | .locked => s.faultTable 5
  | _ => s

/-- R37: a sensor report: the index and home arrivals, then the lock (log entry 20). -/
def State.sensors (s : State) (index home confirmed dropped : Bool) : State :=
  let s := s.arrival index home
  let s := if confirmed then s.lockConfirmed else s
  (if dropped then s.lockDropped else s).wantArbitrate

/-- R131, R138, R140: the timer's expiry. -/
def State.tableTimeout (s : State) : State :=
  match s.tc.state, s.tc.phase with
  | .homing, some .release => s.faultTable 1
  | .homing, some .seek => s.faultTable 2
  | .homing, some .engage => s.faultTable 3
  | .unlocking, _ => s.faultTable 1
  | .moving, _ => s.faultTable 2
  | .locking, _ => s.faultTable 3
  | _, _ => s

/-- R131, R138: the TC's part of a tick. -/
def State.tableTick (s : State) : State :=
  (match s.tc.timer with
   | none => s
   | some n => if n ≤ 1 then s.tableTimeout else s.setTc { s.tc with timer := some (n - 1) }).wantArbitrate

/-! ### Stopping and resuming (R131, R141) -/

/-- R141: the TC at a change of mode to STOP. -/
def State.tableStops (s : State) : State :=
  match s.tc.state, s.tc.phase with
  | .moving, _ => (s.setTc { s.tc with state := .halted, timer := none }).driveTable false false true
  | .homing, some .engage => s
  | .homing, _ =>
    (s.setTc { s.tc with state := .unindexed, pos := none, phase := none, index := none, timer := none }).driveTable
      false false false
  | _, _ => s

/-- R141: the move a HALTED turntable goes on with. -/
def resumedMove (p : Nat) (m : Move) (z : Option Nat) : Move :=
  if 0 < m.steps ∨ p = m.target then { m with steps := stepsTo p m.target m.dir }
  else (planAgain p m z).getD m

/-- R141: the TC at a change of mode from STOP to RUN or QUIET. -/
def State.tableResumes (s : State) : State :=
  match s.tc.state, s.tc.move, s.tc.pos with
  | .halted, some m, some p =>
    let m := resumedMove p m s.plan.turntable.stopSector
    if m.steps = 0 then
      (s.setTc { s.tc with state := .locking, move := some m, timer := some s.plan.turntable.lockTimeout }).driveTable
        false false false
    else
      (s.setTc { s.tc with state := .moving, move := some m, timer := some s.plan.turntable.stepTimeout }).driveTurning
        m.dir
  | _, _, _ => s.arbitrate

end Sys2Proof.Machine
end

