-- ==== Sys2Proof/Machine/Automatic.lean ====
section
/-! DEFINITION. The Automatic Working Unit: requested grades and dwells, triggers, the visitor queue, demonstrations and
the departure boards (R144 to R155). -/
namespace Sys2Proof.Machine

/-! ### Grades, dwells and triggers (R145 to R147) -/

/-- Write a train's requested grade. -/
def State.requestGrade (s : State) (slot g : Nat) : State := s.updTrain slot (fun t => { t with requested := g })

/-- R146: send a route request for a train, as its cab or as station 40. -/
def State.triggerRoute (s : State) (slot route : Nat) : State :=
  match s.train? slot with
  | none => s
  | some t =>
    let station :=
      match t.owner with
      | .cab c _ => c
      | _ => 40
    (s.askRoute ⟨route, some t.number, station, s.plan.floor station, true⟩).1

/-- Write a train's dwell remaining with its dwell record. -/
def State.putDwell (s : State) (slot : Nat) (d : Option (Nat × DwellRec)) : State :=
  let s := s.updTrain slot (fun t => { t with dwell := d.map Prod.fst })
  { s with awu := { s.awu with dwells :=
      match d with
      | none => s.awu.dwells.erase slot
      | some (_, r) => s.awu.dwells.put slot r } }

/-- R146: start a dwell, or replace the running one and keep its saved grade. -/
def State.startDwell (s : State) (slot ticks route : Nat) : State :=
  match s.train? slot with
  | none => s
  | some t =>
    let saved :=
      match s.awu.dwells.get? slot with
      | none => t.requested
      | some r => r.grade
    (s.putDwell slot (some (ticks, ⟨saved, route⟩))).requestGrade slot 0

/-- R147: the end of a dwell. -/
def State.endDwell (s : State) (slot : Nat) : State :=
  match s.awu.dwells.get? slot with
  | none => s
  | some r => ((s.requestGrade slot r.grade).putDwell slot none).triggerRoute slot r.route

/-! ### Demonstrations (R150, R151) -/

/-- R166: the reasons of DEMO_ENDED. -/
inductive DemoEnd where
  | complete | timeout | stopped | retired
deriving DecidableEq, Repr

/-- R166: the detail of a reason. -/
def DemoEnd.detail : DemoEnd → Nat
  | .complete => 1
  | .timeout => 2
  | .stopped => 3
  | .retired => 4

/-- R101 test 4 for station 40 at the end of a demo: the entry is its own or names the demo's train (log entry 63). -/
def StackEntry.ofDemo (e : StackEntry) (number : Nat) : Bool :=
  decide (e.station = 40) || decide (e.train = some number)

/-- R101, R151 step 2: cancel as station 40 every CLEARED route assigned to the demo's train, by ascending slot (log entry
60), its stack entry with it where station 40 may act on that. -/
def State.cancelClearedOf (s : State) (slot number : Nat) : State :=
  s.iu.routes.keys.foldl (fun s k =>
    match s.route? k with
    | none => s
    | some r =>
      if r.train = some slot ∧ r.state = .cleared then
        (s.cancelParts r.route ((s.stacked r.route).any (fun e => e.ofDemo number)) (some k)).1
      else s) s

/-- R151 step 2: withdraw as station 40 the waiting turn request that names a train. -/
def State.withdrawWaiting (s : State) (number : Nat) : State :=
  match s.turnOf number with
  | none => s
  | some i => if s.tc.served = some (i + 1) then s else s.dropTurn i

/-- R12: a demo is a TURN. -/
def Plan.isTurnDemo (p : Plan) (demo : Nat) : Bool :=
  match p.demos.get? demo with
  | some ⟨.turn _ _, _, _⟩ => true
  | _ => false

/-- R149: start the cooldown of a panel. -/
def State.startCooldown (s : State) (panel : Nat) : State :=
  if panel = 0 then s
  else { s with awu := { s.awu with cooldown := Tab.putD 0 s.awu.cooldown panel (s.plan.device.cooldown * 10) } }

/-- R151: end the running demo. The start attempt that may follow is handed on. -/
def State.endDemo (s : State) (why : DemoEnd) : State :=
  match s.awu.running with
  | none => s
  | some d =>
    let s :=
      match s.slotOf d.train with
      | none => s
      | some slot =>
        let s := (s.requestGrade slot 0).putDwell slot none
        if why = DemoEnd.complete then s else s.cancelClearedOf slot d.train
    let s := if why ≠ DemoEnd.complete ∧ s.plan.isTurnDemo d.demo then s.withdrawWaiting d.train else s
    let s := (s.startCooldown d.panel).noticeWith .demoEnded d.demo why.detail
    { s with awu := { s.awu with running := none } }.wantAttempt

/-- R150: whether the head's request is accepted, with the state after it. -/
def State.demoRequest (s : State) (d : DemoRec) : State × Answer :=
  match d.kind with
  | .run route _ => s.askRoute ⟨route, some d.train, 40, 14, false⟩
  | .turn road e => s.askTurn ⟨some d.train, road, e, 40, 14, false⟩

/-- R150: an answer is ACCEPTED. -/
def Answer.isAccepted : Answer → Bool
  | .accepted _ => true
  | _ => false

/-- R150: the effects of a successful start. -/
def State.startDemo (s : State) (v : Visitor) (d : DemoRec) (slot : Nat) : State :=
  let s := { s with awu := { s.awu with
    queue := s.awu.queue.tail, running := some ⟨v.demo, d.train, v.panel, v.button, d.limit * 10⟩ } }
  let s :=
    match d.kind with
    | .run _ g => s.requestGrade slot g
    | .turn _ _ => s
  s.notice .demoStarted v.demo

/-- R150: a start attempt: the demo at the head of the queue, in RUN, with no demo running. -/
def State.attemptStart (s : State) : State :=
  if !decide (s.mc.mode = .run) || s.awu.running.isSome then s
  else
    match s.awu.queue with
    | [] => s
    | v :: _ =>
      match s.plan.demos.get? v.demo with
      | none => s
      | some d =>
        match s.slotOf d.train with
        | none => s
        | some slot =>
          match s.train? slot with
          | none => s
          | some t =>
            if t.owner = .awu ∧ t.auto ∧ t.granted = 0 then
              let (s', a) := s.demoRequest d
              if a.isAccepted then s'.startDemo v d slot else s
            else s

/-- R151: the end of a served turn request, handed on by the TC. -/
def State.turnEnded (s : State) (e : TurnEnd) : State :=
  let mine :=
    match s.awu.running with
    | none => false
    | some d => decide (e.station = 40 ∧ e.train = some d.train) && s.plan.isTurnDemo d.demo
  (if e.completed && mine then s.endDemo .complete else s).wantAttempt

/-- R148: admit a demo to the visitor queue; a full queue under KEEP_NEWEST drops its head. -/
def State.admitDemo (s : State) (v : Visitor) : State :=
  let full := decide (Config.visitorEntries ≤ s.awu.queue.length)
  let idle := s.awu.queue.isEmpty && s.awu.running.isNone
  let s := { s with awu := { s.awu with queue := (if full then s.awu.queue.tail else s.awu.queue) ++ [v] } }
  if idle || full then s.wantAttempt else s

/-- R148: a press report. -/
def State.press (s : State) (panel button : Nat) (b : ButtonRec) : State :=
  if !decide (s.mc.mode = .run) || s.console panelLock || s.demoBusy b.demo ||
      !decide (Tab.getD 0 s.awu.cooldown panel = 0) then s
  else if Config.visitorEntries ≤ s.awu.queue.length ∧ s.plan.device.policy = .keepOldest then s
  else s.admitDemo ⟨b.demo, panel, button⟩

/-- R152: empty the visitor queue without notice. -/
def State.emptyVisitors (s : State) : State := { s with awu := { s.awu with queue := [] } }

/-! ### Boards (R153, R154) -/

/-- R153: the routes a train's walk runs through: the start route, then routes assigned to the train, at most `n`. -/
def boardRoutes (s : State) (train : Nat) : Nat → Nat → List ActiveRoute
  | 0, _ => []
  | n + 1, slot =>
    match s.route? slot with
    | none => []
    | some r =>
      r :: (match (s.routeRec r).bind s.beyond with
        | none => []
        | some next =>
          match s.route? next with
          | none => []
          | some q =>
            if q.train = some train ∧ (q.state = .cleared ∨ q.state = .occupied) then boardRoutes s train n next else [])

/-- The sections of a route in order of travel, each with its mark. -/
def State.markedSections (s : State) (r : ActiveRoute) : List (Nat × SectionMark) :=
  match s.routeRec r with
  | none => []
  | some d => d.sections.zip r.marks

/-- R153: the RESERVED ones of some sections of a route, each with whether the route is CLEARED or OCCUPIED and assigned to
the train. -/
def ActiveRoute.ahead (r : ActiveRoute) (train : Nat) (sections : List (Nat × SectionMark)) : List (Nat × Bool) :=
  (sections.filter (fun x => decide (x.2 = .reserved))).map
    (fun x => (x.1, decide (r.train = some train ∧ (r.state = .cleared ∨ r.state = .occupied))))

/-- R153: the RESERVED sections ahead of a train in order of travel: those of its start route after the
last ENTERED one, so ahead of its head, and all those of the routes chained to it (log entry 25). -/
def State.boardWalk (s : State) (train : Nat) : List (Nat × Bool) :=
  match (s.startRoute train).map (boardRoutes s train 3) with
  | none | some [] => []
  | some (r :: chained) =>
    r.ahead train (afterEntered (s.markedSections r)) ++ chained.flatMap (fun q => q.ahead train (s.markedSections q))

/-- R153: the sections passed before the platform section reached, and that section. -/
def reachPlatform (platforms : List Nat) : List (Nat × Bool) → Option (List Nat × Nat)
  | [] => none
  | (x, mine) :: t =>
    if mine ∧ platforms.contains x then some ([], x)
    else (reachPlatform platforms t).map (fun r => (x :: r.1, r.2))

/-- R153: the arrival time: the distance by the grade, rounded up, at most 999. -/
def arrivalTime (distance grade : Nat) : Nat := min ((distance + grade - 1) / grade) 999

/-- R153: the line a train gives on a board. -/
def State.boardLine (s : State) (platforms : List Nat) (slot : Nat) (t : Train) : Option BoardLine :=
  if platforms.contains t.head then some ⟨t.number, .atPlatform, t.head, none⟩
  else
    match reachPlatform platforms (s.boardWalk slot) with
    | none => none
    | some (passed, x) =>
      if t.granted = 0 then some ⟨t.number, .held, x, none⟩
      else
        let distance := passed.foldl (fun n y => n + s.plan.lengthOf y) (s.plan.lengthOf t.head / 2)
        some ⟨t.number, .approaching, x, some (arrivalTime distance t.granted)⟩

/-- R153: insert a line by ascending arrival time, behind those of the same time. -/
def insertLine (l : BoardLine) : List BoardLine → List BoardLine
  | [] => [l]
  | x :: t => if l.time.getD 0 < x.time.getD 0 then l :: x :: t else x :: insertLine l t

/-- R153: the view of a board. -/
def State.boardView (s : State) (b : BoardRec) : List BoardLine :=
  let lines := s.tr.trains.rows.filterMap (fun r => s.boardLine b.sections r.1 r.2)
  let at_ := lines.filter (fun l => decide (l.status = .atPlatform))
  let coming := (lines.filter (fun l => decide (l.status = .approaching))).foldl (fun acc l => insertLine l acc) []
  let held := lines.filter (fun l => decide (l.status = .held))
  (at_ ++ coming ++ held).take 4

/-- R154: the view the AWU holds for a board. -/
def State.view (s : State) (board : Nat) : List BoardLine := Tab.getD [] s.awu.views board

/-- R154: write a board's view, with BOARD_CHANGED where it differs. -/
def State.showView (s : State) (board : Nat) (v : List BoardLine) : State :=
  if v = s.view board then s
  else ({ s with awu := { s.awu with views := Tab.putD [] s.awu.views board v } } : State).notice .boardChanged board

/-- R153, R154: the boards' part of a tick, by ascending board (log entry 60). -/
def State.refreshBoards (s : State) : State :=
  if s.mc.mode = .quiet ∨ s.mc.mode = .setup then
    s.plan.boards.rows.foldl (fun s b => s.showView b.1 []) s
  else if s.console boardHold then s
  else s.plan.boards.rows.foldl (fun s b => s.showView b.1 (s.boardView b.2)) s

/-! ### Hand-offs -/

/-- The AWU takes what is handed to it: the end of a turn first, else a start attempt (R150, R151). -/
def State.awuTakes (s : State) : State :=
  match s.due.turnEnds with
  | e :: rest => ({ s with due := { s.due with turnEnds := rest } } : State).turnEnded e
  | [] => ({ s with due := { s.due with attempt := false } } : State).attemptStart

/-- The IU takes a retry scan: run in RUN and QUIET, dropped in STOP (R110). -/
def State.iuTakes (s : State) : State :=
  let s := { s with due := { s.due with scan := false } }
  if s.working then s.retryScan else s

/-- R110: the retry scan of an IU event, if it holds a trigger. -/
def State.scanNow (s : State) : State := if s.due.scan then s.iuTakes else s

/-- R134, R139: the TC takes an event: it arbitrates at the end of it. -/
def State.tcTakes (s : State) : State :=
  ({ s with due := { s.due with arbitrate := false } } : State).arbitrate

/-- Something is handed to the AWU. -/
def Due.forAwu (d : Due) : Bool := d.attempt || !d.turnEnds.isEmpty

/-- Nothing is left to hand on. -/
def Due.settled (d : Due) : Bool := !d.scan && !d.forAwu && !d.arbitrate

/-- Whether the AWU takes a hand-off before the TC does, by the event's order (log entry 3). -/
def State.awuFirst (s : State) : Bool :=
  (fullOrder s.order).find? (fun b => decide (b = .awu ∨ b = .tc)) = some .awu

/-- R110: hand on what an event has left: the IU's retry scan first, then the AWU and the TC in the event's order. -/
def settle : Nat → State → State
  | 0, s => s
  | n + 1, s =>
    if s.due.scan then settle n s.iuTakes
    else if s.due.forAwu && (!s.due.arbitrate || s.awuFirst) then settle n s.awuTakes
    else if s.due.arbitrate then settle n s.tcTakes
    else s

/-- The hand-offs at the end of an event of one block. -/
def State.handOn (s : State) : State := settle Config.handoffBound s

/-- R115: the hand-offs and the recomputation of every train, until nothing more is handed on (the SS hands changes of
granted grade to the TC, R134). A start attempt of the event so reads the grades as they stand before the event's falls (log
entry 66). -/
def settleSpeeds : Nat → State → State
  | 0, s => s
  | n + 1, s =>
    let s := s.handOn.recomputeAll
    if s.due.settled then s else settleSpeeds n s

/-- R124: the trains that joined the urgent list in this event stand behind `before`, the list as the event found it, in
ascending slot order. -/
def State.orderJoins (before : List Nat) (s : State) : State :=
  { s with ss := { s.ss with
      urgent := s.ss.urgent.filter (fun k => before.contains k) ++
        (s.ss.urgent.filter (fun k => !before.contains k)).insertionSort (· ≤ ·) } }

/-- The drive port at the end of an event (R123, R124). -/
def State.closePort (before : List Nat) (s : State) : State := (s.orderJoins before).kickPort

/-- The end of a command's event: hand-offs and speeds, then aspects (R95), lamps (R149) and the drive port (R123);
`before` is the urgent list as the event found it (R124). -/
def State.finish (before : List Nat) (s : State) : State :=
  (settleSpeeds Config.handoffBound s).refreshAspects.refreshLamps.closePort before

/-! ### Triggers (R145, R146) -/

/-- R145: a trigger acts on a train whose head has arrived. -/
def TriggerRec.acts (g : TriggerRec) (t : Train) : Bool :=
  t.auto && g.classes.contains t.cls &&
  (match g.dir with
   | .either => true
   | .east => decide (t.dir = .east)
   | .west => decide (t.dir = .west))

/-- R146: carry out a trigger's action. -/
def State.act (s : State) (slot : Nat) (id : Nat) (a : Action) : State :=
  match a with
  | .requestRoute r => s.triggerRoute slot r
  | .dwell n r => s.startDwell slot n r
  | .setSpeed g => s.requestGrade slot g
  | .endDemo =>
    match s.awu.running, s.train? slot with
    | some d, some t => if d.train = t.number then s.endDemo .complete else s
    | _, _ => s
  | .notice => s.notice .trigger id

/-- R64, R145: a head arrival, handed to the AWU: the triggers that act, by ascending id. The AWU takes them when TR has
taken the whole report (log entry 53). -/
def State.headArrival (s : State) (slot sec : Nat) : State :=
  match s.train? slot with
  | none => s
  | some t =>
    let acting := s.plan.triggers.rows.filter (fun g => decide (g.2.sect = sec) && g.2.acts t)
    { s with due := { s.due with
        arrivals := s.due.arrivals ++ acting.map (fun g => ⟨slot, g.1, g.2.action⟩) } }

/-- R145, R146: the AWU takes the head arrivals of a report, each trigger with its hand-offs before the next. -/
def State.takeArrivals (s : State) : State :=
  s.due.arrivals.foldl (fun s a => (s.act a.slot a.trigger a.action).handOn)
    { s with due := { s.due with arrivals := [] } }

end Sys2Proof.Machine
end

