-- ==== Sys2Proof/Machine/Operands.lean ====
section
/-! DEFINITION. Parameters and payloads of the control link: decoding, encoding and the frame check (R163, R173). -/
namespace Sys2Proof.Machine

/-! ### Decoding (R163 test 5, R173) -/

/-- A decoder of parameter bytes: the value and the bytes left over, or none where the bytes cannot be decoded. -/
abbrev Parse (α : Type) := StateT (List Byte) Option α

/-- R173: a one-byte number. -/
def u8 : Parse Nat := fun l =>
  match l with
  | [] => none
  | b :: t => some (b.toNat, t)

/-- R173: a two-byte number, high byte first. -/
def u16 : Parse Nat := fun l =>
  match l with
  | a :: b :: t => some (a.toNat * 256 + b.toNat, t)
  | _ => none

/-- A value that cannot be decoded. -/
def undecodable {α : Type} : Parse α := fun _ => none

/-- R173: a flag, 0 clear or 1 set (log entry 12). -/
def flag : Parse Bool := fun l =>
  match l with
  | [] => none
  | b :: t => if b = 0#8 then some (false, t) else if b = 1#8 then some (true, t) else none

/-- `n` items in a row. -/
def many {α : Type} (p : Parse α) : Nat → Parse (List α)
  | 0 => pure []
  | n + 1 => do
    let x ← p
    let r ← many p n
    pure (x :: r)

/-- R173: a list of at most `m` items; a count beyond the maximum cannot be decoded (R163). -/
def listOf {α : Type} (m : Nat) (p : Parse α) : Parse (List α) := do
  let n ← u8
  if m < n then undecodable else many p n

/-- R163 test 5: decode all the parameter bytes; bytes left over cannot be decoded. -/
def decodeAll {α : Type} (p : Parse α) (l : List Byte) : Option α :=
  match p l with
  | some (a, []) => some a
  | _ => none

/-- No parameters. -/
def noParams : Parse Unit := pure ()

/-- R173: the value at a place of a field's list of values. -/
def named {α : Type} (values : List α) (place : Nat) : Option α := values[place]?

/-- R173: a set of named values; a bit beyond the last value cannot be decoded. The values stand in their order. -/
def setOf {α : Type} (values : List α) : Parse (List α) := do
  let n ← u8
  if 2 ^ values.length ≤ n then undecodable
  else pure ((values.zipIdx.filter (fun x => n.testBit x.2)).map Prod.fst)

/-- R173: a selector: its form and its operand. -/
def selector : Parse (Nat × Nat) := do
  let form ← u8
  let operand ← u16
  pure (form, operand)

/-! ### Named values, in the order the manual first lists them (R173) -/

def dirs : List Dir := [.east, .west]
def positions : List Pos := [.normal, .reverse]
def endsAB : List End := [.a, .b]
def endChoices : List EndChoice := [.a, .b, .either]
def sectionKinds : List SectionKind := [.plain, .platform, .staging, .bridge, .road]
def mainShunts : List MainShunt := [.main, .shunt]
def trainClasses : List TrainClass := [.express, .stopping, .goods, .shunting, .lightEngine, .demo]
def dirFilters : List DirFilter := [.east, .west, .either]
def queuePolicies : List QueuePolicy := [.keepOldest, .keepNewest]
def senses : List Sense := [.forward, .backward]

/-- The place of a value in a list of values. -/
def code {α : Type} [DecidableEq α] (values : List α) (x : α) : Nat := values.idxOf x

/-! ### Encoding (R173) -/

/-- A number in two bytes, high byte first. -/
def two (n : Nat) : List Byte := [BitVec.ofNat 8 (n / 256), BitVec.ofNat 8 n]
/-- A number in one byte. -/
def one (n : Nat) : List Byte := [BitVec.ofNat 8 n]
/-- A flag. -/
def flagByte (b : Bool) : List Byte := [if b then 1#8 else 0#8]
/-- An optional number in one byte, 0 for absent. -/
def opt1 (o : Option Nat) : List Byte := one (o.getD 0)
/-- An optional number in two bytes, 0 for absent. -/
def opt2 (o : Option Nat) : List Byte := two (o.getD 0)
/-- An optional number in one byte that may be 0, 255 for absent. -/
def opt1z (o : Option Nat) : List Byte := one (o.getD 255)
/-- An optional bit number, 65535 for absent. -/
def optBit (o : Option Nat) : List Byte := two (o.getD 65535)
/-- A list: a count byte, then the items. -/
def listBytes {α : Type} (enc : α → List Byte) (l : List α) : List Byte := one l.length ++ l.flatMap enc

/-! ### Train references (R44, R173) -/

/-- R44: resolve a train reference: a number from the supervisor, a handle from a cab. -/
def State.resolveRef (s : State) (station ref : Nat) : Except Reason Nat :=
  if station = 0 then
    if 1 ≤ ref ∧ ref ≤ 9999 then
      match s.slotOf ref with
      | some slot => .ok slot
      | none => .error .noSuch
    else .error .range
  else
    if 1 ≤ ref ∧ ref ≤ 3 then
      if (s.handles station).get ref = 0 then .error .noSuch else .ok ((s.handles station).get ref)
    else .error .range

/-- R44: the train number a request to IU or TC carries, with 0 for no train. From a cab TR puts the number of the train
at the handle; a number from the supervisor goes on as it stands. -/
def State.numberFor (s : State) (station ref : Nat) : Except Reason (Option Nat) :=
  if ref = 0 then .ok none
  else if station = 0 then .ok (some ref)
  else
    match s.resolveRef station ref with
    | .error r => .error r
    | .ok slot =>
      match s.train? slot with
      | none => .error .noSuch
      | some t => .ok (some t.number)

/-! ### The frame check (R163) -/

/-- R163: one bit of the cyclic check, generator x¹⁶ + x¹² + x⁵ + 1. -/
def crcShift (c : Half) : Half := if c.msb then (c <<< 1) ^^^ 0x1021#16 else c <<< 1

/-- R163: one byte of the cyclic check, most significant bit first. -/
def crcByte (c : Half) (b : Byte) : Half :=
  crcShift (crcShift (crcShift (crcShift (crcShift (crcShift (crcShift (crcShift
    (c ^^^ (b.zeroExtend 16 <<< 8)))))))))

/-- R163: the check over the bytes of a frame, starting from all ones. -/
def frameCheck (l : List Byte) : Half := l.foldl crcByte 0xFFFF#16

/-- R163: a check is sent high byte first. -/
def checkBytes (c : Half) : List Byte := [c.extractLsb' 8 8, c.extractLsb' 0 8]

end Sys2Proof.Machine
end

