-- ==== Sys2Proof/Machine/Link.lean ====
section
/-! DEFINITION. The Control Link Port: taking a REQUEST frame, the reply holder, the two fetch frames and the link
requests (R162 to R172). -/
namespace Sys2Proof.Machine

/-! ### REQUEST frames (R163) -/

/-- R172: the bytes of a REQUEST frame that its check covers. -/
def frameBytes (f : Frame) (code : Nat) : List Byte :=
  [1#8, f.station, byte code, byte f.params.length] ++ f.params

/-- R163: the frame has been clocked through its two check bytes. -/
def frameComplete (f : Frame) : Bool := decide (6 + f.params.length ≤ f.clocked)

/-- R163 test 2. -/
def frameSound (f : Frame) (code : Nat) : Bool :=
  decide (f.params.length ≤ 64) && decide (f.check = frameCheck (frameBytes f code))

/-- R163 tests 2 and 3. -/
def frameRefusal (f : Frame) (code : Nat) : Option Reason :=
  if !frameSound f code then some .badFrame
  else if f.station.toNat = 40 then some .notPermitted
  else if 24 < f.station.toNat then some .range
  else none

/-- R172: what the part sends in a frame of `n` bytes: the status byte, then 0. -/
def State.statusThenZeros (s : State) (n : Nat) : List Byte :=
  if n = 0 then [] else s.status :: List.replicate (n - 1) 0#8

/-- The start of a REQUEST frame's event: the order of hand-offs, and the bytes the part sends (R171, R172). -/
def State.openFrame (s : State) (f : Frame) : State :=
  { s with order := f.order, linkOut := s.statusThenZeros f.clocked }

/-- R163: put an answer in the reply holder. -/
def State.hold (s : State) (code : Nat) (a : Answer) : State :=
  { s with clp := { s.clp with holder := some ⟨code, a⟩ } }

/-- R54, R163: report a request's station to TR, which restarts a cab's countdown if it still holds a train. -/
def State.reportStation (s : State) (station : Nat) : State := if station = 0 then s else s.restartKeepAlive station

/-- An answer is REFUSED. -/
def Answer.isRefused : Answer → Bool
  | .refused _ _ => true
  | _ => false

/-- R163: the owner's answer to a request that passed the tests: the event is closed unless it was refused, the station
is reported, and the answer is held. A refusal changes nothing, so it leaves nothing to close. -/
def State.answered (code station : Nat) (close : State → State) (r : State × Answer) : State :=
  ((if r.2.isRefused then r.1 else close r.1).reportStation station).hold code r.2

/-- R163: the tests of a complete frame with the holder EMPTY, and the handing on to the owner. -/
def State.handFrame {α : Type} (s : State) (code : Nat) (f : Frame) (p : Parse α)
    (owner : State → Nat → α → State × Answer) (close : State → State) : State :=
  match frameRefusal f code with
  | some r => s.hold code (.refused r [])
  | none =>
    match decodeAll p f.params with
    | none => s.hold code (.refused .range [])
    | some a => State.answered code f.station.toNat close (owner s f.station.toNat a)

/-- R163: a REQUEST frame. -/
def State.takeFrame {α : Type} (s : State) (code : Nat) (f : Frame) (p : Parse α)
    (owner : State → Nat → α → State × Answer) (close : State → State) : State :=
  let s := s.openFrame f
  if !frameComplete f then s
  else if s.clp.holder.isSome then { s with clp := { s.clp with dropped := true } }
  else s.handFrame code f p owner close

/-- R163: a request whose effects reach the other blocks within its event. -/
def State.takeRequest {α : Type} (s : State) (code : Nat) (f : Frame) (p : Parse α)
    (owner : State → Nat → α → State × Answer) : State := s.takeFrame code f p owner (State.finish s.ss.urgent)

/-- R163: a request that hands nothing on to another block. -/
def State.takeQuery {α : Type} (s : State) (code : Nat) (f : Frame) (p : Parse α)
    (owner : State → Nat → α → State × Answer) : State := s.takeFrame code f p owner id

/-- R163 test 4: a frame whose code names no request. -/
def State.takeUnknown (s : State) (code : Nat) (f : Frame) : State :=
  let s := s.openFrame f
  if !frameComplete f then s
  else if s.clp.holder.isSome then { s with clp := { s.clp with dropped := true } }
  else s.hold code (.refused ((frameRefusal f code).getD .unknownRequest) [])

/-! ### FETCH REPLY (R165, R172) -/

/-- R164, R172: the number of a reason. -/
def Reason.code : Reason → Nat
  | .badFrame => 1 | .unknownRequest => 2 | .badMode => 3 | .notPermitted => 4 | .notOwner => 5 | .noSuch => 6
  | .conflict => 7 | .tableFull => 8 | .busy => 9 | .range => 10 | .planInvalid => 11 | .notIndexed => 12
  | .tooLong => 13 | .faultPresent => 14

/-- R172: the bytes of a reply from the reply code to the last payload byte. -/
def replyBody : Option Reply → List Byte
  | none => [0#8, 0#8, 0#8, 0#8]
  | some ⟨c, .done p⟩ => [1#8, 0#8, byte c, byte p.length] ++ p
  | some ⟨c, .accepted p⟩ => [2#8, 0#8, byte c, byte p.length] ++ p
  | some ⟨c, .refused r p⟩ => [3#8, byte r.code, byte c, byte p.length] ++ p

/-- R163, R172: a frame from the part to the host: the status byte, the body and the check of the body. -/
def partFrame (status : Byte) (body : List Byte) : List Byte := status :: body ++ checkBytes (frameCheck body)

/-- R165: a FETCH REPLY frame of `n` bytes. -/
def State.fetchReplyFrame (s : State) (n : Nat) : State :=
  let sent := partFrame s.status (replyBody s.clp.holder)
  let s := { s with linkOut := sent.take n }
  if sent.length ≤ n then { s with clp := { s.clp with holder := none } } else s

/-! ### FETCH NOTICE (R169, R172) -/

/-- R169: the entry that stands first in priority order: lowest code (a class follows from the code, R166), then lowest
arrival order. -/
def firstNotice (l : List Notice) : Option Notice :=
  l.foldl (fun best n =>
    match best with
    | none => some n
    | some b => if n.cause.code < b.cause.code then some n else some b) none

/-- R172: the bytes of a notice frame from the cause to the entries present. With the table empty every byte is 0, where R169
gives the cause alone (log entry 67). -/
def noticeBody : Option Selection → List Byte
  | none => [0#8, 0#8, 0#8, 0#8, 0#8, 0#8, 0#8]
  | some x =>
    [byte x.entry.cause.code, byte x.entry.cause.rank] ++ two x.entry.subject ++
      [byte x.entry.count, byte x.entry.detail, byte x.entries]

/-- R169: the type byte of a FETCH NOTICE has been received: the selection is made. -/
def State.startFetch (s : State) : State :=
  { s with
    linkOut := [s.status],
    clp := { s.clp with selection := (firstNotice s.clp.notices).map (fun n => ⟨n, s.clp.notices.length, 0, true⟩) } }

/-- R169: what a complete fetch does to the selected entry. -/
def CLP.collect (p : CLP) (x : Selection) : CLP :=
  let mine (n : Notice) : Bool := decide (n.cause = x.entry.cause ∧ n.subject = x.entry.subject)
  if !x.present then p
  else if x.raises = 0 then { p with notices := p.notices.filter (fun n => !mine n) }
  else { p with notices := p.notices.map (fun n => if mine n then { n with count := x.raises } else n) }

/-- R169: select is deasserted after `n` bytes of a FETCH NOTICE: a fetch through its final check byte, at byte 9,
collects the entry. -/
def State.endFetch (s : State) (n : Nat) : State :=
  let body := noticeBody s.clp.selection
  let sent := (s.linkOut.take 1 ++ body ++ checkBytes (frameCheck body)).take n
  let clp :=
    match s.clp.selection with
    | none => s.clp
    | some x => if 10 ≤ n then s.clp.collect x else s.clp
  { s with linkOut := sent, clp := { clp with selection := none } }

/-- R169: a FETCH NOTICE frame or a part of one (log entry 7). -/
def State.fetchNoticeFrame (s : State) : FetchStage → State
  | .whole n => if n = 0 then { s with linkOut := [] } else s.startFetch.endFetch n
  | .start => s.startFetch
  | .finish n => s.endFetch n

/-! ### The link requests (R170) -/

/-- R170: CLEAR STATUS. -/
def ownClearStatus (s : State) (station : Nat) (_ : Unit) : State × Answer :=
  if station ≠ 0 then (s, .refused .notPermitted [])
  else ({ s with clp := { s.clp with dropped := false, noticeLost := false } }, .done [])

/-- R173: the three bytes of a mask as one number. -/
def parseMask : Parse Nat := do
  let a ← u8
  let b ← u16
  pure (a * 65536 + b)

/-- R170: SET NOTICE MASK. -/
def ownSetMask (s : State) (station mask : Nat) : State × Answer :=
  if station ≠ 0 then (s, .refused .notPermitted [])
  else if 2 ^ 21 ≤ mask then (s, .refused .range [])
  else ({ s with clp := { s.clp with mask := BitVec.ofNat 21 mask } }, .done [])

/-- R170: IDENTIFY. -/
def ownIdentify (s : State) (_station : Nat) (_ : Unit) : State × Answer :=
  (s, .done ([byte Config.partNumber, byte Config.linkRevision] ++ two s.fs.inLen ++ two s.fs.outLen))

/-- CLEAR STATUS (R170). -/
def execClearStatus (f : Frame) (s : State) : Host.Outcome State Fault Refusal :=
  .next (s.takeQuery 0x70 f noParams ownClearStatus)
/-- SET NOTICE MASK (R170). -/
def execSetNoticeMask (f : Frame) (s : State) : Host.Outcome State Fault Refusal :=
  .next (s.takeQuery 0x71 f parseMask ownSetMask)
/-- IDENTIFY (R170). -/
def execIdentify (f : Frame) (s : State) : Host.Outcome State Fault Refusal :=
  .next (s.takeQuery 0x72 f noParams ownIdentify)
/-- A FETCH REPLY frame (R165). -/
def execFetchReply (clocked : Nat) (s : State) : Host.Outcome State Fault Refusal := .next (s.fetchReplyFrame clocked)
/-- A FETCH NOTICE frame (R169). -/
def execFetchNotice (stage : FetchStage) (s : State) : Host.Outcome State Fault Refusal :=
  .next (s.fetchNoticeFrame stage)
/-- A REQUEST frame whose code names no request (R163 test 4). A code that names one is no command of this row. -/
def execUnknownRequest (code : Byte) (f : Frame) (s : State) : Host.Outcome State Fault Refusal :=
  if namesRequest code.toNat then .refused .namedRequest else .next (s.takeUnknown code.toNat f)

end Sys2Proof.Machine
end

