-- ==== Sys2Proof/Machine/Register.lean ====
section
/-! DEFINITION. The requests of the Train Register: entering and retiring trains, ownership, driving, the keep-alive and
reading the register (R40 to R58). -/
namespace Sys2Proof.Machine

/-- R134: a state change of a train named in the turn queue is handed to the TC. -/
def State.trainChanged (s : State) (number : Nat) : State :=
  if s.tc.queue.any (fun q => decide (q.train = some number)) then s.wantArbitrate else s

/-- R67: clear a section's stray mark, if it carries one, and hand the clearing to the IU. -/
def State.clearStray (s : State) (sec : Nat) : State :=
  if s.stray sec then (s.putStray sec false).strayCleared sec else s

/-! ### ENTER TRAIN (R45) -/

/-- What ENTER TRAIN carries, as decoded (R173). -/
structure EnterAsk where
  number : Nat
  cls : Nat
  length : Nat
  span : List Nat
  dir : Nat
  sense : Nat
  choice : Nat
deriving DecidableEq, Repr

/-- R45, R173: the parameters of ENTER TRAIN. -/
def parseEnter : Parse EnterAsk := do
  let number ← u16
  let cls ← u8
  let length ← u16
  let span ← listOf 6 u8
  let dir ← u8
  let sense ← u8
  let choice ← u8
  pure ⟨number, cls, length, span, dir, sense, choice⟩

/-- R45 test 3: every value within its range, every span section present and none twice. -/
def State.enterInRange (s : State) (a : EnterAsk) : Bool :=
  decide (1 ≤ a.number ∧ a.number ≤ 9999) && (named trainClasses a.cls).isSome && (named dirs a.dir).isSome &&
  (named senses a.sense).isSome && decide (a.choice ≤ 1) && !a.span.isEmpty &&
  a.span.all (fun x => decide (1 ≤ x ∧ x ≤ 240) && (s.plan.sections.get? x).isSome) && decide a.span.Nodup

/-- R45 test 4: each section of a span is joined to the one listed after it. -/
def State.chained (s : State) : List Nat → Bool
  | x :: y :: t => s.plan.joined s.align x y && s.chained (y :: t)
  | _ => true

/-- R45 test 4: the section before the head is a successor of the head on the side opposite the head direction, by any entry
whatever its condition (log entry 62). -/
def State.facesAway (s : State) (d : Dir) (span : List Nat) : Bool :=
  match span.reverse with
  | head :: before :: _ => (s.plan.joins s.align head d.opp).any (fun e => decide (e.target = before))
  | _ => true

/-- A span holds a section of kind STAGING. -/
def Plan.hasStaging (p : Plan) (span : List Nat) : Bool :=
  span.any (fun x => decide ((p.sections.get? x).map SectionRec.kind = some .staging))

/-- R45 test 6: the reservation of a section that does not bar an entry: it is ENTERED in an unassigned route. -/
def State.enteredUnassigned (s : State) (sec : Nat) : Bool :=
  match s.mark sec with
  | .route slot =>
    match s.route? slot with
    | none => false
    | some r => r.train.isNone && decide (s.sectionMark r sec = some .entered)
  | _ => false

/-- R45 test 6: a span section a train may be entered on. -/
def State.enterable (s : State) (sec : Nat) : Bool :=
  s.occupied sec && !s.inSpan sec && (decide (s.mark sec = .free) || s.enteredUnassigned sec)

/-- R45: the tests of ENTER TRAIN, in order; none when all pass. -/
def State.enterRefusal (s : State) (station : Nat) (a : EnterAsk) : Option Reason :=
  if a.choice = 1 ∧ station ≠ 0 then some .notPermitted
  else if s.mc.mode = .setup then some .badMode
  else if !s.enterInRange a then some .range
  else if !(s.chained a.span && s.facesAway ((named dirs a.dir).getD .east) a.span) then some .range
  else if station ≠ 0 ∧ !s.plan.hasStaging a.span then some .notPermitted
  else if (s.slotOf a.number).isSome then some .conflict
  else if !a.span.all s.enterable then some .conflict
  else if (lowestFree s.tr.trains 1 Config.trainSlots).isNone then some .tableFull
  else if station ≠ 0 ∧ (s.handles station).lowest.isNone then some .tableFull
  else none

/-- R41: the record a train has at entry. -/
def EnterAsk.train (a : EnterAsk) (owner : Owner) : Train :=
  { number := a.number, cls := (named trainClasses a.cls).getD .express, length := max 1 (min a.length 4095),
    owner, span := a.span, dir := (named dirs a.dir).getD .east, sense := (named senses a.sense).getD .forward,
    state := .active, auto := false, overrun := false, requested := 0, granted := 0, route := none, dwell := none }

/-- R45: a completed entry. -/
def State.enter (s : State) (station slot : Nat) (a : EnterAsk) : State :=
  let owner := if station ≠ 0 then Owner.nobody else if a.choice = 1 then Owner.awu else Owner.supervisor
  let s := s.putTrain slot (a.train owner)
  let s := if station ≠ 0 then s.giveToCab slot station else s
  let s := (s.putSpeed slot {}).joinUrgent slot
  let s := a.span.foldl State.clearStray s
  if a.span.any s.plan.isBridge then s.wantArbitrate else s

/-- R45: ENTER TRAIN. -/
def ownEnterTrain (s : State) (station : Nat) (a : EnterAsk) : State × Answer :=
  match s.enterRefusal station a with
  | some r => (s, .refused r [])
  | none =>
    let slot := (lowestFree s.tr.trains 1 Config.trainSlots).getD 0
    (s.enter station slot a,
      .done (one slot ++ (if station = 0 then [] else opt1 (s.handles station).lowest)))

/-! ### Retirement (R46, R47) -/

/-- R47: the register's part: the slot and the handle are emptied, the cursor may be vacated, and each span section, from
tail to head, gets a stray mark or is handed to the IU as a section clear (log entry 60). -/
def State.retireRecord (s : State) (slot : Nat) (t : Train) : State :=
  let s := s.dropHandle t.owner
  let s := { s with tr := { s.tr with
    trains := s.tr.trains.erase slot, vacated := s.tr.vacated || decide (s.tr.cursor = slot) } }
  t.span.foldl (fun s x => if s.occupied x then s.putStray x true else s.sectionLeft x) s

/-- R47: the IU's part: routes become unassigned, stack entries are dropped, each with its notice, oldest first (log entry
60). -/
def State.retireFromIu (s : State) (slot : Nat) (number : Nat) : State :=
  let gone := s.iu.stack.filter (fun e => decide (e.train = some number))
  let s := { s with iu := { s.iu with
    routes := ⟨s.iu.routes.rows.map (fun r => (r.1, if r.2.train = some slot then { r.2 with train := none } else r.2))⟩,
    stack := s.iu.stack.filter (fun e => !decide (e.train = some number)) } }
  gone.foldl (fun s e => s.notice .stackDropped e.route) s

/-- R47: the SS's part. -/
def State.retireFromSs (s : State) (slot : Nat) : State :=
  { s with ss := { s.ss with
    trains := s.ss.trains.erase slot, urgent := s.ss.urgent.filter (fun k => !decide (k = slot)) } }

/-- R47: the AWU's part. -/
def State.retireFromAwu (s : State) (slot number : Nat) : State :=
  let s := { s with awu := { s.awu with dwells := s.awu.dwells.erase slot } }
  if s.awu.running.map Running.train = some number then s.endDemo .retired else s

/-- R47: a block's part of a retirement. TR's part comes first (log entry 37). -/
def State.retirePart (slot number : Nat) (s : State) : Block → State
  | .tr => s
  | .iu => s.retireFromIu slot number
  | .tc => s.dropTurnsOf number
  | .ss => s.retireFromSs slot
  | .awu => s.retireFromAwu slot number

/-- R47: the retirement of a train. -/
def State.retire (s : State) (slot : Nat) (t : Train) : State :=
  let s := (fullOrder s.order).foldl (State.retirePart slot t.number) (s.retireRecord slot t)
  if t.span.any s.plan.isBridge then s.wantArbitrate else s

/-- R46: RETIRE TRAIN. -/
def ownRetireTrain (s : State) (station ref : Nat) : State × Answer :=
  match s.resolveRef station ref with
  | .error r => (s, .refused r [])
  | .ok slot =>
    match s.train? slot with
    | none => (s, .refused .noSuch [])
    | some t =>
      if t.granted ≠ 0 then (s, .refused .busy [])
      else if t.state = .turning then (s, .refused .busy [])
      else if station ≠ 0 ∧ !s.plan.hasStaging t.span then (s, .refused .notPermitted [])
      else (s.retire slot t, .done [])

/-! ### Ownership (R48, R49) -/

/-- R48, R173: the parameters of ACQUIRE TRAIN: the number and the owner choice, 255 when left out (log entry 14). -/
def parseAcquire : Parse (Nat × Nat) := do
  let number ← u16
  let choice ← u8
  pure (number, choice)

/-- R48: write a train's owner, emptying a cab's handle. -/
def State.giveTo (s : State) (slot : Nat) (t : Train) (o : Owner) : State :=
  (s.dropHandle t.owner).updTrain slot (fun t => { t with owner := o })

/-- R48: ACQUIRE TRAIN. -/
def ownAcquireTrain (s : State) (station : Nat) (a : Nat × Nat) : State × Answer :=
  if !(decide (1 ≤ a.1 ∧ a.1 ≤ 9999) && (decide (a.2 = 255) || (decide (station = 0) && decide (a.2 ≤ 1)))) then
    (s, .refused .range [])
  else
    match s.slotOf a.1 with
    | none => (s, .refused .noSuch [])
    | some slot =>
      match s.train? slot with
      | none => (s, .refused .noSuch [])
      | some t =>
        if station = 0 then (s.giveTo slot t (if a.2 = 1 then .awu else .supervisor), .done [])
        else
          match t.owner with
          | .nobody =>
            match (s.handles station).lowest with
            | none => (s, .refused .tableFull [])
            | some h => (s.giveToCab slot station, .done (one h))
          | .cab c h => if c = station then (s, .done (one h)) else (s, .refused .notOwner [])
          | .supervisor => (s, .refused .notOwner [])
          | .awu => (s, .refused .notOwner [])

/-- R49: RELEASE TRAIN. -/
def ownReleaseTrain (s : State) (station ref : Nat) : State × Answer :=
  match s.resolveRef station ref with
  | .error r => (s, .refused r [])
  | .ok slot =>
    match s.train? slot with
    | none => (s, .refused .noSuch [])
    | some t => ((s.giveTo slot t .nobody).requestGrade slot 0, .done [])

/-! ### Driving (R50, R51) -/

/-- R50, R173: the parameters of SET SPEED. -/
def parseSetSpeed : Parse (Nat × Nat) := do
  let ref ← u16
  let g ← u8
  pure (ref, g)

/-- R50: SET SPEED. -/
def ownSetSpeed (s : State) (station : Nat) (a : Nat × Nat) : State × Answer :=
  match s.resolveRef station a.1 with
  | .error r => (s, .refused r [])
  | .ok slot => (s.requestGrade slot (min a.2 63), .done [])

/-- R51 step 1: the new head direction, with whether a free value was used: the side of the tail that its neighbour is
not joined on, EAST taken first. A neighbour joined on neither side leaves the direction open (log entry 22). -/
def State.reversedDir (s : State) (t : Train) : Dir × Bool :=
  match t.span with
  | tail :: next :: _ =>
    if s.plan.joinedOn s.align tail .east next then (.west, false)
    else if s.plan.joinedOn s.align tail .west next then (.east, false)
    else (if Config.unjoinedReversal s.freeCount then .east else .west, true)
  | _ => (t.dir.opp, false)

/-- R51: the drive sense changed. -/
def Sense.flip : Sense → Sense
  | .forward => .backward
  | .backward => .forward

/-- R51: the reversal of a train. -/
def State.reverse (s : State) (slot : Nat) (t : Train) : State :=
  let (d, free) := s.reversedDir t
  let s := if free then { s with freeCount := s.freeCount + 1 } else s
  let s := s.putTrain slot { t with dir := d, span := t.span.reverse, sense := t.sense.flip, route := none }
  (s.reverseRoutes slot).joinUrgent slot

/-- R51: REVERSE TRAIN. -/
def ownReverseTrain (s : State) (station ref : Nat) : State × Answer :=
  match s.resolveRef station ref with
  | .error r => (s, .refused r [])
  | .ok slot =>
    match s.train? slot with
    | none => (s, .refused .noSuch [])
    | some t =>
      if t.state = .turning then (s, .refused .busy [])
      else if t.granted ≠ 0 ∨ t.requested ≠ 0 then (s, .refused .busy [])
      else (s.reverse slot t, .done [])

/-! ### Selectors: HOLD, UNHOLD and SET AUTO (R52, R53) -/

/-- R52: the slots a selector names, in slot order. A cab naming CAB with any number but its own is refused NOT_PERMITTED,
a number that is no cab's included (log entry 55). -/
def State.selected (s : State) (station : Nat) (sel : Nat × Nat) : Except Reason (List Nat) :=
  if sel.1 = 0 then (s.resolveRef station sel.2).map (fun slot => [slot])
  else if sel.1 = 1 then
    if station ≠ 0 ∧ sel.2 ≠ station then .error .notPermitted
    else if !decide (1 ≤ sel.2 ∧ sel.2 ≤ 24) then .error .range
    else
      let h := s.handles sel.2
      .ok (s.tr.trains.keys.filter (fun k => decide (k = h.h1 ∨ k = h.h2 ∨ k = h.h3)))
  else if sel.1 = 2 then if station ≠ 0 then .error .notPermitted else .ok s.tr.trains.keys
  else .error .range

/-- R52: act on each selected train in slot order. -/
def State.forSelected (s : State) (station : Nat) (sel : Nat × Nat) (act : State → Nat → State) : State × Answer :=
  match s.selected station sel with
  | .error r => (s, .refused r [])
  | .ok slots => (slots.foldl act s, .done [])

/-- R53: write the state of a train. -/
def State.toState (s : State) (slot : Nat) (t : Train) (x : TrainState) : State :=
  (s.putTrain slot { t with state := x }).trainChanged t.number

/-- R53: HOLD (`held` set) or UNHOLD of one train. -/
def State.holdTrain (held : Bool) (s : State) (slot : Nat) : State :=
  match s.train? slot with
  | none => s
  | some t =>
    match t.state with
    | .active => if held then s.toState slot t .held else s
    | .held => if held then s else s.toState slot t .active
    | .turning => s.setTc { s.tc with returnHeld := some held }
    | .lost => s

/-- R52: HOLD. -/
def ownHold (s : State) (station : Nat) (sel : Nat × Nat) : State × Answer :=
  s.forSelected station sel (State.holdTrain true)

/-- R52: UNHOLD. -/
def ownUnhold (s : State) (station : Nat) (sel : Nat × Nat) : State × Answer :=
  s.forSelected station sel (State.holdTrain false)

/-- R53, R173: the parameters of SET AUTO: a selector and a value, SET 0 or CLEAR 1 (log entry 13). -/
def parseSetAuto : Parse ((Nat × Nat) × Nat) := do
  let sel ← selector
  let v ← u8
  pure (sel, v)

/-- R44, R53: SET AUTO. The selector is resolved first; then a value that is neither is refused RANGE (log entry 55). -/
def ownSetAuto (s : State) (station : Nat) (a : (Nat × Nat) × Nat) : State × Answer :=
  match s.selected station a.1, named [true, false] a.2 with
  | .ok _, none => (s, .refused .range [])
  | _, v => s.forSelected station a.1 (fun s slot => s.updTrain slot (fun t => { t with auto := v.getD false }))

/-! ### Keep-alive (R54, R55) -/

/-- R54: KEEP ALIVE: its report alone restarts the countdown. -/
def ownKeepAlive (s : State) (_station : Nat) (_ : Unit) : State × Answer := (s, .done [])

/-- R55: the expiry of a cab's keep-alive. -/
def State.expireCab (s : State) (cab : Nat) : State :=
  let h := s.handles cab
  let mine := s.tr.trains.keys.filter (fun k => decide (k = h.h1 ∨ k = h.h2 ∨ k = h.h3))
  ((mine.foldl (fun s k => s.requestGrade k 0) s).notice .cabExpired cab).putKeepAlive cab .expired

/-- R54: one tick of a cab's keep-alive. -/
def State.keepAliveTick (s : State) (cab : Nat) : State :=
  match s.keepAliveOf cab with
  | .counting n => if n ≤ 1 then s.expireCab cab else s.putKeepAlive cab (.counting (n - 1))
  | _ => s

/-- R54: TR's part of a tick. Cabs that expire at one tick do so by ascending number (log entry 21). -/
def State.registerTick (s : State) : State := s.tr.keepAlive.keys.foldl State.keepAliveTick s

/-! ### Reading the register (R56 to R58) -/

/-- R56: SEEK TRAIN. -/
def ownSeekTrain (s : State) (_station : Nat) (number : Nat) : State × Answer :=
  if !decide (1 ≤ number ∧ number ≤ 9999) then (s, .refused .range [])
  else
    let found := s.slotOf number
    ({ s with tr := { s.tr with cursor := found.getD 0, vacated := false, repeatField := none } },
      .done (one (found.getD 0) ++ two (if found.isSome then number else 0)))

/-- R174: the owner field: kind, cab and handle. -/
def Owner.bytes : Owner → List Byte
  | .nobody => [0#8, 0#8, 0#8]
  | .supervisor => [1#8, 0#8, 0#8]
  | .cab c h => [2#8, BitVec.ofNat 8 c, BitVec.ofNat 8 h]
  | .awu => [3#8, 0#8, 0#8]

/-- R174: the number of a train's state. -/
def TrainState.code : TrainState → Nat
  | .active => 0
  | .held => 1
  | .turning => 2
  | .lost => 3

/-- R57: the value of a field. -/
def Train.field (t : Train) (f : Nat) : List Byte :=
  match f with
  | 0 => two t.number
  | 1 => one (code trainClasses t.cls)
  | 2 => two t.length
  | 3 => t.owner.bytes
  | 4 => listBytes one t.span
  | 5 => one (code dirs t.dir)
  | 6 => one (code senses t.sense)
  | 7 => one t.state.code
  | 8 => flagByte t.auto
  | 9 => flagByte t.overrun
  | 10 => one t.requested
  | 11 => one t.granted
  | 12 => opt1 t.route
  | 13 => opt2 t.dwell
  | _ => []

/-- R57: a read of field `f` advances the cursor. -/
def State.advances (s : State) (f : Nat) : Bool :=
  decide (s.tr.repeatField = some f) || decide (s.tr.cursor = 0) || s.tr.vacated

/-- R57: the slot a read of field `f` returns; none for END. -/
def State.readSlot (s : State) (f : Nat) : Option Nat :=
  if s.advances f then s.tr.trains.keys.find? (fun k => decide (s.tr.cursor < k)) else some s.tr.cursor

/-- R57: READ TRAIN FIELD. -/
def ownReadTrainField (s : State) (_station : Nat) (f : Nat) : State × Answer :=
  if 13 < f then (s, .refused .range [])
  else
    let slot := s.readSlot f
    ({ s with tr := { s.tr with cursor := slot.getD 0, vacated := false, repeatField := some f } },
      match slot.bind (fun k => (s.train? k).map (fun t => (k, t))) with
      | none => .done [0#8, 0#8, 0#8]
      | some (k, t) => .done (one k ++ two t.number ++ t.field f))

/-- R174: the span bytes, filled to six. -/
def spanBytes (span : List Nat) : List Byte := (span.flatMap one ++ List.replicate 6 0#8).take 6

/-- R174: the 25 bytes of a train record. -/
def Train.readOut (t : Train) (slot : Nat) : List Byte :=
  one slot ++ two t.number ++ one (code trainClasses t.cls) ++ two t.length ++ t.owner.bytes ++ one t.span.length ++
  spanBytes t.span ++ one (code dirs t.dir) ++ one (code senses t.sense) ++ one t.state.code ++
  one ((if t.auto then 1 else 0) + (if t.overrun then 2 else 0)) ++ one t.requested ++ one t.granted ++ opt1 t.route ++
  opt2 t.dwell

/-- R58: READ TRAIN RECORD. -/
def ownReadTrainRecord (s : State) (_station : Nat) (_ : Unit) : State × Answer :=
  let s' := { s with tr := { s.tr with repeatField := none } }
  match (if s.tr.cursor = 0 ∨ s.tr.vacated then none else s.train? s.tr.cursor) with
  | none => (s', .done [0#8])
  | some t => (s', .done (t.readOut s.tr.cursor))

/-! ### The meanings -/

/-- ENTER TRAIN (R45). -/
def execEnterTrain (f : Frame) (s : State) : Host.Outcome State Fault Refusal :=
  .next (s.takeRequest 0x30 f parseEnter ownEnterTrain)
/-- RETIRE TRAIN (R46, R47). -/
def execRetireTrain (f : Frame) (s : State) : Host.Outcome State Fault Refusal :=
  .next (s.takeRequest 0x31 f u16 ownRetireTrain)
/-- ACQUIRE TRAIN (R48). It changes no field another block computes from. -/
def execAcquireTrain (f : Frame) (s : State) : Host.Outcome State Fault Refusal :=
  .next (s.takeQuery 0x32 f parseAcquire ownAcquireTrain)
/-- RELEASE TRAIN (R49). -/
def execReleaseTrain (f : Frame) (s : State) : Host.Outcome State Fault Refusal :=
  .next (s.takeRequest 0x33 f u16 ownReleaseTrain)
/-- SET SPEED (R50). -/
def execSetSpeed (f : Frame) (s : State) : Host.Outcome State Fault Refusal :=
  .next (s.takeRequest 0x34 f parseSetSpeed ownSetSpeed)
/-- REVERSE TRAIN (R51). -/
def execReverseTrain (f : Frame) (s : State) : Host.Outcome State Fault Refusal :=
  .next (s.takeRequest 0x35 f u16 ownReverseTrain)
/-- HOLD (R52, R53). -/
def execHold (f : Frame) (s : State) : Host.Outcome State Fault Refusal :=
  .next (s.takeRequest 0x36 f selector ownHold)
/-- UNHOLD (R52, R53). -/
def execUnhold (f : Frame) (s : State) : Host.Outcome State Fault Refusal :=
  .next (s.takeRequest 0x37 f selector ownUnhold)
/-- SET AUTO (R52, R53). The auto flag is read at head arrivals and start attempts alone. -/
def execSetAuto (f : Frame) (s : State) : Host.Outcome State Fault Refusal :=
  .next (s.takeQuery 0x38 f parseSetAuto ownSetAuto)
/-- KEEP ALIVE (R54). -/
def execKeepAlive (f : Frame) (s : State) : Host.Outcome State Fault Refusal :=
  .next (s.takeQuery 0x39 f noParams ownKeepAlive)
/-- SEEK TRAIN (R56). -/
def execSeekTrain (f : Frame) (s : State) : Host.Outcome State Fault Refusal :=
  .next (s.takeQuery 0x3A f u16 ownSeekTrain)
/-- READ TRAIN FIELD (R57). -/
def execReadTrainField (f : Frame) (s : State) : Host.Outcome State Fault Refusal :=
  .next (s.takeQuery 0x3B f u8 ownReadTrainField)
/-- READ TRAIN RECORD (R58, R174). -/
def execReadTrainRecord (f : Frame) (s : State) : Host.Outcome State Fault Refusal :=
  .next (s.takeQuery 0x3C f noParams ownReadTrainRecord)
/-- The expiry of a cab's keep-alive (R55), at its last tick (log entry 4). -/
def execKeepAliveExpiry (cab : Nat) (order : List Block) (s : State) : Host.Outcome State Fault Refusal :=
  let s := { s with order := order }
  match s.keepAliveOf cab with
  | .counting n => if n ≤ 1 then .next ((s.expireCab cab).finish s.ss.urgent) else .next s
  | _ => .next s

end Sys2Proof.Machine
end

