-- ==== Sys2Proof/Machine/Tracking.lean ====
section
/-! DEFINITION. Train Tracking: what TR does with a section report (R59 to R73). -/
namespace Sys2Proof.Machine

/-! ### Candidates (R62) -/

/-- R60, R62: the candidates for a section: the trains other than LOST ones that have it among their next sections, each
with the direction on entry. Points and turntable are read as in `live`, the state in which TR took its report. -/
def State.candidates (s live : State) (sec : Nat) : List (Nat × Dir) :=
  s.tr.trains.rows.filterMap (fun r =>
    ((live.nextSections r.2).find? (fun n => decide (n.1 = sec))).map (fun n => (r.1, n.2)))

/-- R62: the train in whose span a section lies. -/
def State.spanTrain (s : State) (sec : Nat) : Option (Nat × Train) :=
  (s.spanOf sec).bind (fun k => (s.train? k).map (fun t => (k, t)))

/-! ### Tail movement (R68, R70) -/

/-- R68: a section removed from a span, when it is the bridge, is reported to the TC. -/
def State.leavesSpan (s : State) (sec : Nat) : State := if s.plan.isBridge sec then s.wantArbitrate else s

/-- R68: the tail departure of a clear section, handed to the IU, with the retry scan of that event (R110). -/
def State.tailDeparture (s : State) (sec : Nat) : State := ((s.leavesSpan sec).sectionLeft sec).scanNow

/-- R68: the steps of tail trimming, at most `n`. -/
def trimSteps : Nat → Nat → State → State
  | 0, _, s => s
  | n + 1, slot, s =>
    match s.train? slot with
    | none => s
    | some t =>
      match t.span with
      | x :: y :: rest =>
        if s.occupied x then s
        else trimSteps n slot ((s.putTrain slot { t with span := y :: rest }).tailDeparture x)
      | _ => s

/-- R68, R71: tail trimming of a train, and the test of what is left of its span. A span holds at most seven sections
while one is appended. -/
def State.trim (s : State) (slot : Nat) : State := (trimSteps 7 slot s).testSpan slot

/-- R64 step 4, R70: a span of seven sections drops its tail: a tail drop while it is occupied, else a tail departure. -/
def State.dropTail (s : State) (slot : Nat) : State :=
  match s.train? slot with
  | none => s
  | some t =>
    match t.span with
    | x :: rest =>
      if t.span.length < 7 then s
      else
        let s := s.putTrain slot { t with span := rest }
        if s.occupied x then s.leavesSpan x else s.tailDeparture x
    | [] => s

/-! ### Head movement (R64, R65) -/

/-- R65: what an overrun adds. -/
def State.overrun (s : State) (slot : Nat) (t : Train) : State :=
  (s.updTrain slot (fun t => { t with overrun := true })).notice .overrun t.number

/-- R64, R65: append a section at a train's head: the span and the direction, the stray mark, the IU's part (R98) or the
overrun, the tail drop and trimming; then the AWU's head arrival is handed on. -/
def State.append (s : State) (slot : Nat) (t : Train) (sec : Nat) (d : Dir) : State :=
  let how := s.reservedFor slot sec d
  let s := (s.putTrain slot { t with span := t.span ++ [sec], dir := d }).clearStray sec
  let s := if s.plan.isBridge sec then s.wantArbitrate else s
  let s :=
    match how with
    | some h => s.headEntry slot sec h
    | none => s.overrun slot t
  ((s.dropTail slot).trim slot).scanNow.headArrival slot sec

/-! ### Lost trains and strays (R66, R72) -/

/-- R72: a LOST train's section is occupied again. -/
def State.recover (s live : State) (slot : Nat) (t : Train) (sec : Nat) : State :=
  if (s.candidates live sec).isEmpty then (s.putTrain slot { t with state := .active }).trainChanged t.number
  else s.notice .stray sec

/-- R66, R73: a section becomes stray; in SETUP no mark is set. -/
def State.goStray (s : State) (sec : Nat) : State :=
  if s.mc.mode = .setup then s else (s.putStray sec true).notice .stray sec

/-- R62: the decision of a section that became occupied. -/
def State.attribute (s live : State) (sec : Nat) : State :=
  match s.spanTrain sec with
  | some (k, t) => if t.state = .lost then s.recover live k t sec else s
  | none =>
    match s.candidates live sec with
    | [(k, d)] =>
      match s.train? k with
      | none => s
      | some t => s.append k t sec d
    | _ => s.goStray sec

/-- R61, R80: TR decides an occupied section and hands it to the IU, with the retry scans that follow (log entry 26). -/
def State.takeOccupied (live s : State) (sec : Nat) : State :=
  ((s.attribute live sec).scanNow.sectionOccupied sec).scanNow

/-! ### The report (R61) -/

/-- R61 step 1: a section is taken in a pass: it lies in a LOST train's span or has exactly one candidate. -/
def State.takenInPass (live s : State) (sec : Nat) : Bool :=
  (match s.spanTrain sec with
   | some (_, t) => decide (t.state = .lost)
   | none => false) ||
  decide ((s.candidates live sec).length = 1)

/-- R61 step 1: one pass over the waiting sections: the state after it and the sections still waiting. -/
def onePass (live : State) : List Nat → State → State × List Nat
  | [], s => (s, [])
  | x :: t, s =>
    if State.takenInPass live s x then onePass live t (State.takeOccupied live s x)
    else
      let (s', w) := onePass live t s
      (s', x :: w)

/-- R61 step 1: passes while they take a section, at most `n`; then the rest are decided as they stand. -/
def passes (live : State) : Nat → List Nat → State → State
  | 0, waiting, s => waiting.foldl (State.takeOccupied live) s
  | n + 1, waiting, s =>
    let (s', w) := onePass live waiting s
    if w.length < waiting.length then passes live n w s' else w.foldl (State.takeOccupied live) s'

/-- R61 step 2: a section that became clear. -/
def State.takeClear (s : State) (sec : Nat) : State :=
  match s.spanOf sec with
  | none => ((s.clearStray sec).sectionLeft sec).scanNow
  | some slot => (s.trim slot).scanNow

/-- R61: TR's part of a section report: the sections that became occupied and those that became clear, each by ascending
id; of the clear ones that order is the model's (log entry 60). It is one event at TR: no other block but the IU acts
within it. -/
def State.trackReport (s : State) (occupied clear : List Nat) : State :=
  clear.foldl State.takeClear
    (passes s occupied.length occupied { s with due := { s.due with arrivals := [] } })

/-- R61, R64, R150: a section report: TR's part, then the hand-offs to the AWU and the TC in the event's order. A start
attempt owed to a release is made before the triggers where the TC goes first, else after the first of them (log entry
53). -/
def State.takeReport (s : State) (occupied clear : List Nat) : State :=
  let s := s.trackReport occupied clear
  (if s.awuFirst then s else s.handOn).takeArrivals.handOn

/-- R73: on leaving SETUP every occupied section gets a stray mark, without a notice. -/
def State.markOccupied (s : State) : State :=
  s.plan.sections.keys.foldl (fun s x => if s.occupied x then s.putStray x true else s) s

end Sys2Proof.Machine
end

