-- ==== Sys2Proof/Machine/Modes.lean ====
section
/-! DEFINITION. Layout modes: the mode requests, what each block does at a change of mode, RESET LAYOUT and power-up
(R156 to R161). -/
namespace Sys2Proof.Machine

/-! ### A change of mode (R156, R159) -/

/-- R159: TR's part: leaving SETUP marks what stands on the layout (R73). -/
def State.modeForTr (old : Mode) (s : State) : State := if old = .setup then s.markOccupied else s

/-- R159: the IU's part: leaving STOP runs one retry scan (R110). -/
def State.modeForIu (old : Mode) (s : State) : State := if old = .stop then s.retryScan else s

/-- R126, R159: the SS's part: entering STOP sets broadcast pending, leaving it clears it. -/
def State.modeForSs (old new : Mode) (s : State) : State :=
  if new = .stop then { s with ss := { s.ss with broadcast := true } }
  else if old = .stop then { s with ss := { s.ss with broadcast := false } }
  else s

/-- R141, R159: the TC's part. -/
def State.modeForTc (old new : Mode) (s : State) : State :=
  if new = .stop then s.tableStops else if old = .stop then s.tableResumes else s

/-- R151, R152, R159: the AWU's part. Lamps follow at the end of the event, views at the next tick. -/
def State.modeForAwu (old new : Mode) (s : State) : State :=
  match new with
  | .stop => s.endDemo .stopped
  | .quiet => (s.endDemo .stopped).emptyVisitors
  | .run => if old = .stop then s.attemptStart else s
  | .setup => s

/-- R159: a block's part in a change of mode. -/
def State.modePart (old new : Mode) (s : State) : Block → State
  | .tr => s.modeForTr old
  | .iu => s.modeForIu old
  | .ss => s.modeForSs old new
  | .tc => s.modeForTc old new
  | .awu => s.modeForAwu old new

/-- R156: a change of mode: MODE_CHANGED is noticed and every block takes the new mode. -/
def State.changeMode (s : State) (new : Mode) (remembered : Option Mode) : State :=
  let old := s.mc.mode
  let s := ({ s with mc := { s.mc with mode := new, remembered := remembered } } : State).notice .modeChanged new.code
  (fullOrder s.order).foldl (State.modePart old new) s

/-- R157, R158: go to STOP from RUN or QUIET, remembering the mode left; in STOP and SETUP nothing changes. -/
def State.requestStop (s : State) : State :=
  match s.mc.mode with
  | .run => s.changeMode .stop (some .run)
  | .quiet => s.changeMode .stop (some .quiet)
  | .setup => s
  | .stop => s

/-! ### The mode requests (R157) -/

/-- R157: GO RUN. -/
def ownGoRun (s : State) (station : Nat) (_ : Unit) : State × Answer :=
  if station ≠ 0 then (s, .refused .notPermitted [])
  else
    match s.mc.mode with
    | .setup => if s.pm.valid then (s.changeMode .run none, .done []) else (s, .refused .planInvalid [])
    | .run => (s, .done [])
    | .quiet => (s.changeMode .run none, .done [])
    | .stop => (s, .refused .badMode [])

/-- R157: GO QUIET. -/
def ownGoQuiet (s : State) (station : Nat) (_ : Unit) : State × Answer :=
  if station ≠ 0 then (s, .refused .notPermitted [])
  else
    match s.mc.mode with
    | .setup => (s, .refused .badMode [])
    | .run => (s.changeMode .quiet none, .done [])
    | .quiet => (s, .done [])
    | .stop => (s, .refused .badMode [])

/-- R157: STOP ALL, from the supervisor and from every cab. -/
def ownStopAll (s : State) (_station : Nat) (_ : Unit) : State × Answer :=
  if s.mc.mode = .setup then (s, .refused .badMode []) else (s.requestStop, .done [])

/-- R157: RESUME. -/
def ownResume (s : State) (station : Nat) (_ : Unit) : State × Answer :=
  if station ≠ 0 then (s, .refused .notPermitted [])
  else if s.mc.mode ≠ .stop then (s, .refused .badMode [])
  else if s.fs.chain = .fault then (s, .refused .faultPresent [])
  else (s.changeMode (s.mc.remembered.getD .run) none, .done [])

/-! ### RESET LAYOUT (R160) -/

/-- R24: the FS's values after RESET LAYOUT. -/
def FS.reset (f : FS) : FS := { f with chain := .good, recovery := 0, fieldFault := false, image := ⟨[]⟩ }

/-- R114: the SS's values after RESET LAYOUT. -/
def SS.reset (x : SS) : SS := { port := x.port, broadcast := true }

/-- R128: the TC's values after RESET LAYOUT. -/
def TC.reset (t : TC) : TC := if t.state = .locked then { state := .locked, pos := t.pos } else {}

/-- R144: the AWU's values after RESET LAYOUT. -/
def AWU.reset (a : AWU) : AWU := { line1 := a.line1, line2 := a.line2, line3 := a.line3 }

/-- R162: the CLP's values after RESET LAYOUT, with the notice of R160. -/
def CLP.reset (p : CLP) : CLP :=
  ({ p with notices := [], dropped := false, noticeLost := false, selection := none } : CLP).record .modeChanged 0 0

/-- R160: the blocks at RESET LAYOUT: the plan, the debounce state, the console lines and the mask are kept; then the
stop lamps are lit and every point takes its present detection (R77). -/
def State.resetLayout (s : State) : State :=
  let s := { s with
    fs := s.fs.reset, tr := {}, iu := {}, ss := s.ss.reset, tc := s.tc.reset, awu := s.awu.reset,
    mc := { s.mc with mode := .setup, remembered := none }, clp := s.clp.reset, due := {} }
  let s := s.stopSignals
  s.plan.points.rows.foldl (fun s r => s.detection r.1) s

/-- R160: RESET LAYOUT. -/
def ownResetLayout (s : State) (station : Nat) (_ : Unit) : State × Answer :=
  if station ≠ 0 then (s, .refused .notPermitted []) else (s.resetLayout, .done [])

/-! ### Power-up and the RESET pin (R23, R161) -/

/-- R23: the plan a power-up loads: the stored image, or the empty plan. -/
def PM.load (p : PM) : PM := { plan := p.store.getD {}, store := p.store }

/-- R23, R162: the notice table after power-up. -/
def PM.firstNotices (p : PM) : List Notice := if p.store.isNone then [⟨.planEmpty, 0, 1, 0⟩] else []

/-- R161: power-up. The store and the output registers keep what they hold (R24); the commands that wait outside the
part are no state of it. The first scan starts with the stop lamps lit. -/
def State.powerUp (s : State) : State :=
  let pm := s.pm.load
  let s : State :=
    { pm := pm,
      fs := { inLen := pm.plan.device.inputLength, outLen := pm.plan.device.outputLength, latched := s.fs.latched },
      clp := { notices := s.pm.firstNotices },
      pending := s.pending, freeCount := s.freeCount }
  let s := s.stopSignals
  { s with fs := { s.fs with sent := s.fs.image } }

/-! ### The meanings -/

/-- POWER_UP (R161). -/
def execPowerUp (s : State) : Host.Outcome State Fault Refusal := .next s.powerUp
/-- RESET_PIN (R161): the same start as power-up. -/
def execResetPin (s : State) : Host.Outcome State Fault Refusal := .next s.powerUp
/-- GO RUN (R157). -/
def execGoRun (f : Frame) (s : State) : Host.Outcome State Fault Refusal :=
  .next (s.takeRequest 0x20 f noParams ownGoRun)
/-- GO QUIET (R157). -/
def execGoQuiet (f : Frame) (s : State) : Host.Outcome State Fault Refusal :=
  .next (s.takeRequest 0x21 f noParams ownGoQuiet)
/-- STOP ALL (R157). -/
def execStopAll (f : Frame) (s : State) : Host.Outcome State Fault Refusal :=
  .next (s.takeRequest 0x22 f noParams ownStopAll)
/-- RESUME (R157). -/
def execResume (f : Frame) (s : State) : Host.Outcome State Fault Refusal :=
  .next (s.takeRequest 0x23 f noParams ownResume)
/-- RESET LAYOUT (R160). -/
def execResetLayout (f : Frame) (s : State) : Host.Outcome State Fault Refusal :=
  .next (s.takeRequest 0x24 f noParams ownResetLayout)

end Sys2Proof.Machine
end

