-- ==== Sys2Proof/Machine/IuRequests.lean ====
section
/-! DEFINITION. The requests and timers of the Interlocking Unit (R78, R80, R82, R89 to R91, R97, R101 to R103, R113). -/
namespace Sys2Proof.Machine

/-! ### SET ROUTE (R82) -/

/-- R82, R173: the parameters of SET ROUTE: route id, train reference (0 for none), level, STACK flag. -/
def parseSetRoute : Parse (Nat × Nat × Nat × Bool) := do
  let route ← u16
  let ref ← u16
  let level ← u8
  let stack ← flag
  pure (route, ref, level, stack)

/-- R82: SET ROUTE. A cab's handle is resolved before the IU sees the request (R44). -/
def ownSetRoute (s : State) (station : Nat) (a : Nat × Nat × Nat × Bool) : State × Answer :=
  match s.numberFor station a.2.1 with
  | .error r => (s, .refused r [])
  | .ok train => s.askRoute ⟨a.1, train, station, a.2.2.1, a.2.2.2⟩

/-! ### CANCEL ROUTE (R101) -/

/-- A train number stands at one of a cab's handles. -/
def State.holdsNumber (s : State) (cab number : Nat) : Bool :=
  match s.slotOf number with
  | none => false
  | some k => decide ((s.handles cab).h1 = k ∨ (s.handles cab).h2 = k ∨ (s.handles cab).h3 = k)

/-- A train slot stands at one of a cab's handles. -/
def State.holdsSlot (s : State) (cab k : Nat) : Bool :=
  decide ((s.handles cab).h1 = k ∨ (s.handles cab).h2 = k ∨ (s.handles cab).h3 = k)

/-- R101 test 4, of a stack entry. -/
def State.mayDrop (s : State) (station : Nat) (e : StackEntry) : Bool :=
  decide (station = 0) || decide (e.station = station) ||
  (match e.train with
   | none => false
   | some n => s.holdsNumber station n)

/-- R101 test 4, of an active record. -/
def State.mayCancel (s : State) (station : Nat) (r : ActiveRoute) : Bool :=
  decide (station = 0) || decide (r.station = station) ||
  (match r.train with
   | none => false
   | some k => s.holdsSlot station k)

/-- The slot of an active route. -/
def State.activeSlot (s : State) (route : Nat) : Option Nat :=
  (s.iu.routes.rows.find? (fun r => decide (r.2.route = route))).map Prod.fst

/-- R101: CANCEL ROUTE. -/
def ownCancelRoute (s : State) (station route : Nat) : State × Answer :=
  if s.mc.mode = .setup then (s, .refused .badMode [])
  else if !decide (1 ≤ route ∧ route ≤ 400) then (s, .refused .range [])
  else
    let entry := s.stacked route
    let active := s.activeSlot route
    let drops := (entry.map (s.mayDrop station)).getD false
    let cancels := ((active.bind s.route?).map (s.mayCancel station)).getD false
    if entry.isNone ∧ active.isNone then (s, .refused .noSuch [])
    else if !drops && !cancels then (s, .refused .notPermitted [])
    else s.cancelParts route drops (if cancels then active else none)

/-! ### POINT TEST and CLEAR FAULT (R89, R90) -/

/-- R90, R173: the parameters of POINT TEST. -/
def parsePointTest : Parse (Nat × Nat) := do
  let p ← u8
  let q ← u8
  pure (p, q)

/-- R90: POINT TEST. -/
def ownPointTest (s : State) (station : Nat) (a : Nat × Nat) : State × Answer :=
  if station ≠ 0 then (s, .refused .notPermitted [])
  else if s.mc.mode ≠ .setup then (s, .refused .badMode [])
  else if !decide (1 ≤ a.1 ∧ a.1 ≤ 120) then (s, .refused .range [])
  else
    match named positions a.2 with
    | none => (s, .refused .range [])
    | some q =>
      match s.plan.points.get? a.1 with
      | none => (s, .refused .noSuch [])
      | some r =>
        if (s.point a.1).fault then (s, .refused .faultPresent [])
        else if (s.point a.1).state.inFlight then (s, .refused .busy [])
        else if s.occupied r.sect then (s, .refused .conflict [])
        else if (s.point a.1).state = q.settled then (s, .done [])
        else (s.command a.1 q, .accepted [])

/-- R89: clear a point's fault flag: its present pair gives the position it shows, or leaves it FAILED; either way it
counts as a point settle. -/
def State.clearPointFault (s : State) (p : Nat) (r : PointRec) : State :=
  let st := s.point p
  if st.fault then
    (s.putPoint p { st with
      fault := false,
      state := match s.detected r with
        | some q => q.settled
        | none => st.state }).wantScan
  else s

/-- R173: the subject of CLEAR FAULT: 0 a point, 1 an overrun flag, 2 the field fault flag; then the id. -/
def parseClearFault : Parse (Nat × Nat) := do
  let kind ← u8
  let id ← u16
  if 2 < kind then undecodable
  else if kind = 2 ∧ id ≠ 0 then undecodable
  else pure (kind, id)

/-- R89: CLEAR FAULT. The field fault flag stays set while the chain is in FAULT (R32). -/
def ownClearFault (s : State) (station : Nat) (a : Nat × Nat) : State × Answer :=
  if station ≠ 0 then (s, .refused .notPermitted [])
  else if a.1 = 0 then
    if !decide (1 ≤ a.2 ∧ a.2 ≤ 120) then (s, .refused .range [])
    else
      match s.plan.points.get? a.2 with
      | none => (s, .refused .noSuch [])
      | some r => (s.clearPointFault a.2 r, .done [])
  else if a.1 = 1 then
    if !decide (1 ≤ a.2 ∧ a.2 ≤ 9999) then (s, .refused .range [])
    else
      match s.slotOf a.2 with
      | none => (s, .refused .noSuch [])
      | some slot => (s.updTrain slot (fun t => { t with overrun := false }), .done [])
  else
    (if s.fs.chain = .fault then s else { s with fs := { s.fs with fieldFault := false } }, .done [])

/-! ### Reading (R91, R97, R113) -/

/-- R91: the number of a route's state. -/
def RouteState.code : RouteState → Nat
  | .setting => 0
  | .cleared => 1
  | .occupied => 2
  | .cancelling => 3

/-- R91: the number of a section mark. -/
def SectionMark.code : SectionMark → Nat
  | .reserved => 0
  | .entered => 1
  | .released => 2

/-- The train number at a slot, 0 for none. -/
def State.numberAt (s : State) (slot : Option Nat) : Nat := ((slot.bind s.train?).map Train.number).getD 0

/-- R113: the fields of a stack entry, with its arrival order. -/
def State.entryBytes (s : State) (e : StackEntry) : List Byte :=
  one e.station ++ two (e.train.getD 0) ++ one e.clamped ++ one e.effective ++
  one (((placeOf e.route (s.iu.stack.map StackEntry.route)).getD 0) + 1)

/-- R91: an active route record. -/
def State.activeBytes (s : State) (slot : Nat) (r : ActiveRoute) : List Byte :=
  one slot ++ two r.route ++ two (s.numberAt r.train) ++ one r.station ++ one r.state.code ++
  listBytes (fun m => one m.code) r.marks ++ one r.moving ++ opt2 r.approach

/-- R91, R113: the payload of READ ROUTE: 0 ACTIVE, 1 STACKED or 2 INACTIVE; an ACTIVE result carries the stacked
indication too (log entry 15). -/
def State.routeBytes (s : State) (route : Nat) : List Byte :=
  let entry :=
    match s.stacked route with
    | none => none
    | some e => some (s.entryBytes e)
  match (s.activeSlot route).bind (fun k => (s.route? k).map (fun r => (k, r))), entry with
  | some (k, r), none => one 0 ++ s.activeBytes k r ++ [0#8]
  | some (k, r), some e => one 0 ++ s.activeBytes k r ++ [1#8] ++ e
  | none, some e => one 1 ++ e
  | none, none => one 2

/-- R91: READ ROUTE. -/
def ownReadRoute (s : State) (_station : Nat) (route : Nat) : State × Answer :=
  if !decide (1 ≤ route ∧ route ≤ 400) then (s, .refused .range [])
  else if (s.plan.routes.get? route).isNone then (s, .refused .noSuch [])
  else (s, .done (s.routeBytes route))

/-- R91: the payload of READ SECTION (log entry 15). -/
def State.sectionBytes (s : State) (sec : Nat) : List Byte :=
  let slot := (s.mark sec).slot
  let active := slot.bind s.route?
  let kind := match s.mark sec with
    | .free => 0
    | .route _ => 1
    | .overlap _ => 2
  let within := match s.mark sec with
    | .route _ => active.bind (fun r => s.sectionMark r sec)
    | _ => none
  flagByte (s.occupied sec) ++ one kind ++ opt1 slot ++ two ((active.map ActiveRoute.route).getD 0) ++
  opt1z (within.map SectionMark.code) ++ flagByte (s.stray sec) ++ two (s.numberAt (s.spanOf sec))

/-- R91: READ SECTION. -/
def ownReadSection (s : State) (_station : Nat) (sec : Nat) : State × Answer :=
  if !decide (1 ≤ sec ∧ sec ≤ 240) then (s, .refused .range [])
  else if (s.plan.sections.get? sec).isNone then (s, .refused .noSuch [])
  else (s, .done (s.sectionBytes sec))

/-- R91: the number of a point's state. -/
def PointState.code : PointState → Nat
  | .normal => 0
  | .reverse => 1
  | .movingN => 2
  | .movingR => 3
  | .undetected => 4
  | .failed => 5

/-- R91: the payload of READ POINT (log entry 15), the throw time remaining in one byte (log entry 64). -/
def State.pointBytes (s : State) (p : Nat) (r : PointRec) : List Byte :=
  let st := s.point p
  one st.state.code ++ one st.locks ++ opt1z (st.demand.map (code positions)) ++ flagByte st.fault ++
  flagByte (s.input r.normalDetect) ++ flagByte (s.input r.reverseDetect) ++ opt1 st.throw

/-- R91: READ POINT. -/
def ownReadPoint (s : State) (_station : Nat) (p : Nat) : State × Answer :=
  if !decide (1 ≤ p ∧ p ≤ 120) then (s, .refused .range [])
  else
    match s.plan.points.get? p with
    | none => (s, .refused .noSuch [])
    | some r => (s, .done (s.pointBytes p r))

/-- R97: the number of an aspect. -/
def Aspect.code : Aspect → Nat
  | .stop => 0
  | .caution => 1
  | .prelim => 2
  | .clear => 3
  | .shunt => 4

/-- R97: the depth of a signal whose aspect is CAUTION, PRELIM or CLEAR. -/
def State.depthOf (s : State) (signal : Nat) : Nat :=
  match (s.signal signal).aspect with
  | .stop => 0
  | .shunt => 0
  | _ =>
    match ((s.activeAt signal).bind s.route?).bind s.routeRec with
    | none => 0
    | some d => s.depth d

/-- R97: a lamp value, 255 where the signal has no such lamp (log entry 15). -/
def lampByte (present : Bool) (v : Bool) : List Byte := if present then flagByte v else [255#8]

/-- R97: the payload of READ SIGNAL. -/
def State.signalBytes (s : State) (signal : Nat) (g : SignalRec) : List Byte :=
  let l := (s.signal signal).lamps
  let slot := s.activeAt signal
  one (s.signal signal).aspect.code ++ one (s.depthOf signal) ++ opt1 slot ++
  two (((slot.bind s.route?).map ActiveRoute.route).getD 0) ++
  flagByte l.stop ++ lampByte g.caution.isSome l.caution ++ lampByte g.second.isSome l.second ++
  lampByte g.clear.isSome l.clear ++ lampByte g.subsidiary.isSome l.subsidiary

/-- R97: READ SIGNAL. -/
def ownReadSignal (s : State) (_station : Nat) (signal : Nat) : State × Answer :=
  if !decide (1 ≤ signal ∧ signal ≤ 160) then (s, .refused .range [])
  else
    match s.plan.signals.get? signal with
    | none => (s, .refused .noSuch [])
    | some g => (s, .done (s.signalBytes signal g))

/-! ### The IU's timers (R78, R80, R103) -/

/-- R78: one tick of a point's pulse. -/
def State.pulseTick (s : State) (p : Nat) : State :=
  match (s.point p).pulse with
  | none => s
  | some (q, n) => if n ≤ 1 then s.endPulse p else s.putPoint p { s.point p with pulse := some (q, n - 1) }

/-- R78, R80: one tick of a point's throw. -/
def State.throwTick (s : State) (p : Nat) : State :=
  match (s.point p).throw with
  | none => s
  | some n => if n ≤ 1 then s.failThrow p else s.putPoint p { s.point p with throw := some (n - 1) }

/-- R103: one tick of a route's approach timer. -/
def State.approachTick (s : State) (slot : Nat) : State :=
  match s.route? slot with
  | none => s
  | some r =>
    match r.approach with
    | none => s
    | some n => if n ≤ 1 then s.approachExpired slot else s.putRoute slot { r with approach := some (n - 1) }

/-- R78, R103: the IU's part of a tick: points, approach timers, then the test of the approach sections. -/
def State.interlockingTick (s : State) : State :=
  let s := s.iu.points.keys.foldl (fun s p => (s.pulseTick p).throwTick p) s
  (s.iu.routes.keys.foldl State.approachTick s).approachTest

/-! ### The meanings -/

/-- SET ROUTE (R82 to R86). -/
def execSetRoute (f : Frame) (s : State) : Host.Outcome State Fault Refusal :=
  .next (s.takeRequest 0x40 f parseSetRoute ownSetRoute)
/-- CANCEL ROUTE (R101 to R104). -/
def execCancelRoute (f : Frame) (s : State) : Host.Outcome State Fault Refusal :=
  .next (s.takeRequest 0x41 f u16 ownCancelRoute)
/-- The expiry of an approach timer (R103), at its last tick (log entry 4). -/
def execApproachTimerExpiry (slot : Nat) (order : List Block) (s : State) : Host.Outcome State Fault Refusal :=
  let s := { s with order := order }
  match (s.route? slot).bind ActiveRoute.approach with
  | none => .next s
  | some n => if n ≤ 1 then .next ((s.approachExpired slot).finish s.ss.urgent) else .next s
/-- POINT TEST (R90). -/
def execPointTest (f : Frame) (s : State) : Host.Outcome State Fault Refusal :=
  .next (s.takeRequest 0x42 f parsePointTest ownPointTest)
/-- READ ROUTE (R91, R113). -/
def execReadRoute (f : Frame) (s : State) : Host.Outcome State Fault Refusal :=
  .next (s.takeQuery 0x43 f u16 ownReadRoute)
/-- READ SECTION (R91). -/
def execReadSection (f : Frame) (s : State) : Host.Outcome State Fault Refusal :=
  .next (s.takeQuery 0x44 f u8 ownReadSection)
/-- READ POINT (R91). -/
def execReadPoint (f : Frame) (s : State) : Host.Outcome State Fault Refusal :=
  .next (s.takeQuery 0x45 f u8 ownReadPoint)
/-- READ SIGNAL (R97). -/
def execReadSignal (f : Frame) (s : State) : Host.Outcome State Fault Refusal :=
  .next (s.takeQuery 0x46 f u8 ownReadSignal)
/-- CLEAR FAULT (R89). -/
def execClearFault (f : Frame) (s : State) : Host.Outcome State Fault Refusal :=
  .next (s.takeRequest 0x47 f parseClearFault ownClearFault)
/-- The end of a point's pulse (R78), at its last tick (log entry 4). -/
def execPulseExpiry (point : Nat) (s : State) : Host.Outcome State Fault Refusal :=
  match (s.point point).pulse with
  | none => .next s
  | some (_, n) => if n ≤ 1 then .next (s.endPulse point) else .next s
/-- The timeout of a throw (R80), at its last tick (log entry 4). -/
def execThrowTimeout (point : Nat) (order : List Block) (s : State) : Host.Outcome State Fault Refusal :=
  let s := { s with order := order }
  match (s.point point).throw with
  | none => .next s
  | some n => if n ≤ 1 then .next ((s.failThrow point).finish s.ss.urgent) else .next s

end Sys2Proof.Machine
end

