-- ==== Sys2Proof/Machine/TcRequests.lean ====
section
/-! DEFINITION. The requests of the Turntable Controller and the expiry of its timer (R130, R132, R140, R142, R143). -/
namespace Sys2Proof.Machine

/-- R130: HOME TURNTABLE. -/
def ownHome (s : State) (station : Nat) (_ : Unit) : State × Answer := s.askHome station

/-- R132, R173: the parameters of TURN. -/
def parseTurn : Parse (Nat × Nat × Nat × Bool × Nat) := do
  let road ← u8
  let e ← u8
  let level ← u8
  let follow ← flag
  let ref ← u16
  pure (road, e, level, follow, ref)

/-- R132: TURN. A cab's handle is resolved before the TC sees the request (R44); the mode is tested before an end that
is not one of its values is refused RANGE. -/
def ownTurn (s : State) (station : Nat) (a : Nat × Nat × Nat × Bool × Nat) : State × Answer :=
  match s.numberFor station a.2.2.2.2 with
  | .error r => (s, .refused r [])
  | .ok train =>
    match named endChoices a.2.1 with
    | none => (s, .refused (if s.working then .range else .badMode) [])
    | some e => s.askTurn ⟨train, a.1, e, station, a.2.2.1, a.2.2.2.1⟩

/-- R142, R173: what WITHDRAW TURN names: a train by reference, or a plain alignment by road, end and station, 255 for
none named. -/
inductive WithdrawAsk where
  | train (ref : Nat)
  | plain (road endAt station : Nat)
deriving DecidableEq, Repr

/-- R142, R173: the parameters of WITHDRAW TURN. -/
def parseWithdraw : Parse WithdrawAsk := do
  let form ← u8
  if form = 0 then
    let ref ← u16
    pure (.train ref)
  else if form = 1 then
    let road ← u8
    let e ← u8
    let station ← u8
    pure (.plain road e station)
  else undecodable

/-- R142: the place of the request named; what refuses a bad reference or end is the model's choice (log entry 44). -/
def State.findTurn (s : State) (station : Nat) : WithdrawAsk → Except Reason (Option Nat)
  | .train ref =>
    match s.numberFor station ref with
    | .error r => .error r
    | .ok none => if station = 0 then .ok none else .error .range
    | .ok (some n) => .ok (s.turnOf n)
  | .plain road e named_ =>
    match named endChoices e with
    | none => .error .range
    | some e => .ok (s.plainTurn (if named_ = 255 then station else named_) road e)

/-- R142: any station may withdraw a plain alignment, whose station it may name; an entry for a train a cab may withdraw if
it made the entry or the train is at one of its handles. -/
def State.mayWithdraw (s : State) (station : Nat) (e : TurnReq) : Bool :=
  decide (station = 0) || decide (e.station = station) ||
  (match e.train with
   | none => true
   | some n => s.holdsNumber station n)

/-- R142: WITHDRAW TURN. -/
def ownWithdrawTurn (s : State) (station : Nat) (a : WithdrawAsk) : State × Answer :=
  match s.findTurn station a with
  | .error r => (s, .refused r [])
  | .ok none => (s, .refused .noSuch [])
  | .ok (some i) =>
    match s.tc.queue[i]? with
    | none => (s, .refused .noSuch [])
    | some e =>
      if !s.mayWithdraw station e then (s, .refused .notPermitted [])
      else if s.tc.served = some (i + 1) then (s, .refused .busy [])
      else (s.dropTurn i, .done [])

/-- R143: the number of the turntable state. -/
def TableState.code : TableState → Nat
  | .unindexed => 0
  | .homing => 1
  | .locked => 2
  | .unlocking => 3
  | .moving => 4
  | .locking => 5
  | .halted => 6
  | .faulted => 7

/-- R143: the number of a homing phase. -/
def Phase.code : Phase → Nat
  | .release => 0
  | .seek => 1
  | .engage => 2

/-- R143: the number of a direction. -/
def Turning.code : Turning → Nat
  | .clockwise => 0
  | .anticlockwise => 1

/-- R143: the move, with 255 in each byte where there is none (log entry 15). -/
def moveBytes : Option Move → List Byte
  | none => [255#8, 255#8, 255#8, 255#8]
  | some m => one m.target ++ one (code endsAB m.endAt) ++ one m.dir.code ++ one m.steps

/-- R143: a queue entry. -/
def TurnReq.bytes (e : TurnReq) : List Byte :=
  two (e.train.getD 0) ++ one e.road ++ one (code endChoices e.endAt) ++ one e.station ++ one e.clamped ++
  one e.effective ++ flagByte e.follow

/-- R143: the payload of READ TURNTABLE (log entry 15). -/
def State.tableBytes (s : State) : List Byte :=
  let t := s.tc
  one t.state.code ++ opt1z (t.phase.map Phase.code) ++ opt1z t.index ++ opt1z t.pos ++ moveBytes t.move ++
  opt1 t.served ++ opt1z t.burst ++ flagByte t.preempt ++ listBytes TurnReq.bytes t.queue

/-- R143: READ TURNTABLE. -/
def ownReadTurntable (s : State) (_station : Nat) (_ : Unit) : State × Answer := (s, .done s.tableBytes)

/-- HOME TURNTABLE (R130, R131). -/
def execHomeTurntable (f : Frame) (s : State) : Host.Outcome State Fault Refusal :=
  .next (s.takeRequest 0x50 f noParams ownHome)
/-- TURN (R132 to R137). -/
def execTurn (f : Frame) (s : State) : Host.Outcome State Fault Refusal :=
  .next (s.takeRequest 0x51 f parseTurn ownTurn)
/-- WITHDRAW TURN (R142). -/
def execWithdrawTurn (f : Frame) (s : State) : Host.Outcome State Fault Refusal :=
  .next (s.takeRequest 0x52 f parseWithdraw ownWithdrawTurn)
/-- READ TURNTABLE (R143). -/
def execReadTurntable (f : Frame) (s : State) : Host.Outcome State Fault Refusal :=
  .next (s.takeQuery 0x53 f noParams ownReadTurntable)
/-- The expiry of the TC's timer (R140), at its last tick (log entry 4). -/
def execTurntableTimerExpiry (order : List Block) (s : State) : Host.Outcome State Fault Refusal :=
  let s := { s with order := order }
  match s.tc.timer with
  | none => .next s
  | some n => if n ≤ 1 then .next (s.tableTimeout.wantArbitrate.finish s.ss.urgent) else .next s

end Sys2Proof.Machine
end

