-- ==== Sys2Proof/Machine/AwuRequests.lean ====
section
/-! DEFINITION. The requests, the console inputs and the timers of the Automatic Working Unit (R147 to R155). -/
namespace Sys2Proof.Machine

/-! ### START DEMO and STOP DEMO (R152) -/

/-- R152: the tests both requests begin with. -/
def State.demoRefusal (s : State) (station demo : Nat) : Option Reason :=
  if station ≠ 0 then some .notPermitted
  else if !decide (1 ≤ demo ∧ demo ≤ 16) then some .range
  else if (s.plan.demos.get? demo).isNone then some .noSuch
  else none

/-- R152: START DEMO; the reply carries the arrival order the demo has at its admission. -/
def ownStartDemo (s : State) (station demo : Nat) : State × Answer :=
  match s.demoRefusal station demo with
  | some r => (s, .refused r [])
  | none =>
    if s.mc.mode ≠ .run then (s, .refused .badMode [])
    else if s.demoBusy demo then (s, .refused .conflict [])
    else if Config.visitorEntries ≤ s.awu.queue.length ∧ s.plan.device.policy = .keepOldest then
      (s, .refused .tableFull [])
    else
      let s := s.admitDemo ⟨demo, 0, 0⟩
      (s, .accepted (one s.awu.queue.length))

/-- R152: remove a queued demo; the head's removal is followed by a start attempt. -/
def State.dropVisitor (s : State) (demo : Nat) : State :=
  let head := decide (s.awu.queue.head?.map Visitor.demo = some demo)
  let s := { s with awu := { s.awu with queue := s.awu.queue.filter (fun v => !decide (v.demo = demo)) } }
  if head then s.wantAttempt else s

/-- R152: STOP DEMO. -/
def ownStopDemo (s : State) (station demo : Nat) : State × Answer :=
  match s.demoRefusal station demo with
  | some r => (s, .refused r [])
  | none =>
    if s.awu.running.map Running.demo = some demo then (s.endDemo .stopped, .done [])
    else if s.awu.queue.any (fun v => decide (v.demo = demo)) then (s.dropVisitor demo, .done [])
    else (s, .refused .noSuch [])

/-! ### Reading (R149, R154) -/

/-- R153: the number of a line's status. -/
def LineStatus.code : LineStatus → Nat
  | .atPlatform => 0
  | .approaching => 1
  | .held => 2

/-- R153: a board line; an absent time is 65535 (log entry 15). -/
def BoardLine.bytes (l : BoardLine) : List Byte := two l.number ++ one l.status.code ++ one l.sect ++ optBit l.time

/-- R154: READ BOARD. -/
def ownReadBoard (s : State) (_station board : Nat) : State × Answer :=
  if !decide (1 ≤ board ∧ board ≤ 8) then (s, .refused .range [])
  else if (s.plan.boards.get? board).isNone then (s, .refused .noSuch [])
  else (s, .done (listBytes BoardLine.bytes (s.view board) ++ flagByte (s.console boardHold)))

/-- R144: the number of a lamp. -/
def Lamp.code : Lamp → Nat
  | .off => 0
  | .steady => 1
  | .flash => 2

/-- R149: one button of a panel: whether its record is present, the demo, the lamp, and whether the demo is queued or
running. -/
def State.buttonBytes (s : State) (key : Nat) : List Byte :=
  match s.plan.buttons.get? key with
  | none => [0#8, 0#8, 0#8, 0#8]
  | some b => [1#8] ++ one b.demo ++ one (s.lamp key).code ++ flagByte (s.demoBusy b.demo)

/-- R144: the demo state: IDLE, WAITING or RUNNING. -/
def State.demoState (s : State) : Nat :=
  if s.awu.running.isSome then 2 else if s.awu.queue.isEmpty then 0 else 1

/-- R144: a visitor queue entry; its place in the list stands for its arrival order (log entry 15). -/
def Visitor.bytes (v : Visitor) : List Byte := one v.demo ++ one v.panel ++ one v.button

/-- R149, R173: READ PANEL; the four buttons are sent as a list (log entry 15). -/
def ownReadPanel (s : State) (_station panel : Nat) : State × Answer :=
  if !decide (1 ≤ panel ∧ panel ≤ 6) then (s, .refused .range [])
  else
    (s, .done (listBytes (fun b => s.buttonBytes (panel * 256 + b)) [1, 2, 3, 4] ++
      two (Tab.getD 0 s.awu.cooldown panel) ++ one s.demoState ++ opt1 (s.awu.running.map Running.demo) ++
      opt2 (s.awu.running.map Running.remaining) ++ listBytes Visitor.bytes s.awu.queue))

/-! ### The console lines (R155) -/

/-- R155: a line at a tick: its samples move on, and it takes a value that both samples hold. -/
def ConsoleLine.sample (l : ConsoleLine) (raw : Bool) : ConsoleLine :=
  { accepted := if raw = l.sample1 then raw else l.accepted, sample1 := raw, sample2 := l.sample1 }

/-- R155: what an assertion of a line with a function code does at once. The lamps and the views follow from the
accepted values. -/
def State.asserted (s : State) (code : Nat) : State :=
  if code = emergencyStop then s.requestStop
  else if code = panelLock then s.emptyVisitors
  else if code = demoAbort then (s.endDemo .stopped).emptyVisitors
  else s

/-- R155: a line rises from its old accepted value to its new one. -/
def State.lineActs (s : State) (code : Nat) (before after : ConsoleLine) : State :=
  if after.accepted && !before.accepted then s.asserted code else s

/-- R155: the console lines' part of a tick, line 1 first, with the hand-offs of each before the next (log entry 60). -/
def State.consoleTick (s : State) (raw : ConsoleLevels) : State :=
  let l1 := s.awu.line1
  let l2 := s.awu.line2
  let l3 := s.awu.line3
  let s := { s with awu := { s.awu with
    line1 := l1.sample raw.line1, line2 := l2.sample raw.line2, line3 := l3.sample raw.line3 } }
  let s := (s.lineActs s.plan.device.console1 l1 (l1.sample raw.line1)).handOn
  let s := (s.lineActs s.plan.device.console2 l2 (l2.sample raw.line2)).handOn
  (s.lineActs s.plan.device.console3 l3 (l3.sample raw.line3)).handOn

/-! ### The AWU's timers (R147, R149, R151) -/

/-- R147: one tick of a train's dwell, in RUN and QUIET. -/
def State.dwellTick (s : State) (slot : Nat) : State :=
  match (s.train? slot).bind Train.dwell, s.awu.dwells.get? slot with
  | some n, some r => if n ≤ 1 then (s.endDwell slot).handOn else s.putDwell slot (some (n - 1, r))
  | _, _ => s

/-- R151: one tick of the running demo. -/
def State.demoTick (s : State) : State :=
  match s.awu.running with
  | none => s
  | some d =>
    if d.remaining ≤ 1 then (s.endDemo .timeout).handOn
    else { s with awu := { s.awu with running := some { d with remaining := d.remaining - 1 } } }

/-- R149: one tick of a panel's cooldown. -/
def State.cooldownTick (s : State) (panel : Nat) : State :=
  { s with awu := { s.awu with cooldown := Tab.putD 0 s.awu.cooldown panel (Tab.getD 0 s.awu.cooldown panel - 1) } }

/-- The AWU's part of a tick: cooldowns, the console lines, dwells, the demo's time, the FLASH lamps and the boards (log
entry 21). -/
def State.awuTick (s : State) (raw : ConsoleLevels) : State :=
  let s := s.awu.cooldown.keys.foldl State.cooldownTick s
  let s := s.consoleTick raw
  let s := if s.working then s.awu.dwells.keys.foldl State.dwellTick s else s
  s.demoTick.flashLamps.refreshBoards

/-! ### The meanings -/

/-- START DEMO (R152). -/
def execStartDemo (f : Frame) (s : State) : Host.Outcome State Fault Refusal :=
  .next (s.takeRequest 0x60 f u8 ownStartDemo)
/-- STOP DEMO (R152). -/
def execStopDemo (f : Frame) (s : State) : Host.Outcome State Fault Refusal :=
  .next (s.takeRequest 0x61 f u8 ownStopDemo)
/-- READ BOARD (R154). -/
def execReadBoard (f : Frame) (s : State) : Host.Outcome State Fault Refusal :=
  .next (s.takeQuery 0x62 f u8 ownReadBoard)
/-- READ PANEL (R149). -/
def execReadPanel (f : Frame) (s : State) : Host.Outcome State Fault Refusal :=
  .next (s.takeQuery 0x63 f u8 ownReadPanel)
/-- The end of a demo's time (R151), at its last tick (log entry 4). -/
def execDemoTimeout (order : List Block) (s : State) : Host.Outcome State Fault Refusal :=
  let s := { s with order := order }
  match s.awu.running with
  | none => .next s
  | some d => if d.remaining ≤ 1 then .next ((s.endDemo .timeout).finish s.ss.urgent) else .next s
/-- The end of a dwell (R147), at its last tick in RUN or QUIET (log entry 4). -/
def execDwellEnd (slot : Nat) (order : List Block) (s : State) : Host.Outcome State Fault Refusal :=
  let s := { s with order := order }
  match (s.train? slot).bind Train.dwell with
  | none => .next s
  | some n => if s.working ∧ n ≤ 1 then .next ((s.endDwell slot).finish s.ss.urgent) else .next s
/-- The end of a panel's cooldown (R149), at its last tick (log entry 4). -/
def execCooldownExpiry (panel : Nat) (s : State) : Host.Outcome State Fault Refusal :=
  if Tab.getD 0 s.awu.cooldown panel = 1 then .next (s.cooldownTick panel) else .next s

end Sys2Proof.Machine
end

