-- ==== Sys2Proof/Machine/FieldChain.lean ====
section
/-! DEFINITION. The Field Scanner's scan and the delivery of debounced changes, the layout tick, and the completion of a
drive order (R25 to R39, R123, R156). -/
namespace Sys2Proof.Machine

/-! ### The scan (R25, R28) -/

/-- R25 stage 3: the output registers present the image the scan sent; bits beyond the chain keep what they hold. -/
def FS.latch (f : FS) : FS :=
  { f with latched :=
      ⟨f.sent.rows.filter (fun r => decide (r.1 < f.outLen)) ++ f.latched.rows.filter (fun r => !decide (r.1 < f.outLen))⟩ }

/-- R28: the eight bits of a pattern, in order of sending. -/
def CheckPattern.bits : CheckPattern → List Bool
  | .a => [true, false, true, false, false, true, false, true]
  | .b => [false, true, false, true, true, false, true, false]

/-- R28: the other pattern. -/
def CheckPattern.other : CheckPattern → CheckPattern
  | .a => .b
  | .b => .a

/-- R28: the scan is good: the bits after the input bits are those of the pattern sent. A bit that never came reads 0
(log entry 8). -/
def FS.good (f : FS) (fdi : List Bool) : Bool :=
  decide ((List.range 8).map (fun i => fdi.getD (f.inLen + i) false) = f.check.bits)

/-! ### Debouncing (R33) -/

/-- R33: one bit on a used scan. -/
def InBit.debounce (b : InBit) (clearCount : Nat) (raw : Bool) : InBit :=
  if raw = b.value then { b with count := 0 }
  else
    let threshold := if b.count = 0 then (if raw then 2 else clearCount) else b.threshold
    if threshold ≤ b.count + 1 then { value := raw, count := 0, threshold := threshold }
    else { b with count := b.count + 1, threshold := threshold }

/-- R33: bit `n` of a used scan. -/
def FS.debounceBit (clearCount : Nat) (fdi : List Bool) (f : FS) (n : Nat) : FS :=
  { f with inputs := Tab.putD {} f.inputs n ((Tab.getD {} f.inputs n).debounce clearCount (fdi.getD n false)) }

/-- R33: every bit of a used scan. -/
def FS.debounce (f : FS) (clearCount : Nat) (fdi : List Bool) : FS :=
  (List.range f.inLen).foldl (FS.debounceBit clearCount fdi) f

/-- R33: the bits whose debounced value differs between two scanner states. -/
def changedBits (before after : FS) : List Nat :=
  (List.range after.inLen).filter (fun n =>
    !decide ((Tab.getD {} before.inputs n).value = (Tab.getD {} after.inputs n).value))

/-! ### Delivery (R35 to R38) -/

/-- R35: the section report of a used scan, taken by TR. -/
def State.deliverTr (s : State) (changed : List Nat) : State :=
  let rows := s.plan.sections.rows.filter (fun r => changed.contains r.2.detector)
  s.takeReport ((rows.filter (fun r => s.occupied r.1)).map Prod.fst) ((rows.filter (fun r => !s.occupied r.1)).map Prod.fst)

/-- R36: the detection reports of a used scan, taken by the IU point by point, each an event with its hand-offs. The
manual gives the points no order; the model takes them by ascending id (log entry 20). -/
def State.deliverIu (s : State) (changed : List Nat) : State :=
  (s.plan.points.rows.filter (fun r => changed.contains r.2.normalDetect || changed.contains r.2.reverseDetect)).foldl
    (fun s r => (s.detection r.1).handOn) s

/-- R37: the sensor report of a used scan, taken by the TC, which arbitrates in that event (R134, R139). What it hands on,
the retry scan among it, is taken afterwards. -/
def State.deliverTc (s : State) (changed : List Nat) : State :=
  let t := s.plan.turntable
  let came (bit : Nat) : Bool := changed.contains bit && s.input bit
  if t.present && (changed.contains t.indexBit || changed.contains t.homeBit || changed.contains t.lockBit) then
    (s.sensors (came t.indexBit) (came t.homeBit) (came t.lockBit)
      (changed.contains t.lockBit && !s.input t.lockBit)).tcTakes.handOn
  else s

/-- R38: the press reports of a used scan, taken by the AWU. The manual gives several presses no order; the model takes
them by panel and then button (log entry 20). -/
def State.deliverAwu (s : State) (changed : List Nat) : State :=
  (s.plan.buttons.rows.filter (fun r => changed.contains r.2.input && s.input r.2.input)).foldl
    (fun s r => (s.press (r.1 / 256) (r.1 % 256) r.2).handOn) s

/-- R35 to R38: a block takes its reports. -/
def State.deliver (changed : List Nat) (s : State) : Block → State
  | .tr => s.deliverTr changed
  | .iu => s.deliverIu changed
  | .tc => s.deliverTc changed
  | .awu => s.deliverAwu changed
  | .ss => s

/-- R28, R33: a used scan: debounce, then the delivery in the event's order (log entry 3). -/
def State.useScan (s : State) (fdi : List Bool) : State :=
  let after := s.fs.debounce s.plan.device.clearDebounce fdi
  let changed := changedBits s.fs after
  (fullOrder s.order).foldl (State.deliver changed) { s with fs := after }

/-- R30: the chain goes from SUSPECT to FAULT. -/
def State.enterFault (s : State) : State :=
  (({ s with fs := { s.fs with chain := .fault, recovery := 0, fieldFault := true } } : State).notice
    .fieldFault 0).requestStop

/-- R29, R31: the chain check of a completed scan, and its use. -/
def State.checkScan (s : State) (good : Bool) (fdi : List Bool) : State :=
  match s.fs.chain, good with
  | .good, true => s.useScan fdi
  | .good, false => { s with fs := { s.fs with chain := .suspect } }
  | .suspect, true => ({ s with fs := { s.fs with chain := .good } } : State).useScan fdi
  | .suspect, false => s.enterFault
  | .fault, true =>
    if 8 ≤ s.fs.recovery + 1 then { s with fs := { s.fs with chain := .good, recovery := 0 } }
    else { s with fs := { s.fs with recovery := s.fs.recovery + 1 } }
  | .fault, false => { s with fs := { s.fs with recovery := 0 } }

/-- R26, R77: a settled point with a detect input outside the chain stands UNDETECTED where its pair, that input read as
set, shows no position (log entry 57). -/
def State.offChain (s : State) (r : Nat × PointRec) : State :=
  let st := s.point r.1
  if (s.fs.inLen ≤ r.2.normalDetect ∨ s.fs.inLen ≤ r.2.reverseDetect) ∧ (st.state = .normal ∨ st.state = .reverse) ∧
      s.detected r.2 = none then
    s.putPoint r.1 { st with state := .undetected }
  else s

/-- R26: the next scan takes the chain lengths in force; input bits dropped by a shorter length keep no state.
A section whose detector is dropped so reads occupied without a report, and a throw of a point in it runs on (log entry
65). -/
def State.takeLengths (s : State) : State :=
  let d := s.plan.device
  let s := { s with fs := { s.fs with
    inLen := d.inputLength, outLen := d.outputLength,
    inputs := ⟨s.fs.inputs.rows.filter (fun r => decide (r.1 < d.inputLength))⟩ } }
  s.plan.points.rows.foldl State.offChain s

/-- R25: the next scan sends the image as it stands. -/
def State.startScan (s : State) : State := { s with fs := { s.fs with sent := s.fs.image } }

/-- R25, R28: the completion of the scan in progress, and the start of the next. -/
def State.completeScan (s : State) (fdi : List Bool) : State :=
  let good := s.fs.good fdi
  let s := { s with fs := { s.fs.latch with check := s.fs.check.other } }
  ((s.checkScan good fdi).takeLengths.finish s.ss.urgent).startScan

/-! ### The tick (R156) -/

/-- R156: a block's part of a tick. -/
def State.tickPart (raw : ConsoleLevels) (s : State) : Block → State
  | .tr => s.registerTick
  | .iu => s.interlockingTick.handOn
  | .tc => s.tableTick.handOn
  | .awu => s.awuTick raw
  | .ss => s.recomputeAll.rampAll

/-- R156: a layout tick: every block counts its timers, in the event's order. -/
def State.tick (s : State) (raw : ConsoleLevels) : State :=
  let s := { s with mc := { s.mc with ticks := s.mc.ticks + 1 } }
  ((fullOrder s.order).foldl (State.tickPart raw) s).finish s.ss.urgent

/-! ### The meanings -/

/-- LAYOUT_TICK (R156). -/
def execLayoutTick (raw : ConsoleLevels) (order : List Block) (s : State) : Host.Outcome State Fault Refusal :=
  .next (({ s with order := order } : State).tick raw)
/-- SCAN_COMPLETION (R25). -/
def execScanCompletion (fdi : List Bool) (order : List Block) (s : State) : Host.Outcome State Fault Refusal :=
  .next (({ s with order := order } : State).completeScan fdi)
/-- ORDER_COMPLETION (R123): the port is free and starts the next order, if there is one. In IDLE there is no order to
complete. -/
def execOrderCompletion (s : State) : Host.Outcome State Fault Refusal :=
  match s.ss.port with
  | none => .next s
  | some _ => .next ({ s with ss := { s.ss with port := none } } : State).kickPort

end Sys2Proof.Machine
end

