-- ==== Sys2Proof/Machine/PlanRecords.lean ====
section
/-! DEFINITION. Plan Memory's records on the link: decoding with clamping, encoding, keys, and what a change of the tables
does to the neighbouring blocks (R2 to R18, R173). -/
namespace Sys2Proof.Machine

/-- A plan record without its key (R1, R173). -/
inductive Record where
  | sect (r : SectionRec)
  | point (r : PointRec)
  | signal (r : SignalRec)
  | route (r : RouteRec)
  | road (r : RoadRec)
  | trigger (r : TriggerRec)
  | demo (r : DemoRec)
  | button (r : ButtonRec)
  | board (r : BoardRec)
  | turntable (r : TurntableRec)
  | cls (r : ClassRec)
  | station (r : StationRec)
  | device (r : DeviceRec)
deriving DecidableEq, Repr

/-! ### Values (R15 step 6, R16) -/

/-- R16: a number taken into a range. -/
def clamp (lo hi n : Nat) : Nat := max lo (min n hi)

/-- R15: an id within its table. -/
def idIn (hi n : Nat) : Option Nat := if 1 ≤ n ∧ n ≤ hi then some n else none

/-- R15: an id within its table, or 0 for none. -/
def idOrNone (hi n : Nat) : Option Nat := if n ≤ hi then some n else none

/-- R15: a bit number. -/
def bitNo (n : Nat) : Option Nat := if n ≤ 511 then some n else none

/-- R6, R173: an optional bit number, 65535 for absent. -/
def optBitNo (n : Nat) : Option (Option Nat) := if n = 65535 then some none else (bitNo n).map some

/-- R16: a chain length, raised to the next multiple of 8. -/
def chainLength (n : Nat) : Nat := clamp 8 512 ((n + 7) / 8 * 8)

/-- R2, R173: an optional condition, 0 and 255 for absent (log entry 11). -/
def condition (p q : Nat) : Option (Option (Nat × Pos)) :=
  if p = 0 ∧ q = 255 then some none
  else do
    let p ← idIn 120 p
    let q ← named positions q
    some (some (p, q))

/-- R7, R173: an optional turntable requirement, 0 and 255 for absent (log entry 11). -/
def requirementOf (road e : Nat) : Option (Option (Nat × End)) :=
  if road = 0 ∧ e = 255 then some none
  else do
    let road ← idIn 20 road
    let e ← named endsAB e
    some (some (road, e))

/-! ### Decoding the records. The inner none stands for a value that the owner refuses RANGE (R15 step 6). -/

/-- R2: a successor entry. -/
def parseSucc : Parse (Option Succ) := do
  let target ← u8
  let flip ← flag
  let p ← u8
  let q ← u8
  pure (do
    let target ← idIn 240 target
    let cond ← condition p q
    some ⟨target, flip, cond⟩)

/-- R2: a section record. A board number is taken whatever the kind; PLAN CHECK finds it under code 8 (log entry 61). -/
def parseSection : Parse (Option Record) := do
  let length ← u16
  let detector ← u16
  let kind ← u8
  let limit ← u8
  let east ← listOf 2 parseSucc
  let west ← listOf 2 parseSucc
  let board ← u8
  pure (do
    let detector ← bitNo detector
    let kind ← named sectionKinds kind
    let east ← east.mapM id
    let west ← west.mapM id
    let board ← idOrNone 8 board
    some (.sect ⟨clamp 1 4095 length, detector, kind, clamp 1 63 limit, east, west, board⟩))

/-- R5: a point record. Its tick counts are sent in one byte each (log entry 64). -/
def parsePoint : Parse (Option Record) := do
  let sect ← u8
  let nDrive ← u16
  let rDrive ← u16
  let nDetect ← u16
  let rDetect ← u16
  let pulse ← u8
  let throw ← u8
  let limit ← u8
  pure (do
    let sect ← idIn 240 sect
    let nDrive ← bitNo nDrive
    let rDrive ← bitNo rDrive
    let nDetect ← bitNo nDetect
    let rDetect ← bitNo rDetect
    some (.point ⟨sect, nDrive, rDrive, nDetect, rDetect, clamp 1 10 pulse, clamp 2 50 throw, clamp 1 63 limit⟩))

/-- R6: a signal record; a SHUNT signal has no caution, second caution or clear lamp. -/
def parseSignal : Parse (Option Record) := do
  let kind ← u8
  let sect ← u8
  let dir ← u8
  let approach ← u8
  let stop ← u16
  let caution ← u16
  let second ← u16
  let clear ← u16
  let subsidiary ← u16
  pure (do
    let kind ← named mainShunts kind
    let sect ← idIn 240 sect
    let dir ← named dirs dir
    let approach ← idOrNone 240 approach
    let stop ← bitNo stop
    let caution ← optBitNo caution
    let second ← optBitNo second
    let clear ← optBitNo clear
    let subsidiary ← optBitNo subsidiary
    if kind = .shunt ∧ ¬ (caution = none ∧ second = none ∧ clear = none) then none
    else some (.signal ⟨kind, sect, dir, approach, stop, caution, second, clear, subsidiary⟩))

/-- R7: a point or flank setting. -/
def parseSetting : Parse (Option (Nat × Pos)) := do
  let p ← u8
  let q ← u8
  pure (do
    let p ← idIn 120 p
    let q ← named positions q
    some (p, q))

/-- R7: a route record. -/
def parseRoute : Parse (Option Record) := do
  let cls ← u8
  let entry ← u8
  let exit ← u8
  let sections ← listOf 12 u8
  let points ← listOf 10 parseSetting
  let flanks ← listOf 6 parseSetting
  let overlap ← listOf 2 u8
  let road ← u8
  let e ← u8
  pure (do
    let cls ← named mainShunts cls
    let entry ← idIn 160 entry
    let exit ← idOrNone 160 exit
    let sections ← sections.mapM (idIn 240)
    let points ← points.mapM id
    let flanks ← flanks.mapM id
    let overlap ← overlap.mapM (idIn 240)
    let req ← requirementOf road e
    some (.route ⟨cls, entry, exit, sections, points, flanks, overlap, req⟩))

/-- R4: a road record. -/
def parseRoad : Parse (Option Record) := do
  let index ← u8
  let sect ← u8
  let flip ← flag
  pure (do
    let sect ← idIn 240 sect
    some (.road ⟨index % 48, sect, flip⟩))

/-- R11, R173: a trigger's action with its operands. A place that names no action says nothing of the bytes that follow, so
it cannot be decoded (log entry 12). -/
def parseAction : Parse (Option Action) := do
  let place ← u8
  if place = 0 then
    let r ← u16
    pure ((idIn 400 r).map Action.requestRoute)
  else if place = 1 then
    let n ← u16
    let r ← u16
    pure ((idIn 400 r).map (Action.dwell (clamp 1 1200 n)))
  else if place = 2 then
    let g ← u8
    pure (some (.setSpeed (min g 63)))
  else if place = 3 then pure (some .endDemo)
  else if place = 4 then pure (some .notice)
  else undecodable

/-- R11: a trigger record. -/
def parseTrigger : Parse (Option Record) := do
  let sect ← u8
  let dir ← u8
  let classes ← setOf trainClasses
  let action ← parseAction
  pure (do
    let sect ← idIn 240 sect
    let dir ← named dirFilters dir
    let action ← action
    some (.trigger ⟨sect, dir, classes, action⟩))

/-- R12, R173: a demo record; the fields of the other kind carry their absent codes. -/
def parseDemo : Parse (Option Record) := do
  let kind ← u8
  let train ← u16
  let route ← u16
  let grade ← u8
  let road ← u8
  let e ← u8
  let limit ← u16
  pure (do
    let train ← idIn 9999 train
    let kind ←
      if kind = 0 then
        if road = 0 ∧ e = 255 then (idIn 400 route).map (fun r => DemoKind.run r (clamp 1 63 grade)) else none
      else if kind = 1 then
        if route = 0 ∧ grade = 0 then do
          let road ← idIn 20 road
          let e ← named endChoices e
          some (DemoKind.turn road e)
        else none
      else none
    some (.demo ⟨kind, train, clamp 10 600 limit⟩))

/-- R13: a button record. -/
def parseButton : Parse (Option Record) := do
  let input ← u16
  let lamp ← u16
  let demo ← u8
  pure (do
    let input ← bitNo input
    let lamp ← bitNo lamp
    let demo ← idIn 16 demo
    some (.button ⟨input, lamp, demo⟩))

/-- R13: a board record. -/
def parseBoard : Parse (Option Record) := do
  let sections ← listOf 3 u8
  pure ((sections.mapM (idIn 240)).map (fun l => .board ⟨l⟩))

/-- R8: the turntable parameters. Whether the turntable is present is sent as a named value, 0 present or 1 absent, not as
a flag (log entry 56), and the two timeouts in one byte each (log entry 64). -/
def parseTurntable : Parse (Option Record) := do
  let here ← u8
  let bridge ← u8
  let step ← u8
  let lock ← u8
  let sector ← u8
  let index ← u16
  let home ← u16
  let confirmed ← u16
  let cw ← u16
  let acw ← u16
  let release ← u16
  pure (do
    let here ← named [true, false] here
    let bridge ← idIn 240 bridge
    let index ← bitNo index
    let home ← bitNo home
    let confirmed ← bitNo confirmed
    let cw ← bitNo cw
    let acw ← bitNo acw
    let release ← bitNo release
    some (.turntable
      { present := here, bridge, stepTimeout := clamp 1 50 step, lockTimeout := clamp 1 50 lock,
        stopSector := if sector = 255 then none else some (sector % 48),
        indexBit := index, homeBit := home, lockBit := confirmed, cwBit := cw, acwBit := acw, releaseBit := release }))

/-- R9: a class record. -/
def parseClass : Parse (Option Record) := do
  let g ← u8
  let a ← u8
  let b ← u8
  pure (some (.cls ⟨clamp 1 63 g, clamp 1 8 a, clamp 1 32 b⟩))

/-- R10: a station record. -/
def parseStation : Parse (Option Record) := do
  let floor ← u8
  let k ← u8
  pure (some (.station ⟨min floor 15, clamp 1 60 k⟩))

/-- R14: a console function code. -/
def consoleCode (n : Nat) : Option Nat := if n ≤ 5 then some n else none

/-- R14: the device parameters. -/
def parseDevice : Parse (Option Record) := do
  let approach ← u8
  let debounce ← u8
  let low ← u8
  let cooldown ← u8
  let policy ← u8
  let c1 ← u8
  let c2 ← u8
  let c3 ← u8
  let inLen ← u16
  let outLen ← u16
  pure (do
    let policy ← named queuePolicies policy
    let c1 ← consoleCode c1
    let c2 ← consoleCode c2
    let c3 ← consoleCode c3
    some (.device
      { approachLock := clamp 1 120 approach, clearDebounce := clamp 3 15 debounce, lowSpeed := clamp 1 63 low,
        cooldown, policy, console1 := c1, console2 := c2, console3 := c3,
        inputLength := chainLength inLen, outputLength := chainLength outLen }))

/-- R173: the fields of a record kind, 0 for sections to 8 for boards, then 9 for the turntable parameters to 12 for the
device parameters. -/
def parseRecord (kind : Nat) : Parse (Option Record) :=
  match kind with
  | 0 => parseSection
  | 1 => parsePoint
  | 2 => parseSignal
  | 3 => parseRoute
  | 4 => parseRoad
  | 5 => parseTrigger
  | 6 => parseDemo
  | 7 => parseButton
  | 8 => parseBoard
  | 9 => parseTurntable
  | 10 => parseClass
  | 11 => parseStation
  | 12 => parseDevice
  | _ => undecodable

/-! ### Encoding the records -/

/-- R173: a successor entry. -/
def succBytes (e : Succ) : List Byte :=
  one e.target ++ flagByte e.flip ++
  (match e.cond with
   | none => [0#8, 255#8]
   | some (p, q) => one p ++ one (code positions q))

/-- R173: a point or flank setting. -/
def settingBytes (x : Nat × Pos) : List Byte := one x.1 ++ one (code positions x.2)

/-- R173: a set of named values. -/
def setByte {α : Type} [DecidableEq α] (values : List α) (set : List α) : List Byte :=
  one ((values.zipIdx.map (fun x => if set.contains x.1 then 2 ^ x.2 else 0)).sum)

/-- R173: a trigger's action. -/
def actionBytes : Action → List Byte
  | .requestRoute r => one 0 ++ two r
  | .dwell n r => one 1 ++ two n ++ two r
  | .setSpeed g => one 2 ++ one g
  | .endDemo => one 3
  | .notice => one 4

/-- R17, R173: a record's fields as stored; tick counts up to 255 in one byte (log entry 64). -/
def Record.bytes : Record → List Byte
  | .sect r =>
    two r.length ++ two r.detector ++ one (code sectionKinds r.kind) ++ one r.limit ++ listBytes succBytes r.east ++
      listBytes succBytes r.west ++ one r.board
  | .point r =>
    one r.sect ++ two r.normalDrive ++ two r.reverseDrive ++ two r.normalDetect ++ two r.reverseDetect ++ one r.pulse ++
      one r.throw ++ one r.reverseLimit
  | .signal r =>
    one (code mainShunts r.kind) ++ one r.sect ++ one (code dirs r.dir) ++ one r.approach ++ two r.stop ++
      optBit r.caution ++ optBit r.second ++ optBit r.clear ++ optBit r.subsidiary
  | .route r =>
    one (code mainShunts r.cls) ++ one r.entry ++ one r.exit ++ listBytes one r.sections ++
      listBytes settingBytes r.points ++ listBytes settingBytes r.flanks ++ listBytes one r.overlap ++
      (match r.requirement with
       | none => [0#8, 255#8]
       | some (rd, e) => one rd ++ one (code endsAB e))
  | .road r => one r.index ++ one r.sect ++ flagByte r.flip
  | .trigger r =>
    one r.sect ++ one (code dirFilters r.dir) ++ setByte trainClasses r.classes ++ actionBytes r.action
  | .demo r =>
    (match r.kind with
     | .run rt g => one 0 ++ two r.train ++ two rt ++ one g ++ [0#8, 255#8]
     | .turn rd e => one 1 ++ two r.train ++ [0#8, 0#8, 0#8] ++ one rd ++ one (code endChoices e)) ++ two r.limit
  | .button r => two r.input ++ two r.lamp ++ one r.demo
  | .board r => listBytes one r.sections
  | .turntable r =>
    one (code [true, false] r.present) ++ one r.bridge ++ one r.stepTimeout ++ one r.lockTimeout ++
      opt1z r.stopSector ++ two r.indexBit ++ two r.homeBit ++ two r.lockBit ++ two r.cwBit ++ two r.acwBit ++
      two r.releaseBit
  | .cls r => one r.maxGrade ++ one r.accel ++ one r.braking
  | .station r => one r.floor ++ one r.keepAlive
  | .device r =>
    one r.approachLock ++ one r.clearDebounce ++ one r.lowSpeed ++ one r.cooldown ++ one (code queuePolicies r.policy) ++
      one r.console1 ++ one r.console2 ++ one r.console3 ++ two r.inputLength ++ two r.outputLength

/-! ### Keys (R1, R173) -/

/-- R1: a key within its kind's range. A button's key carries its panel in the high byte. -/
def keyInRange (kind key : Nat) : Bool :=
  match kind with
  | 0 => decide (1 ≤ key ∧ key ≤ 240)
  | 1 => decide (1 ≤ key ∧ key ≤ 120)
  | 2 => decide (1 ≤ key ∧ key ≤ 160)
  | 3 => decide (1 ≤ key ∧ key ≤ 400)
  | 4 => decide (1 ≤ key ∧ key ≤ 20)
  | 5 => decide (1 ≤ key ∧ key ≤ 64)
  | 6 => decide (1 ≤ key ∧ key ≤ 16)
  | 7 => decide (1 ≤ key / 256 ∧ key / 256 ≤ 6 ∧ 1 ≤ key % 256 ∧ key % 256 ≤ 4)
  | 8 => decide (1 ≤ key ∧ key ≤ 8)
  | 9 => decide (key = 0)
  | 10 => decide (key ≤ 5)
  | 11 => decide (1 ≤ key ∧ key ≤ 24)
  | 12 => decide (key = 0)
  | _ => false

/-- R9: the class record at a key. -/
def ClassTable.at (t : ClassTable) (key : Nat) : Option ClassRec := (named trainClasses key).map t.get

/-- R9: write the class record at a key. -/
def ClassTable.put (t : ClassTable) (key : Nat) (r : ClassRec) : ClassTable :=
  match key with
  | 0 => { t with express := r }
  | 1 => { t with stopping := r }
  | 2 => { t with goods := r }
  | 3 => { t with shunting := r }
  | 4 => { t with lightEngine := r }
  | 5 => { t with demo := r }
  | _ => t

/-- R1, R17: the record at a key of a kind, if present. -/
def Plan.lookup (p : Plan) (kind key : Nat) : Option Record :=
  match kind with
  | 0 => (p.sections.get? key).map .sect
  | 1 => (p.points.get? key).map .point
  | 2 => (p.signals.get? key).map .signal
  | 3 => (p.routes.get? key).map .route
  | 4 => (p.roads.get? key).map .road
  | 5 => (p.triggers.get? key).map .trigger
  | 6 => (p.demos.get? key).map .demo
  | 7 => (p.buttons.get? key).map .button
  | 8 => (p.boards.get? key).map .board
  | 9 => some (.turntable p.turntable)
  | 10 => (p.classes.at key).map .cls
  | 11 => some (.station (p.station key))
  | 12 => some (.device p.device)
  | _ => none

/-- R15: write a record at its key. -/
def Plan.store (p : Plan) (key : Nat) : Record → Plan
  | .sect r => { p with sections := p.sections.put key r }
  | .point r => { p with points := p.points.put key r }
  | .signal r => { p with signals := p.signals.put key r }
  | .route r => { p with routes := p.routes.put key r }
  | .road r => { p with roads := p.roads.put key r }
  | .trigger r => { p with triggers := p.triggers.put key r }
  | .demo r => { p with demos := p.demos.put key r }
  | .button r => { p with buttons := p.buttons.put key r }
  | .board r => { p with boards := p.boards.put key r }
  | .turntable r => { p with turntable := r }
  | .cls r => { p with classes := p.classes.put key r }
  | .station r => { p with stations := Tab.putD {} p.stations key r }
  | .device r => { p with device := r }

/-- R15: remove the record at a key of a keyed table. -/
def Plan.remove (p : Plan) (kind key : Nat) : Plan :=
  match kind with
  | 0 => { p with sections := p.sections.erase key }
  | 1 => { p with points := p.points.erase key }
  | 2 => { p with signals := p.signals.erase key }
  | 3 => { p with routes := p.routes.erase key }
  | 4 => { p with roads := p.roads.erase key }
  | 5 => { p with triggers := p.triggers.erase key }
  | 6 => { p with demos := p.demos.erase key }
  | 7 => { p with buttons := p.buttons.erase key }
  | 8 => { p with boards := p.boards.erase key }
  | _ => p

/-! ### What a change of the tables does (R15, R18, R22) -/

/-- R27: the output bits a signal record names. -/
def SignalRec.lampBits (r : SignalRec) : List Nat :=
  r.stop :: [r.caution, r.second, r.clear, r.subsidiary].flatMap Option.toList

/-- R27: the output bits a record names. The turntable's bit fields are not read while it is absent (R8). -/
def Record.outputs : Record → List Nat
  | .point r => [r.normalDrive, r.reverseDrive]
  | .signal r => r.lampBits
  | .button r => [r.lamp]
  | .turntable r => if r.present then [r.cwBit, r.acwBit, r.releaseBit] else []
  | _ => []

/-- Set output bits to 0. -/
def State.clearOuts (s : State) (bits : List Nat) : State := bits.foldl (fun s b => s.setOut b false) s

/-- R15: each output bit named by the old record and not by the new one is set to 0. -/
def State.dropOutputs (s : State) (old new : Option Record) : State :=
  let named (o : Option Record) : List Nat := (o.map Record.outputs).getD []
  s.clearOuts ((named old).filter (fun b => !(named new).contains b))

/-- Put the plan tables, with the plan-valid flag clear (R15, R19). -/
def State.putPlan (s : State) (p : Plan) : State := { s with pm := { s.pm with plan := p, valid := false } }

/-- R15: a point's drive bit stays where its pulse was timing it (log entry 18). -/
def State.keepsPulse (s : State) (key : Nat) (old new : Option Record) : Bool :=
  match old, new, (s.point key).pulse with
  | some (.point o), some (.point n), some (q, _) => decide (o.drive q = n.drive q)
  | _, _, _ => false

/-- R77: a pulse that goes on no longer leaves its drive output at 0. -/
def State.stopPulse (s : State) (key : Nat) (old : Option Record) : State :=
  match old, (s.point key).pulse with
  | some (.point o), some (q, _) => s.setOut (o.drive q) false
  | _, _ => s

/-- R15: what the IU, the TC and the AWU do with a record written (`new`) or removed at a key. A section record leaves the
throw of a point in it running, whatever its new detector reads (log entry 65). -/
def State.planChanged (s : State) (kind key : Nat) (old new : Option Record) : State :=
  match kind with
  | 1 =>
    let keep := s.keepsPulse key old new
    let s := (if keep then s else s.stopPulse key old).resetPoint key keep
    match new with
    | some _ => s.detection key
    | none => s
  | 2 =>
    match new with
    | some (.signal g) => s.showAspect key g .stop
    | _ => { s with iu := { s.iu with signals := s.iu.signals.erase key } }
  | 7 => { s with awu := { s.awu with lamps := s.awu.lamps.erase key } }
  | 8 => if new.isNone then { s with awu := { s.awu with views := s.awu.views.erase key } } else s
  | 9 => s.setTc TC.unindexed
  | _ => s

/-- R15 step 7: a completed PLAN WRITE. -/
def State.writeRecord (s : State) (kind key : Nat) (r : Record) : State :=
  let old := s.plan.lookup kind key
  ((s.dropOutputs old (some r)).putPlan (s.plan.store key r)).planChanged kind key old (some r)

/-- R15: a completed removal. -/
def State.removeRecord (s : State) (kind key : Nat) : State :=
  let old := s.plan.lookup kind key
  ((s.dropOutputs old none).putPlan (s.plan.remove kind key)).planChanged kind key old none

/-- R18: every output bit a plan names. -/
def Plan.outputs (p : Plan) : List Nat :=
  p.points.rows.flatMap (fun r => Record.outputs (.point r.2)) ++
  p.signals.rows.flatMap (fun r => Record.outputs (.signal r.2)) ++
  p.buttons.rows.flatMap (fun r => Record.outputs (.button r.2)) ++ Record.outputs (.turntable p.turntable)

/-- R18, R22: the tables are replaced: the old plan's outputs go to 0, every point is UNDETECTED, the TC is UNINDEXED;
then each signal of the new plan shows STOP and each of its points takes its present detection. -/
def State.replacePlan (s : State) (p : Plan) : State :=
  let s := (s.clearOuts s.plan.outputs).putPlan p
  let s := { s with
    iu := { s.iu with points := ⟨[]⟩, signals := ⟨[]⟩ }, awu := { s.awu with lamps := ⟨[]⟩, views := ⟨[]⟩ } }
  let s := (s.setTc TC.unindexed).stopSignals
  p.points.rows.foldl (fun s r => s.detection r.1) s

/-! ### The requests PLAN CLEAR, WRITE, READ, SAVE and LOAD -/

/-- What a PLAN WRITE carries: `record` is none for a removal; the inner none holds a value to be refused RANGE. -/
structure WriteAsk where
  kind : Nat
  key : Nat
  record : Option (Option Record)
deriving DecidableEq, Repr

/-- R173: the parameters of PLAN WRITE. -/
def parsePlanWrite : Parse WriteAsk := do
  let kind ← u8
  let key ← u16
  let op ← u8
  if 12 < kind then undecodable
  else if op = 0 then
    let r ← parseRecord kind
    pure ⟨kind, key, some r⟩
  else if op = 1 then pure ⟨kind, key, none⟩
  else undecodable

/-- R15: PLAN WRITE. -/
def ownPlanWrite (s : State) (station : Nat) (a : WriteAsk) : State × Answer :=
  if station ≠ 0 then (s, .refused .notPermitted [])
  else if s.mc.mode ≠ .setup then (s, .refused .badMode [])
  else if s.pm.saving then (s, .refused .busy [])
  else if !keyInRange a.kind a.key then (s, .refused .range [])
  else
    match a.record with
    | none => if 9 ≤ a.kind then (s, .refused .range []) else (s.removeRecord a.kind a.key, .done [])
    | some none => (s, .refused .range [])
    | some (some r) => (s.writeRecord a.kind a.key r, .done [])

/-- R173: the parameters of PLAN READ. -/
def parsePlanRead : Parse (Nat × Nat) := do
  let kind ← u8
  let key ← u16
  if 12 < kind ∧ kind ≠ 255 then undecodable else pure (kind, key)

/-- R17: the plan summary. -/
def State.summary (s : State) : List Byte :=
  let p := s.plan
  flagByte s.pm.valid ++ one (if s.pm.store.isSome then 0 else 1) ++ one (if s.pm.saving then 1 else 0) ++
  one p.sections.rows.length ++ one p.points.rows.length ++ one p.signals.rows.length ++ two p.routes.rows.length ++
  one p.roads.rows.length ++ one p.triggers.rows.length ++ one p.demos.rows.length ++ one p.buttons.rows.length ++
  one p.boards.rows.length

/-- R17: PLAN READ. -/
def ownPlanRead (s : State) (_station : Nat) (a : Nat × Nat) : State × Answer :=
  if a.1 = 255 then if a.2 = 0 then (s, .done s.summary) else (s, .refused .range [])
  else if !keyInRange a.1 a.2 then (s, .refused .range [])
  else
    match s.plan.lookup a.1 a.2 with
    | none => (s, .refused .noSuch [])
    | some r => (s, .done r.bytes)

/-- R18: PLAN CLEAR. -/
def ownPlanClear (s : State) (station : Nat) (_ : Unit) : State × Answer :=
  if station ≠ 0 then (s, .refused .notPermitted [])
  else if s.mc.mode ≠ .setup then (s, .refused .badMode [])
  else if s.pm.saving then (s, .refused .busy [])
  else (s.replacePlan {}, .done [])

/-- R21: PLAN SAVE. The store's check is invalid while the save runs. -/
def ownPlanSave (s : State) (station : Nat) (_ : Unit) : State × Answer :=
  if station ≠ 0 then (s, .refused .notPermitted [])
  else if !s.pm.valid then (s, .refused .planInvalid [])
  else if s.pm.saving then (s, .refused .busy [])
  else ({ s with pm := { s.pm with saving := true, store := none } }, .accepted [])

/-- R21: the end of a save; the tables have not changed since it was accepted. -/
def State.saveEnds (s : State) (matched : Bool) : State :=
  if !s.pm.saving then s
  else if matched then
    ({ s with pm := { s.pm with saving := false, store := some s.plan } } : State).notice .planSaved 0
  else ({ s with pm := { s.pm with saving := false, store := none } } : State).notice .planSaveFailed 0

/-- R22: PLAN LOAD. -/
def ownPlanLoad (s : State) (station : Nat) (_ : Unit) : State × Answer :=
  if station ≠ 0 then (s, .refused .notPermitted [])
  else if s.mc.mode ≠ .setup then (s, .refused .badMode [])
  else if s.pm.saving then (s, .refused .busy [])
  else
    match s.pm.store with
    | none => (s, .refused .noSuch [])
    | some p => (s.replacePlan p, .done [])

/-- PLAN CLEAR (R18). -/
def execPlanClear (f : Frame) (s : State) : Host.Outcome State Fault Refusal :=
  .next (s.takeRequest 0x10 f noParams ownPlanClear)
/-- PLAN WRITE (R15). -/
def execPlanWrite (f : Frame) (s : State) : Host.Outcome State Fault Refusal :=
  .next (s.takeRequest 0x11 f parsePlanWrite ownPlanWrite)
/-- PLAN READ (R17). -/
def execPlanRead (f : Frame) (s : State) : Host.Outcome State Fault Refusal :=
  .next (s.takeQuery 0x12 f parsePlanRead ownPlanRead)
/-- PLAN SAVE (R21). -/
def execPlanSave (f : Frame) (s : State) : Host.Outcome State Fault Refusal :=
  .next (s.takeQuery 0x14 f noParams ownPlanSave)
/-- The end of a save (R21). -/
def execSaveEnd (matched : Bool) (s : State) : Host.Outcome State Fault Refusal := .next (s.saveEnds matched)
/-- PLAN LOAD (R22). -/
def execPlanLoad (f : Frame) (s : State) : Host.Outcome State Fault Refusal :=
  .next (s.takeRequest 0x15 f noParams ownPlanLoad)

end Sys2Proof.Machine
end

