-- ==== Sys2Proof/Machine/PlanCheck.lean ====
section
/-! DEFINITION. PLAN CHECK: the check items of R20 in the order of examination of R19. -/
namespace Sys2Proof.Machine

/-- R19: one record to examine: its kind and key, the input and output bits it names (codes 3 and 4), and its other check
items in the order of their codes, each with whether it fails. -/
structure Exam where
  kind : Nat
  key : Nat
  ins : List Nat
  outs : List Nat
  items : List (Nat × Bool)
deriving DecidableEq, Repr

/-- R20: codes 3 and 4: a bit not below the chain length, or named by a record examined earlier (log entry 27). -/
def badBit (length : Nat) (used bits : List Nat) : Bool :=
  bits.any (fun b => decide (length ≤ b) || used.contains b)

/-- R19, R20: the first check item of a record that fails. -/
def Exam.fault (dev : DeviceRec) (usedIn usedOut : List Nat) (e : Exam) : Option Nat :=
  if badBit dev.inputLength usedIn e.ins then some 3
  else if badBit dev.outputLength usedOut e.outs then some 4
  else (e.items.find? (fun x => x.2)).map Prod.fst

/-- R19: the first failure among the records in order: code, kind and key. -/
def firstFault (dev : DeviceRec) : List Nat → List Nat → List Exam → Option (Nat × Nat × Nat)
  | _, _, [] => none
  | usedIn, usedOut, e :: t =>
    match e.fault dev usedIn usedOut with
    | some c => some (c, e.kind, e.key)
    | none => firstFault dev (usedIn ++ e.ins) (usedOut ++ e.outs) t

/-! ### Sections -/

/-- R3: the side on which an entry's reciprocal stands. -/
def returnSide (d : Dir) (flip : Bool) : Dir := if flip then d else d.opp

/-- R2, R3: the entries of a section record, each with its side. -/
def SectionRec.sided (r : SectionRec) : List (Dir × Succ) :=
  r.east.map (fun e => (Dir.east, e)) ++ r.west.map (fun e => (Dir.west, e))

/-- R20 code 5. -/
def Plan.linkTargetFails (p : Plan) (x : Nat) (r : SectionRec) : Bool :=
  r.sided.any (fun e =>
    (p.sections.get? e.2.target).isNone || decide (e.2.target = x) || p.isBridge e.2.target) ||
  (decide (r.kind = .bridge) && !r.sided.isEmpty) ||
  (decide (r.kind = .road) && p.roads.rows.any (fun q =>
    decide (q.2.sect = x) && r.sided.any (fun e => decide (e.1 = q.2.bridgeSide))))

/-- R3: two entries of one side are conditioned on one point with opposite positions. -/
def opposedPair : List Succ → Bool
  | [a, b] =>
    match a.cond, b.cond with
    | some (p, x), some (q, y) => decide (p = q ∧ x ≠ y)
    | _, _ => false
  | _ => true

/-- R20 code 6. -/
def Plan.linkConditionFails (p : Plan) (x : Nat) (r : SectionRec) : Bool :=
  r.sided.any (fun e =>
    match e.2.cond with
    | none => false
    | some (q, _) =>
      match p.points.get? q with
      | none => true
      | some pt => !decide (pt.sect = x)) ||
  !opposedPair r.east || !opposedPair r.west

/-- R20 code 7: a join has no reciprocal join (R3). -/
def Plan.linkReturnFails (p : Plan) (x : Nat) (r : SectionRec) : Bool :=
  r.sided.any (fun e =>
    !(p.entries e.2.target (returnSide e.1 e.2.flip)).any (fun b => decide (b.target = x ∧ b.flip = e.2.flip)))

/-- R20 code 8. -/
def Plan.boardLinkFails (p : Plan) (x : Nat) (r : SectionRec) : Bool :=
  !decide (r.board = 0) &&
  (!decide (r.kind = .platform) ||
   (match p.boards.get? r.board with
    | none => true
    | some b => !b.sections.contains x))

/-- R19, R20: a section record. -/
def Plan.examSection (p : Plan) (x : Nat) (r : SectionRec) : Exam :=
  { kind := 0, key := x, ins := [r.detector], outs := [],
    items := [(5, p.linkTargetFails x r), (6, p.linkConditionFails x r), (7, p.linkReturnFails x r),
      (8, p.boardLinkFails x r),
      (19, decide (r.kind = .road) && !p.roads.rows.any (fun q => decide (q.2.sect = x)))] }

/-! ### Points and signals -/

/-- R19, R20: a point record. -/
def Plan.examPoint (p : Plan) (x : Nat) (r : PointRec) : Exam :=
  { kind := 1, key := x, ins := [r.normalDetect, r.reverseDetect], outs := [r.normalDrive, r.reverseDrive],
    items := [(9, (p.sections.get? r.sect).isNone), (10, decide (r.throw ≤ r.pulse))] }

/-- R20 code 11. -/
def Plan.signalPlaceFails (p : Plan) (x : Nat) (r : SignalRec) : Bool :=
  (p.sections.get? r.sect).isNone ||
  (!decide (r.approach = 0) &&
    (match p.sections.get? r.approach with
     | none => true
     | some a => !a.sided.any (fun e => decide (e.2.target = r.sect)))) ||
  p.signals.rows.any (fun q => decide (q.1 < x ∧ q.2.sect = r.sect ∧ q.2.dir = r.dir))

/-- R20 code 12: the lamps do not match the kind (R6). -/
def SignalRec.lampsFail (r : SignalRec) : Bool :=
  match r.kind with
  | .main => !(r.caution.isSome && r.second.isSome && r.clear.isSome)
  | .shunt => r.caution.isSome || r.second.isSome || r.clear.isSome || r.subsidiary.isNone

/-- R19, R20: a signal record. -/
def Plan.examSignal (p : Plan) (x : Nat) (r : SignalRec) : Exam :=
  { kind := 2, key := x, ins := [], outs := r.lampBits,
    items := [(11, p.signalPlaceFails x r), (12, r.lampsFail)] }

/-! ### Routes -/

/-- R20 code 13. -/
def Plan.routeStartFails (p : Plan) (r : RouteRec) : Bool :=
  match p.signals.get? r.entry with
  | none => true
  | some g =>
    !decide (r.sections.head? = some g.sect) ||
    (match r.cls with
     | .main => !decide (g.kind = .main)
     | .shunt => decide (g.kind = .main) && g.subsidiary.isNone)

/-- R3, R4, R7: the alignment a route's path is checked against. With the turntable absent no bridge joins anything, so a
path over the bridge fails code 14 before code 17 (log entry 59). -/
def Plan.pathAlign (p : Plan) (r : RouteRec) : Option Nat :=
  if p.turntable.present then p.requiredAlign r else none

/-- R20 code 14: a condition the route's point settings meet. -/
def RouteRec.sets (r : RouteRec) (e : Succ) : Bool :=
  match e.cond with
  | none => true
  | some x => r.points.contains x

/-- R7, R20 code 14: the join by which a section follows another, with its reciprocal, both met by the settings. -/
def Plan.stepJoin (p : Plan) (r : RouteRec) (x : Nat) (d : Dir) (y : Nat) : Option Succ :=
  (p.joins (p.pathAlign r) x d).find? (fun e =>
    decide (e.target = y) && r.sets e &&
    (p.joins (p.pathAlign r) y (returnSide d e.flip)).any (fun b =>
      decide (b.target = x ∧ b.flip = e.flip) && r.sets b))

/-- R7: follow listed sections from a section and direction; the direction on arrival at the last, or none where one does
not follow. -/
def Plan.followPath (p : Plan) (r : RouteRec) : Nat → Dir → List Nat → Option (Nat × Dir)
  | x, d, [] => some (x, d)
  | x, d, y :: t =>
    match p.stepJoin r x d y with
    | none => none
    | some e => p.followPath r y (d.through e.flip) t

/-- R7: the last route section and the direction of travel there; none where the path does not hold. -/
def Plan.pathEnd (p : Plan) (r : RouteRec) : Option (Nat × Dir) :=
  match p.signals.get? r.entry, r.sections with
  | some g, x :: t => p.followPath r x g.dir t
  | _, _ => none

/-- R20 code 14. -/
def Plan.routePathFails (p : Plan) (r : RouteRec) : Bool := !decide r.reach.Nodup || (p.pathEnd r).isNone

/-- R20 code 15: a join that the route's settings do not contradict (log entry 39). -/
def RouteRec.allows (r : RouteRec) (e : Succ) : Bool :=
  match e.cond with
  | none => true
  | some (q, pos) => r.points.all (fun x => !decide (x.1 = q) || decide (x.2 = pos))

/-- R20 code 15: the exit signal admits to the section that follows the last route section in the direction of travel. A
route without a turntable requirement has no bridge join to follow (log entry 59). -/
def Plan.exitFollows (p : Plan) (r : RouteRec) (g : SignalRec) (x : Nat) (d : Dir) : Bool :=
  (p.joins (p.pathAlign r) x d).any (fun e =>
    decide (e.target = g.sect ∧ d.through e.flip = g.dir) && r.allows e)

/-- R20 code 15. -/
def Plan.routeEndFails (p : Plan) (r : RouteRec) : Bool :=
  if r.exit = 0 then !r.overlap.isEmpty
  else
    match p.signals.get? r.exit, p.pathEnd r with
    | some g, some (x, d) =>
      !p.exitFollows r g x d ||
      (!r.overlap.isEmpty &&
        (!decide (r.overlap.head? = some g.sect) || (p.followPath r x d r.overlap).isNone))
    | _, _ => true

/-- R20 code 16: a point lies in a route or overlap section. -/
def Plan.pointOnRoute (p : Plan) (r : RouteRec) (x : Nat) : Bool :=
  match p.points.get? x with
  | none => false
  | some q => r.reach.contains q.sect

/-- R20 code 16. -/
def Plan.routePointsFail (p : Plan) (r : RouteRec) : Bool :=
  r.settings.any (fun x => (p.points.get? x.1).isNone) || !decide (r.settings.map Prod.fst).Nodup ||
  r.points.any (fun x => !p.pointOnRoute r x.1) || r.flanks.any (fun x => p.pointOnRoute r x.1)

/-- R20 code 17. -/
def Plan.routeTurntableFails (p : Plan) (r : RouteRec) : Bool :=
  let crosses := r.reach.any p.isBridge
  match r.requirement with
  | none => crosses
  | some (road, _) => !p.turntable.present || (p.roads.get? road).isNone || !crosses

/-- R19, R20: a route record. -/
def Plan.examRoute (p : Plan) (x : Nat) (r : RouteRec) : Exam :=
  { kind := 3, key := x, ins := [], outs := [],
    items := [(13, p.routeStartFails r), (14, p.routePathFails r), (15, p.routeEndFails r), (16, p.routePointsFail r),
      (17, p.routeTurntableFails r)] }

/-! ### The turntable and its roads -/

/-- The sections of a kind. -/
def Plan.ofKind (p : Plan) (k : SectionKind) : List Nat :=
  (p.sections.rows.filter (fun r => decide (r.2.kind = k))).map Prod.fst

/-- R20 code 18. -/
def Plan.turntableFails (p : Plan) : Bool :=
  if p.turntable.present then !decide (p.ofKind .bridge = [p.turntable.bridge]) || p.roads.rows.isEmpty
  else !(p.ofKind .bridge).isEmpty || !(p.ofKind .road).isEmpty || !p.roads.rows.isEmpty

/-- R8, R19, R20: the turntable parameters; the bit fields are not read while it is absent. -/
def Plan.examTurntable (p : Plan) : Exam :=
  let t := p.turntable
  { kind := 9, key := 0, ins := if t.present then [t.indexBit, t.homeBit, t.lockBit] else [],
    outs := Record.outputs (.turntable t), items := [(18, p.turntableFails)] }

/-- R20 code 19, of a road record. -/
def Plan.roadFails (p : Plan) (x : Nat) (r : RoadRec) : Bool :=
  !decide ((p.sections.get? r.sect).map SectionRec.kind = some .road) ||
  p.roads.rows.any (fun q => decide (q.1 < x ∧ (q.2.index = r.index ∨ q.2.sect = r.sect)))

/-- R19, R20: a road record. -/
def Plan.examRoad (p : Plan) (x : Nat) (r : RoadRec) : Exam :=
  { kind := 4, key := x, ins := [], outs := [], items := [(19, p.roadFails x r)] }

/-! ### The operating tables -/

/-- R11: the route an action names. -/
def Action.route : Action → Option Nat
  | .requestRoute r => some r
  | .dwell _ r => some r
  | .setSpeed _ => none
  | .endDemo => none
  | .notice => none

/-- R20 code 20. -/
def Plan.triggerFails (p : Plan) (r : TriggerRec) : Bool :=
  (p.sections.get? r.sect).isNone || r.classes.isEmpty ||
  (match r.action.route with
   | none => false
   | some k => (p.routes.get? k).isNone)

/-- R19, R20: a trigger record. -/
def Plan.examTrigger (p : Plan) (x : Nat) (r : TriggerRec) : Exam :=
  { kind := 5, key := x, ins := [], outs := [], items := [(20, p.triggerFails r)] }

/-- R20 code 21. -/
def Plan.demoFails (p : Plan) (r : DemoRec) : Bool :=
  match r.kind with
  | .run k _ => (p.routes.get? k).isNone
  | .turn k _ => (p.roads.get? k).isNone || !p.turntable.present

/-- R19, R20: a demo record. -/
def Plan.examDemo (p : Plan) (x : Nat) (r : DemoRec) : Exam :=
  { kind := 6, key := x, ins := [], outs := [], items := [(21, p.demoFails r)] }

/-- R19, R20: a button record. -/
def Plan.examButton (p : Plan) (x : Nat) (r : ButtonRec) : Exam :=
  { kind := 7, key := x, ins := [r.input], outs := [r.lamp], items := [(22, (p.demos.get? r.demo).isNone)] }

/-- R13: a section is a PLATFORM that names a board. -/
def Plan.namesBoard (p : Plan) (board x : Nat) : Bool :=
  match p.sections.get? x with
  | none => false
  | some r => decide (r.kind = .platform ∧ r.board = board)

/-- R13, R20 code 23. That a listed section names the board in its own record is tested here (log entry 41). -/
def Plan.boardFails (p : Plan) (board : Nat) (r : BoardRec) : Bool :=
  !(r.sections.all (p.namesBoard board) && decide r.sections.Nodup)

/-- R19, R20: a board record. -/
def Plan.examBoard (p : Plan) (x : Nat) (r : BoardRec) : Exam :=
  { kind := 8, key := x, ins := [], outs := [], items := [(23, p.boardFails x r)] }

/-! ### The whole plan -/

/-- R20 code 1: two console lines hold the same non-zero function code. -/
def DeviceRec.consoleFails (d : DeviceRec) : Bool :=
  (!decide (d.console1 = 0) && (decide (d.console1 = d.console2) || decide (d.console1 = d.console3))) ||
  (!decide (d.console2 = 0) && decide (d.console2 = d.console3))

/-- R19: the order of examination after the device parameters and code 2. -/
def Plan.exams (p : Plan) : List Exam :=
  p.sections.rows.map (fun r => p.examSection r.1 r.2) ++ p.points.rows.map (fun r => p.examPoint r.1 r.2) ++
  p.signals.rows.map (fun r => p.examSignal r.1 r.2) ++ p.routes.rows.map (fun r => p.examRoute r.1 r.2) ++
  [p.examTurntable] ++ p.roads.rows.map (fun r => p.examRoad r.1 r.2) ++
  p.triggers.rows.map (fun r => p.examTrigger r.1 r.2) ++ p.demos.rows.map (fun r => p.examDemo r.1 r.2) ++
  p.buttons.rows.map (fun r => p.examButton r.1 r.2) ++ p.boards.rows.map (fun r => p.examBoard r.1 r.2)

/-- R19, R20: the first failure of a plan: check code, record kind and key; none when it passes. -/
def Plan.check (p : Plan) : Option (Nat × Nat × Nat) :=
  if p.device.consoleFails then some (1, 12, 0)
  else if p.sections.rows.isEmpty then some (2, 0, 0)
  else firstFault p.device [] [] p.exams

/-- R19: PLAN CHECK. -/
def ownPlanCheck (s : State) (station : Nat) (_ : Unit) : State × Answer :=
  if station ≠ 0 then (s, .refused .notPermitted [])
  else
    match s.plan.check with
    | none => ({ s with pm := { s.pm with valid := true } }, .done [])
    | some (c, kind, key) =>
      ({ s with pm := { s.pm with valid := false } }, .refused .planInvalid ([byte c, byte kind] ++ two key))

/-- PLAN CHECK (R19, R20). -/
def execPlanCheck (f : Frame) (s : State) : Host.Outcome State Fault Refusal :=
  .next (s.takeQuery 0x13 f noParams ownPlanCheck)

end Sys2Proof.Machine
end

