-- ==== Sys2Proof/Machine/Dispatch.lean ====
section
/-! DEFINITION. Every command to its meaning. -/
namespace Sys2Proof.Machine

/-- The effect of a command on everything but the queue. -/
def exec (i : Instr) (s : State) : Host.Outcome State Fault Refusal :=
  match i with
  | .powerUp => Sys2Proof.Machine.execPowerUp s
  | .resetPin => Sys2Proof.Machine.execResetPin s
  | .planClear f => Sys2Proof.Machine.execPlanClear f s
  | .planWrite f => Sys2Proof.Machine.execPlanWrite f s
  | .planRead f => Sys2Proof.Machine.execPlanRead f s
  | .planCheck f => Sys2Proof.Machine.execPlanCheck f s
  | .planSave f => Sys2Proof.Machine.execPlanSave f s
  | .saveEnd matched => Sys2Proof.Machine.execSaveEnd matched s
  | .planLoad f => Sys2Proof.Machine.execPlanLoad f s
  | .goRun f => Sys2Proof.Machine.execGoRun f s
  | .goQuiet f => Sys2Proof.Machine.execGoQuiet f s
  | .stopAll f => Sys2Proof.Machine.execStopAll f s
  | .resume f => Sys2Proof.Machine.execResume f s
  | .resetLayout f => Sys2Proof.Machine.execResetLayout f s
  | .enterTrain f => Sys2Proof.Machine.execEnterTrain f s
  | .retireTrain f => Sys2Proof.Machine.execRetireTrain f s
  | .acquireTrain f => Sys2Proof.Machine.execAcquireTrain f s
  | .releaseTrain f => Sys2Proof.Machine.execReleaseTrain f s
  | .setSpeed f => Sys2Proof.Machine.execSetSpeed f s
  | .reverseTrain f => Sys2Proof.Machine.execReverseTrain f s
  | .hold f => Sys2Proof.Machine.execHold f s
  | .unhold f => Sys2Proof.Machine.execUnhold f s
  | .setAuto f => Sys2Proof.Machine.execSetAuto f s
  | .keepAlive f => Sys2Proof.Machine.execKeepAlive f s
  | .seekTrain f => Sys2Proof.Machine.execSeekTrain f s
  | .readTrainField f => Sys2Proof.Machine.execReadTrainField f s
  | .readTrainRecord f => Sys2Proof.Machine.execReadTrainRecord f s
  | .keepAliveExpiry cab order => Sys2Proof.Machine.execKeepAliveExpiry cab order s
  | .setRoute f => Sys2Proof.Machine.execSetRoute f s
  | .cancelRoute f => Sys2Proof.Machine.execCancelRoute f s
  | .approachTimerExpiry slot order => Sys2Proof.Machine.execApproachTimerExpiry slot order s
  | .pointTest f => Sys2Proof.Machine.execPointTest f s
  | .readRoute f => Sys2Proof.Machine.execReadRoute f s
  | .readSection f => Sys2Proof.Machine.execReadSection f s
  | .readPoint f => Sys2Proof.Machine.execReadPoint f s
  | .readSignal f => Sys2Proof.Machine.execReadSignal f s
  | .clearFault f => Sys2Proof.Machine.execClearFault f s
  | .pulseExpiry point => Sys2Proof.Machine.execPulseExpiry point s
  | .throwTimeout point order => Sys2Proof.Machine.execThrowTimeout point order s
  | .homeTurntable f => Sys2Proof.Machine.execHomeTurntable f s
  | .turn f => Sys2Proof.Machine.execTurn f s
  | .withdrawTurn f => Sys2Proof.Machine.execWithdrawTurn f s
  | .readTurntable f => Sys2Proof.Machine.execReadTurntable f s
  | .turntableTimerExpiry order => Sys2Proof.Machine.execTurntableTimerExpiry order s
  | .startDemo f => Sys2Proof.Machine.execStartDemo f s
  | .stopDemo f => Sys2Proof.Machine.execStopDemo f s
  | .readBoard f => Sys2Proof.Machine.execReadBoard f s
  | .readPanel f => Sys2Proof.Machine.execReadPanel f s
  | .demoTimeout order => Sys2Proof.Machine.execDemoTimeout order s
  | .dwellEnd slot order => Sys2Proof.Machine.execDwellEnd slot order s
  | .cooldownExpiry panel => Sys2Proof.Machine.execCooldownExpiry panel s
  | .clearStatus f => Sys2Proof.Machine.execClearStatus f s
  | .setNoticeMask f => Sys2Proof.Machine.execSetNoticeMask f s
  | .identify f => Sys2Proof.Machine.execIdentify f s
  | .fetchReply clocked => Sys2Proof.Machine.execFetchReply clocked s
  | .fetchNotice stage => Sys2Proof.Machine.execFetchNotice stage s
  | .layoutTick lines order => Sys2Proof.Machine.execLayoutTick lines order s
  | .scanCompletion fdi order => Sys2Proof.Machine.execScanCompletion fdi order s
  | .orderCompletion => Sys2Proof.Machine.execOrderCompletion s
  | .unknownRequest code f => Sys2Proof.Machine.execUnknownRequest code f s

end Sys2Proof.Machine
end

