-- ==== Sys2Proof/Safety.lean ====
section
/-! DEFINITION. What a safe J240 keeps between commands: the laws the manual states, and the words the statements use for a
request frame, a quiet machine and what the end of an event may still change. -/
namespace Sys2Proof.Machine

/-! ### Requests as the host sends them -/

/-- The row's request code and the frame of a command that is a REQUEST frame of a named request (R172). -/
def requestOf : Instr → Option (Nat × Frame)
  | .planClear f => some (0x10, f)
  | .planWrite f => some (0x11, f)
  | .planRead f => some (0x12, f)
  | .planCheck f => some (0x13, f)
  | .planSave f => some (0x14, f)
  | .planLoad f => some (0x15, f)
  | .goRun f => some (0x20, f)
  | .goQuiet f => some (0x21, f)
  | .stopAll f => some (0x22, f)
  | .resume f => some (0x23, f)
  | .resetLayout f => some (0x24, f)
  | .enterTrain f => some (0x30, f)
  | .retireTrain f => some (0x31, f)
  | .acquireTrain f => some (0x32, f)
  | .releaseTrain f => some (0x33, f)
  | .setSpeed f => some (0x34, f)
  | .reverseTrain f => some (0x35, f)
  | .hold f => some (0x36, f)
  | .unhold f => some (0x37, f)
  | .setAuto f => some (0x38, f)
  | .keepAlive f => some (0x39, f)
  | .seekTrain f => some (0x3A, f)
  | .readTrainField f => some (0x3B, f)
  | .readTrainRecord f => some (0x3C, f)
  | .setRoute f => some (0x40, f)
  | .cancelRoute f => some (0x41, f)
  | .pointTest f => some (0x42, f)
  | .readRoute f => some (0x43, f)
  | .readSection f => some (0x44, f)
  | .readPoint f => some (0x45, f)
  | .readSignal f => some (0x46, f)
  | .clearFault f => some (0x47, f)
  | .homeTurntable f => some (0x50, f)
  | .turn f => some (0x51, f)
  | .withdrawTurn f => some (0x52, f)
  | .readTurntable f => some (0x53, f)
  | .startDemo f => some (0x60, f)
  | .stopDemo f => some (0x61, f)
  | .readBoard f => some (0x62, f)
  | .readPanel f => some (0x63, f)
  | .clearStatus f => some (0x70, f)
  | .setNoticeMask f => some (0x71, f)
  | .identify f => some (0x72, f)
  | .powerUp | .resetPin | .saveEnd _ | .keepAliveExpiry _ _ | .approachTimerExpiry _ _ | .pulseExpiry _ => none
  | .throwTimeout _ _ | .turntableTimerExpiry _ | .demoTimeout _ | .dwellEnd _ _ | .cooldownExpiry _ => none
  | .fetchReply _ | .fetchNotice _ | .layoutTick _ _ | .scanCompletion _ _ | .orderCompletion => none
  | .unknownRequest _ _ => none

/-- The codes of the requests that carry no parameters (R172, R173). -/
def bareRequests : List Nat :=
  [0x10, 0x13, 0x14, 0x15, 0x20, 0x21, 0x22, 0x23, 0x24, 0x39, 0x3C, 0x50, 0x53, 0x70, 0x72]

/-- R163, R172: a frame that passes the link's tests 2 and 3: it comes from station 0 to 24, carries these parameter
bytes with their check, and has been clocked through it. -/
structure Carries (f : Frame) (code station : Nat) (params : List Byte) : Prop where
  carried : f.params = params
  sender : f.station.toNat = station
  cab : station ≤ 24
  length : params.length ≤ 64
  check : f.check = frameCheck (frameBytes f code)
  clocked : 6 + params.length ≤ f.clocked

/-- R163: the reply holder is EMPTY, so that a frame is taken. -/
def State.listening (s : State) : Prop := s.clp.holder = none

/-- R54, R163: the state after a request's own event: a cab that still holds a train has its countdown restarted, and the
answer is held. -/
def State.answeredWith (w : State) (f : Frame) (code : Nat) (a : Answer) : State :=
  (w.reportStation f.station.toNat).hold code a

/-- R54, R163, R171, R172: the state after a request that changed nothing but its reply: the status byte and zeros were
sent, and the answer is held. -/
def State.replied (s : State) (f : Frame) (code : Nat) (a : Answer) : State := (s.openFrame f).answeredWith f code a

/-- R173: a number of two bytes, high byte first. -/
def pair (hi lo : Byte) : Nat := hi.toNat * 256 + lo.toNat

/-- R44: a reference from a station names the train in a slot: by its number from the supervisor, by a handle from a
cab. -/
def State.names (s : State) (station ref slot : Nat) (x : Train) : Prop :=
  s.train? slot = some x ∧ slot ≠ 0 ∧
    ((station = 0 ∧ 1 ≤ ref ∧ ref ≤ 9999 ∧ x.number = ref) ∨
      (station ≠ 0 ∧ 1 ≤ ref ∧ ref ≤ 3 ∧ (s.handles station).get ref = slot))

/-- R44: why a reference from a station is refused. -/
def State.badRef (s : State) (station ref : Nat) (r : Reason) : Prop :=
  (station = 0 ∧ (ref = 0 ∨ 9999 < ref) ∧ r = .range) ∨
  (station = 0 ∧ 1 ≤ ref ∧ ref ≤ 9999 ∧ (∀ slot x, s.train? slot = some x → x.number ≠ ref) ∧ r = .noSuch) ∨
  (station ≠ 0 ∧ (ref = 0 ∨ 3 < ref) ∧ r = .range) ∨
  (station ≠ 0 ∧ 1 ≤ ref ∧ ref ≤ 3 ∧ (s.handles station).get ref = 0 ∧ r = .noSuch)

/-- R52: the slots a selector from a station names: ONE (0), CAB (1) or ALL (2). -/
def State.selects (s : State) (station form ref : Nat) (p : Nat → Bool) : Prop :=
  (form = 0 ∧ ∃ slot x, s.names station ref slot x ∧ ∀ k, p k = decide (k = slot)) ∨
  (form = 1 ∧ 1 ≤ ref ∧ ref ≤ 24 ∧ (station = 0 ∨ station = ref) ∧
    ∀ k, p k = decide (k = (s.handles ref).h1 ∨ k = (s.handles ref).h2 ∨ k = (s.handles ref).h3)) ∨
  (form = 2 ∧ station = 0 ∧ ∀ k, p k = true)

/-- R52: why a selector from a station is refused. -/
def State.badSelector (s : State) (station form ref : Nat) (r : Reason) : Prop :=
  (form = 0 ∧ s.badRef station ref r) ∨
  (form = 1 ∧ station = 0 ∧ (ref = 0 ∨ 24 < ref) ∧ r = .range) ∨
  (form = 1 ∧ station ≠ 0 ∧ ref ≠ station ∧ r = .notPermitted) ∨
  (form = 2 ∧ station ≠ 0 ∧ r = .notPermitted) ∨
  (2 < form ∧ r = .range)

/-- R43, R54: the handle tables and keep-alives once a train has left the handle at which its owner held it. -/
def HandleFreed (s : State) (o : Owner) (handles : Tab Handles) (keepAlive : Tab KeepAlive) : Prop :=
  match o with
  | .cab c h =>
    (∀ j, Tab.getD {} handles j = if j = c then (s.handles c).set h 0 else s.handles j) ∧
    ∀ j, Tab.getD .absent keepAlive j =
      if j = c ∧ (s.handles c).set h 0 = {} then .absent else s.keepAliveOf j
  | _ => handles = s.tr.handles ∧ keepAlive = s.tr.keepAlive

/-! ### Routes (R82, R83, R100) -/

/-- R44, R82, R132: the train number that a reference of a SET ROUTE or TURN stands for; 0 names no train. -/
def State.asksFor (s : State) (station ref : Nat) (train : Option Nat) : Prop :=
  (ref = 0 ∧ train = none) ∨ (ref ≠ 0 ∧ station = 0 ∧ train = some ref) ∨
    (ref ≠ 0 ∧ station ≠ 0 ∧ ∃ slot x, s.names station ref slot x ∧ train = some x.number)

/-- R83 check 4: a section that no route may take. -/
def State.bars (s : State) (sec : Nat) : Prop :=
  s.mark sec ≠ .free ∨ s.occupied sec = true ∨ s.inSpan sec = true ∨ s.stray sec = true

/-- R83 check 5: a setting whose point is neither placed nor movable. -/
def State.stuck (s : State) (x : Nat × Pos) : Prop :=
  ¬(((s.point x.1).state = x.2.settled ∧ ((s.point x.1).locks = 0 ∨ (s.point x.1).demand = some x.2)) ∨
    (∃ r, s.plan.points.get? x.1 = some r ∧ (s.point x.1).locks = 0 ∧ (s.point x.1).fault = false ∧ ¬s.bars r.sect))

/-- R83: a route check that fails for a route and the train named, with the item that fails it. -/
def State.failsCheck (s : State) (route : Nat) (train : Option Nat) : Nat → Nat → Prop
  | 1, i => i = 0 ∧ s.plan.routes.get? route = none
  | 2, i => i = 0 ∧ ∃ n, train = some n ∧ ∀ k x, s.train? k = some x → x.number ≠ n
  | 3, i => ∃ d r e, s.plan.routes.get? route = some d ∧ s.route? i = some r ∧ s.routeRec r = some e ∧ e.entry = d.entry
  | 4, i => ∃ d pre post, s.plan.routes.get? route = some d ∧ d.sections ++ d.overlap = pre ++ i :: post ∧ s.bars i ∧
      ∀ y ∈ pre, ¬s.bars y
  | 5, i => ∃ d pre q post, s.plan.routes.get? route = some d ∧ d.points ++ d.flanks = pre ++ (i, q) :: post ∧
      s.stuck (i, q) ∧ ∀ y ∈ pre, ¬s.stuck y
  | 6, i => ∃ d e, s.plan.routes.get? route = some d ∧ d.requirement = some (i, e) ∧
      ¬∃ x, s.plan.roads.get? i = some x ∧ s.tc.state = .locked ∧
        s.tc.pos = some (match e with | .a => x.index | .b => (x.index + 24) % 48)
  | 7, i => i = 0 ∧ ∀ k, 1 ≤ k → k ≤ 32 → s.route? k ≠ none
  | _, _ => False

/-- R100: what is left when the route in a slot leaves the table while all its sections are RESERVED: its marks are gone
and each of its points has one lock less. -/
def State.GivesUp (s : State) (slot : Nat) (d : RouteRec) (marks : Tab Mark) (points : Tab Point) : Prop :=
  (∀ x, Tab.getD .free marks x = if (s.mark x).slot = some slot then .free else s.mark x) ∧
  ∀ p, Tab.getD {} points p =
    if p ∈ (d.points ++ d.flanks).map Prod.fst then
      { s.point p with
        locks := (s.point p).locks - 1, demand := if (s.point p).locks ≤ 1 then none else (s.point p).demand }
    else s.point p

/-- R86, R100: the state when the route in a slot has left the table with a notice. -/
def State.withoutRoute (s : State) (slot : Nat) (marks : Tab Mark) (points : Tab Point) (c : Cause)
    (subject detail : Nat) : State :=
  { s with
    iu := { s.iu with routes := s.iu.routes.erase slot, marks := marks, points := points },
    tr := { s.tr with trains := ⟨s.tr.trains.rows.map (fun r =>
      (r.1, if r.2.route = some slot then { r.2 with route := none } else r.2))⟩ },
    clp := s.clp.record c subject detail }

/-! ### The turntable (R133, R136) -/

/-- R133: a turn request for these trains (none for a plain alignment) is eligible: the bridge is unreserved and not
stray, and lies in no span but that of the train named, which stands on it alone, at grade 0, ACTIVE or HELD. -/
structure State.mayTurn (s : State) (train : Option Nat) : Prop where
  free : s.mark s.plan.turntable.bridge = .free
  clean : s.stray s.plan.turntable.bridge = false
  alone : ∀ k x, s.train? k = some x → s.plan.turntable.bridge ∈ x.span → train = some x.number
  stands : ∀ n, train = some n → ∃ k x, s.train? k = some x ∧ x.number = n ∧ x.span = [s.plan.turntable.bridge] ∧
    x.granted = 0 ∧ (x.state = .active ∨ x.state = .held)

/-- R136: end A after a number of steps in a direction. -/
def turned (d : Turning) : Nat → Nat → Nat
  | 0, p => p
  | n + 1, p => stepFrom (turned d n p) d

/-- R136: a path of `n` steps from `p` never carries end A across the boundary between `z` and `z + 1`. -/
def clearPath (z : Option Nat) (d : Turning) (n p : Nat) : Prop :=
  ∀ b, z = some b → ∀ i, i < n →
    turned d i p ≠ (match d with
      | .clockwise => b
      | .anticlockwise => (b + 1) % 48)

/-- R136: a way to do what a request for the road at `q` asks: an end it allows, a direction and a number of steps. -/
def wayTo (q : Nat) (e : EndChoice) (z : Option Nat) (p : Nat) (x : End) (d : Turning) (n : Nat) : Prop :=
  (e = .either ∨ (e = .a ∧ x = .a) ∨ (e = .b ∧ x = .b)) ∧
    turned d n p = (match x with
      | .a => q
      | .b => (q + 24) % 48) ∧
    clearPath z d n p

/-! ### Plan records within their ranges (R2 to R16) -/

/-- R2: a successor entry within its ranges. -/
def Succ.ranged (e : Succ) : Prop := 1 ≤ e.target ∧ e.target ≤ 240 ∧ ∀ c, e.cond = some c → 1 ≤ c.1 ∧ c.1 ≤ 120

/-- An optional bit number within its range. -/
def bitRanged (o : Option Nat) : Prop := ∀ b, o = some b → b ≤ 511

/-- R11: an action's operands within their ranges. -/
def Action.ranged : Action → Prop
  | .requestRoute r => 1 ≤ r ∧ r ≤ 400
  | .dwell n r => 1 ≤ n ∧ n ≤ 1200 ∧ 1 ≤ r ∧ r ≤ 400
  | .setSpeed g => g ≤ 63
  | .endDemo => True
  | .notice => True

/-- R12: a demo's fields within their ranges. -/
def DemoKind.ranged : DemoKind → Prop
  | .run r g => 1 ≤ r ∧ r ≤ 400 ∧ 1 ≤ g ∧ g ≤ 63
  | .turn road _ => 1 ≤ road ∧ road ≤ 20

/-- R2 to R16: a record of a kind that a PLAN WRITE can store: every field within its range, a class filter's classes in
the order of R9. -/
def Record.ranged : Nat → Record → Prop
  | 0, .sect r =>
    1 ≤ r.length ∧ r.length ≤ 4095 ∧ r.detector ≤ 511 ∧ 1 ≤ r.limit ∧ r.limit ≤ 63 ∧ r.east.length ≤ 2 ∧
      r.west.length ≤ 2 ∧ (∀ e ∈ r.east ++ r.west, e.ranged) ∧ r.board ≤ 8
  | 1, .point r =>
    1 ≤ r.sect ∧ r.sect ≤ 240 ∧ r.normalDrive ≤ 511 ∧ r.reverseDrive ≤ 511 ∧ r.normalDetect ≤ 511 ∧
      r.reverseDetect ≤ 511 ∧ 1 ≤ r.pulse ∧ r.pulse ≤ 10 ∧ 2 ≤ r.throw ∧ r.throw ≤ 50 ∧ 1 ≤ r.reverseLimit ∧
      r.reverseLimit ≤ 63
  | 2, .signal r =>
    1 ≤ r.sect ∧ r.sect ≤ 240 ∧ r.approach ≤ 240 ∧ r.stop ≤ 511 ∧ bitRanged r.caution ∧ bitRanged r.second ∧
      bitRanged r.clear ∧ bitRanged r.subsidiary ∧
      (r.kind = .shunt → r.caution = none ∧ r.second = none ∧ r.clear = none)
  | 3, .route r =>
    1 ≤ r.entry ∧ r.entry ≤ 160 ∧ r.exit ≤ 160 ∧ r.sections.length ≤ 12 ∧ r.points.length ≤ 10 ∧
      r.flanks.length ≤ 6 ∧ r.overlap.length ≤ 2 ∧ (∀ x ∈ r.sections ++ r.overlap, 1 ≤ x ∧ x ≤ 240) ∧
      (∀ x ∈ r.points ++ r.flanks, 1 ≤ x.1 ∧ x.1 ≤ 120) ∧ ∀ q, r.requirement = some q → 1 ≤ q.1 ∧ q.1 ≤ 20
  | 4, .road r => r.index < 48 ∧ 1 ≤ r.sect ∧ r.sect ≤ 240
  | 5, .trigger r =>
    1 ≤ r.sect ∧ r.sect ≤ 240 ∧ r.classes = trainClasses.filter (fun c => r.classes.contains c) ∧ r.action.ranged
  | 6, .demo r => 1 ≤ r.train ∧ r.train ≤ 9999 ∧ 10 ≤ r.limit ∧ r.limit ≤ 600 ∧ r.kind.ranged
  | 7, .button r => r.input ≤ 511 ∧ r.lamp ≤ 511 ∧ 1 ≤ r.demo ∧ r.demo ≤ 16
  | 8, .board r => r.sections.length ≤ 3 ∧ ∀ x ∈ r.sections, 1 ≤ x ∧ x ≤ 240
  | 9, .turntable r =>
    1 ≤ r.bridge ∧ r.bridge ≤ 240 ∧ 1 ≤ r.stepTimeout ∧ r.stepTimeout ≤ 50 ∧ 1 ≤ r.lockTimeout ∧ r.lockTimeout ≤ 50 ∧
      (∀ z, r.stopSector = some z → z < 48) ∧ r.indexBit ≤ 511 ∧ r.homeBit ≤ 511 ∧ r.lockBit ≤ 511 ∧ r.cwBit ≤ 511 ∧
      r.acwBit ≤ 511 ∧ r.releaseBit ≤ 511
  | 10, .cls r => 1 ≤ r.maxGrade ∧ r.maxGrade ≤ 63 ∧ 1 ≤ r.accel ∧ r.accel ≤ 8 ∧ 1 ≤ r.braking ∧ r.braking ≤ 32
  | 11, .station r => r.floor ≤ 15 ∧ 1 ≤ r.keepAlive ∧ r.keepAlive ≤ 60
  | 12, .device r =>
    1 ≤ r.approachLock ∧ r.approachLock ≤ 120 ∧ 3 ≤ r.clearDebounce ∧ r.clearDebounce ≤ 15 ∧ 1 ≤ r.lowSpeed ∧
      r.lowSpeed ≤ 63 ∧ r.cooldown ≤ 255 ∧ r.console1 ≤ 5 ∧ r.console2 ≤ 5 ∧ r.console3 ≤ 5 ∧ 8 ≤ r.inputLength ∧
      r.inputLength ≤ 512 ∧ r.inputLength % 8 = 0 ∧ 8 ≤ r.outputLength ∧ r.outputLength ≤ 512 ∧ r.outputLength % 8 = 0
  | _, _ => False

/-! ### Routes of a checked plan (R7, R20) and output bits (R96) -/

/-- R4, R7: the position of end A that a route's turntable requirement names. -/
def Plan.alignedFor (p : Plan) (r : RouteRec) (align : Option Nat) : Prop :=
  (r.requirement = none ∧ align = none) ∨
    ∃ road q, (r.requirement = some (road, .a) ∧ p.roads.get? road = some q ∧ align = some q.index) ∨
      (r.requirement = some (road, .b) ∧ p.roads.get? road = some q ∧ align = some ((q.index + 24) % 48))

/-- R7, R20 code 14: section `y` follows section `x`, travelled in direction `d`, by a join that applies for the route's
point settings and has a reciprocal that does; it is travelled in direction `d'`. -/
def Plan.follows (p : Plan) (r : RouteRec) (align : Option Nat) (x : Nat) (d : Dir) (y : Nat) (d' : Dir) : Prop :=
  ∃ e ∈ p.joins align x d, e.target = y ∧ d' = (if e.flip = true then d.opp else d) ∧
    (∀ c, e.cond = some c → c ∈ r.points) ∧
    ∃ b ∈ p.joins align y d'.opp, b.target = x ∧ b.flip = e.flip ∧ ∀ c, b.cond = some c → c ∈ r.points

/-- R7, R20 code 14: listed sections follow a section one after the other; the last of them and the direction there. -/
def Plan.runsOn (p : Plan) (r : RouteRec) (align : Option Nat) : Nat → Dir → List Nat → Nat → Dir → Prop
  | x, d, [], z, f => z = x ∧ f = d
  | x, d, y :: rest, z, f => ∃ d', p.follows r align x d y d' ∧ p.runsOn r align y d' rest z f

/-- R20 code 3: the record of a kind at a key names an input bit; the turntable's are read while it is present (R8). -/
def Plan.namesInput (p : Plan) (kind key bit : Nat) : Prop :=
  (kind = 0 ∧ ∃ r, p.sections.get? key = some r ∧ bit = r.detector) ∨
    (kind = 1 ∧ ∃ r, p.points.get? key = some r ∧ (bit = r.normalDetect ∨ bit = r.reverseDetect)) ∨
    (kind = 7 ∧ ∃ r, p.buttons.get? key = some r ∧ bit = r.input) ∨
    (kind = 9 ∧ key = 0 ∧ p.turntable.present = true ∧
      (bit = p.turntable.indexBit ∨ bit = p.turntable.homeBit ∨ bit = p.turntable.lockBit))

/-- R20 code 4: the record of a kind at a key names an output bit; the turntable's are read while it is present (R8). -/
def Plan.namesOutput (p : Plan) (kind key bit : Nat) : Prop :=
  (kind = 1 ∧ ∃ r, p.points.get? key = some r ∧ (bit = r.normalDrive ∨ bit = r.reverseDrive)) ∨
    (kind = 2 ∧ ∃ r, p.signals.get? key = some r ∧ (bit = r.stop ∨ r.caution = some bit ∨ r.second = some bit ∨
      r.clear = some bit ∨ r.subsidiary = some bit)) ∨
    (kind = 7 ∧ ∃ r, p.buttons.get? key = some r ∧ bit = r.lamp) ∨
    (kind = 9 ∧ key = 0 ∧ p.turntable.present = true ∧
      (bit = p.turntable.cwBit ∨ bit = p.turntable.acwBit ∨ bit = p.turntable.releaseBit))

/-- Every output bit that a record of the plan names, once for each time it is named. -/
def Plan.outputBits (p : Plan) : List Nat :=
  p.points.rows.flatMap (fun r => [r.2.normalDrive, r.2.reverseDrive]) ++ p.signals.rows.flatMap (fun g => g.2.lampBits) ++
    p.buttons.rows.map (fun b => b.2.lamp) ++
    (if p.turntable.present then [p.turntable.cwBit, p.turntable.acwBit, p.turntable.releaseBit] else [])

/-- R96: the output bits of a signal's lamps, each with what its lamp record says of it. -/
def SignalRec.lit (g : SignalRec) (l : Lamps) : List (Nat × Bool) :=
  (g.stop, l.stop) :: [(g.caution, l.caution), (g.second, l.second), (g.clear, l.clear),
    (g.subsidiary, l.subsidiary)].filterMap (fun x => x.1.map (fun bit => (bit, x.2)))

/-! ### Aspects and depth (R93, R94) -/

/-- R93: an active route meets the proceed conditions but for the mode. -/
structure State.proves (s : State) (r : ActiveRoute) (d : RouteRec) : Prop where
  cleared : r.state = .cleared
  detected : ∀ p q, (p, q) ∈ d.points ++ d.flanks → (s.point p).state = q.settled
  empty : ∀ x ∈ d.sections ++ d.overlap, s.occupied x = false ∧ s.inSpan x = false ∧ s.stray x = false

/-- R94: the route in slot `b` counts at the exit signal of the one in slot `a`. -/
def State.runsInto (s : State) (a b : Nat) : Prop :=
  ∃ r d q e, s.route? a = some r ∧ s.routeRec r = some d ∧ s.route? b = some q ∧ s.routeRec q = some e ∧
    d.exit ≠ 0 ∧ e.entry = d.exit ∧ e.cls = .main ∧ s.working = true ∧ s.proves q e

/-- R94: the depth counted from the route in a slot. -/
def State.depthIs (s : State) (slot k : Nat) : Prop :=
  (k = 1 ∧ ∀ b, ¬s.runsInto slot b) ∨ (k = 2 ∧ ∃ b, s.runsInto slot b ∧ ∀ c, ¬s.runsInto b c) ∨
    (k = 3 ∧ ∃ b c, s.runsInto slot b ∧ s.runsInto b c)

/-! ### Authority and target (R60, R116 to R119) -/

/-- R60: a join applies as its condition point stands; one that is moving, undetected or failed admits both legs. -/
def State.lies (s : State) (e : Succ) : Prop :=
  (∀ p, e.cond = some (p, .normal) → (s.point p).state ≠ .reverse) ∧
    ∀ p, e.cond = some (p, .reverse) → (s.point p).state ≠ .normal

/-- R60: a section is one of a train's next sections, entered in a direction. Of two joins to it, that conditioned NORMAL
gives the direction. -/
def State.leadsTo (s : State) (x : Train) (sec : Nat) (d : Dir) : Prop :=
  x.state ≠ .lost ∧ ∃ e ∈ s.plan.joins s.align x.head x.dir, e.target = sec ∧ s.lies e ∧
    d = (if e.flip = true then x.dir.opp else x.dir) ∧
    ((∃ e' ∈ s.plan.joins s.align x.head x.dir, e'.target = sec ∧ s.lies e' ∧ ∃ p, e'.cond = some (p, .normal)) →
      ∃ p, e.cond = some (p, .normal))

/-- R63, R116: an active route, CLEARED or CANCELLING, holds its first section for a train that may enter it in the
direction of its entry signal. -/
def State.ahead (s : State) (k : Nat) (x : Train) (slot : Nat) : Prop :=
  ∃ r d g sec, s.route? slot = some r ∧ s.routeRec r = some d ∧ d.sections.head? = some sec ∧ s.mark sec = .route slot ∧
    s.plan.signals.get? d.entry = some g ∧ s.leadsTo x sec g.dir ∧ (r.state = .cleared ∨ r.state = .cancelling) ∧
    (r.train = none ∨ r.train = some k)

/-- R116: the start route of the train in slot `k`: its OCCUPIED current route, else the one route ahead of it. A LOST train
has none (log entry 54). -/
def State.startsOn (s : State) (k : Nat) (x : Train) (slot : Nat) : Prop :=
  x.state ≠ .lost ∧
    ((x.route = some slot ∧ ∃ r, s.route? slot = some r ∧ r.state = .occupied) ∨
      ((∀ j r, x.route = some j → s.route? j = some r → r.state ≠ .occupied) ∧ s.ahead k x slot ∧
        ∀ j, s.ahead k x j → j = slot))

/-- R117: where the walk begins in a route: at its first section while none is ENTERED, else at the first RESERVED one after
the last ENTERED one; `gap` lies between. -/
def walkBegins (all gap ahead : List (Nat × SectionMark)) : Prop :=
  (all = ahead ∧ gap = [] ∧ ∀ y ∈ all, y.2 ≠ .entered) ∨
    ∃ pre sec, all = pre ++ (sec, SectionMark.entered) :: (gap ++ ahead) ∧ (∀ y ∈ gap ++ ahead, y.2 ≠ .entered) ∧
      (∀ y ∈ gap, y.2 ≠ .reserved) ∧ ∀ y, ahead.head? = some y → y.2 = .reserved

/-- R117: the walk of the train in slot `k` takes a section of a route. -/
structure State.opens (s : State) (k : Nat) (d : RouteRec) (sec : Nat) (m : SectionMark) : Prop where
  reserved : m = .reserved
  clean : s.stray sec = false
  alone : ∀ j y, s.train? j = some y → sec ∈ y.span → j = k
  clear : s.occupied sec = true → ∃ x, s.train? k = some x ∧ sec ∈ x.span
  points : ∀ p q r, (p, q) ∈ d.points → s.plan.points.get? p = some r → r.sect = sec → (s.point p).state = q.settled

/-- R117: the walk takes sections of a route as the route stands. -/
def State.runs (s : State) (r : ActiveRoute) (d : RouteRec) : Prop :=
  (r.state = .cleared ∧ s.proves r d) ∨ (r.state = .occupied ∧ ∀ p q, (p, q) ∈ d.flanks → (s.point p).state = q.settled) ∨
    r.state = .cancelling

/-- R117: the sections of a route that the walk takes, and whether it goes on from its end. -/
def State.takes (s : State) (k : Nat) (r : ActiveRoute) (d : RouteRec) (took : List Nat) (through : Prop) : Prop :=
  (¬s.runs r d ∧ took = [] ∧ ¬through) ∨
    (s.runs r d ∧ ∃ gap run rest, walkBegins (d.sections.zip r.marks) gap (run ++ rest) ∧ took = run.map Prod.fst ∧
      (∀ y ∈ run, s.opens k d y.1 y.2) ∧
      (r.state = .cancelling → run.length ≤ 1) ∧
      (∀ y, rest.head? = some y → s.opens k d y.1 y.2 → r.state = .cancelling ∧ run ≠ []) ∧
      (through ↔ r.state ≠ .cancelling ∧ rest = [] ∧ (run = [] → gap = [])))

/-- R117: the walk from the route in a slot on, over at most `n` routes: what it takes, each section with its route. -/
def State.mayRun (s : State) (k : Nat) : Nat → Nat → List (Nat × Nat) → Prop
  | 0, _, l => l = []
  | n + 1, slot, l => ∃ r d took through more, s.route? slot = some r ∧ s.routeRec r = some d ∧
      s.takes k r d took through ∧ l = took.map (fun sec => (slot, sec)) ++ more ∧
      ((∃ next q e, through ∧ d.exit ≠ 0 ∧ s.route? next = some q ∧ s.routeRec q = some e ∧ e.entry = d.exit ∧
          s.proves q e ∧ (q.train = none ∨ q.train = some k) ∧ s.mayRun k n next more) ∨
        (more = [] ∧ ¬∃ next q e, through ∧ d.exit ≠ 0 ∧ s.route? next = some q ∧ s.routeRec q = some e ∧
          e.entry = d.exit ∧ s.proves q e ∧ (q.train = none ∨ q.train = some k)))

/-- R119: an emergency cause holds for the train in slot `k`. -/
def State.endangered (s : State) (k : Nat) (x : Train) : Prop :=
  s.working = false ∨ x.state = .lost ∨ x.overrun = true ∨ s.fs.chain = .fault ∨
    ∃ sec d, s.leadsTo x sec d ∧ (s.stray sec = true ∨ (∃ j y, s.train? j = some y ∧ sec ∈ y.span ∧ j ≠ k) ∨
      (s.occupied sec = true ∧ sec ∉ x.span))

/-- R118, R119: what lets the train in slot `k` run at a grade: no cause holds it, and the grade is within its requested
grade, its class, the limits of its span and of its authority, the low speed of a SHUNT route, and the braking its
authority gives room for. -/
structure State.allows (s : State) (k : Nat) (x : Train) (g : Nat) : Prop where
  safe : ¬s.endangered k x
  free : x.state = .active
  most : g ≤ 63
  requested : g ≤ x.requested
  cls : g ≤ (s.plan.classes.get x.cls).maxGrade
  span : ∀ sec r, sec ∈ x.span → s.plan.sections.get? sec = some r → g ≤ r.limit
  points : ∀ p r, s.plan.points.get? p = some r → r.sect ∈ x.span → (s.point p).state = .reverse → g ≤ r.reverseLimit
  shunt : ∀ slot r d, (s.startsOn k x slot ∨ x.route = some slot) → s.route? slot = some r → s.routeRec r = some d →
    d.cls = .shunt → g ≤ s.plan.device.lowSpeed
  authority : ∃ slot l, s.startsOn k x slot ∧ s.mayRun k 3 slot l ∧
    g * g ≤ 2 * (s.plan.classes.get x.cls).braking * min ((l.map (fun y => s.plan.lengthOf y.2)).sum) 65535 ∧
    (∀ j sec r, (j, sec) ∈ l → s.plan.sections.get? sec = some r → g ≤ r.limit) ∧
    ∀ j sec r d p q, (j, sec) ∈ l → s.route? j = some r → s.routeRec r = some d → (p, Pos.reverse) ∈ d.points →
      s.plan.points.get? p = some q → q.sect = sec → g ≤ q.reverseLimit

/-! ### Visitor boards (R153) -/

/-- R153: the RESERVED sections ahead on a train's routes, over at most `n` of them from the one in a slot, each with whether
its route is CLEARED or OCCUPIED and assigned to the train. A route that holds the train's head counts from its last ENTERED
section on, a chained one from its first (log entry 25). -/
def State.boardPath (s : State) (k : Nat) : Nat → Bool → Nat → List (Nat × Bool) → Prop
  | 0, _, _, l => l = []
  | n + 1, start, slot, l => ∃ r d own gap ahead more, s.route? slot = some r ∧ s.routeRec r = some d ∧
      (own = true ↔ r.train = some k ∧ (r.state = .cleared ∨ r.state = .occupied)) ∧
      (start = true → walkBegins (d.sections.zip r.marks) gap ahead) ∧
      (start = false → ahead = d.sections.zip r.marks) ∧
      l = (ahead.filter (fun x => decide (x.2 = .reserved))).map (fun x => (x.1, own)) ++ more ∧
      ((∃ next q e, d.exit ≠ 0 ∧ s.route? next = some q ∧ s.routeRec q = some e ∧ e.entry = d.exit ∧
          q.train = some k ∧ (q.state = .cleared ∨ q.state = .occupied) ∧ s.boardPath k n false next more) ∨
        (more = [] ∧ ¬∃ next q e, d.exit ≠ 0 ∧ s.route? next = some q ∧ s.routeRec q = some e ∧ e.entry = d.exit ∧
          q.train = some k ∧ (q.state = .cleared ∨ q.state = .occupied)))

/-- R153: the arrival time over a distance at a grade: the least number of seconds that covers it, at most 999. -/
def arrivesIn (distance grade t : Nat) : Prop :=
  t ≤ 999 ∧ (distance ≤ t * grade ∨ t = 999) ∧ ∀ m, m < t → m * grade < distance

/-- R153: the line that the train in slot `k` gives on a board with these platform sections. -/
def State.givesLine (s : State) (platforms : List Nat) (k : Nat) (x : Train) (l : BoardLine) : Prop :=
  l.number = x.number ∧
    ((x.head ∈ platforms ∧ l.status = .atPlatform ∧ l.sect = x.head ∧ l.time = none) ∨
      (x.head ∉ platforms ∧ ∃ slot path passed rest, s.startsOn k x slot ∧ s.boardPath k 3 true slot path ∧
        path = passed ++ (l.sect, true) :: rest ∧ l.sect ∈ platforms ∧
        (∀ y ∈ passed, y.2 = true → y.1 ∉ platforms) ∧
        ((x.granted = 0 ∧ l.status = .held ∧ l.time = none) ∨
          (0 < x.granted ∧ l.status = .approaching ∧ ∃ t, l.time = some t ∧
            arrivesIn (s.plan.lengthOf x.head / 2 + (passed.map (fun y => s.plan.lengthOf y.1)).sum) x.granted t))))

/-- R153: the place of a line's status on a board. -/
def BoardLine.rank (l : BoardLine) : Nat :=
  match l.status with
  | .atPlatform => 0
  | .approaching => 1
  | .held => 2

/-- R153: a line stands before another on a board, each with the slot of its train: by status, then by arrival time, then by
slot. -/
def standsBefore (a b : Nat × BoardLine) : Prop :=
  a.2.rank < b.2.rank ∨ (a.2.rank = b.2.rank ∧
    (a.2.time.getD 0 < b.2.time.getD 0 ∨ (a.2.time.getD 0 = b.2.time.getD 0 ∧ a.1 < b.1)))

/-! ### A quiet machine -/

/-- A retry scan would grant nothing (R110, R111): the layout does not work, or no route request waits. -/
def State.scanIdle (s : State) : Prop := s.working = false ∨ s.iu.stack = []

/-- A start attempt would start nothing (R150): outside RUN, with a demo running, or with no visitor waiting. -/
def State.attemptIdle (s : State) : Prop := s.mc.mode ≠ .run ∨ s.awu.running ≠ none ∨ s.awu.queue = []

/-- An arbitration would do nothing (R134, R135): the TC may not grant, or no request and no burst waits. -/
def State.turnIdle (s : State) : Prop :=
  s.free = false ∨ (s.tc.queue = [] ∧ s.tc.burst = none ∧ s.tc.stopEnd = false)

/-- Nothing is left to hand on, and a train whose grade falls concerns no turn request the TC could grant. -/
def State.Quiet (s : State) : Prop := s.due.settled = true ∧ (s.turnIdle ∨ s.tc.queue = [])

/-- Nothing is left to hand on, and whatever an event hands on finds nothing to do. -/
def State.Still (s : State) : Prop := s.due.settled = true ∧ s.scanIdle ∧ s.attemptIdle ∧ s.turnIdle

/-- What the end of a quiet event may still change (R95, R115, R121, R123, R149): granted grades fall, the Speed
Supervisor keeps its records and its port, signals and button lamps take their values. Everything else stays. -/
structure FollowUp (s t : State) : Prop where
  pm : t.pm = s.pm
  mc : t.mc = s.mc
  tc : t.tc = s.tc
  clp : t.clp = s.clp
  pending : t.pending = s.pending
  order : t.order = s.order
  linkOut : t.linkOut = s.linkOut
  freeCount : t.freeCount = s.freeCount
  fs : t.fs = { s.fs with image := t.fs.image }
  tr : t.tr = { s.tr with trains := t.tr.trains }
  iu : t.iu = { s.iu with signals := t.iu.signals }
  awu : t.awu = { s.awu with lamps := t.awu.lamps }
  present : ∀ slot x, s.train? slot = some x → ∃ g ≤ x.granted, t.train? slot = some { x with granted := g }
  absent : ∀ slot, s.train? slot = none → t.train? slot = none

/-- What the Speed Supervisor does at the end of a quiet event from `s` to `t` (R120, R123, R124): a train whose grade falls
to 0 with an emergency cause is marked; those whose grade falls join the urgent list, and so do those that `joins` names,
in slot order behind the trains it holds; and an idle port starts the broadcast, else the order of the first train on the
list. -/
structure SpeedFollowUp (joins : Nat → Prop) (s t : State) : Prop where
  marks : ∀ k x y, s.train? k = some x → t.train? k = some y →
    ((t.speed k).emergency = true ↔
      (s.speed k).emergency = true ∨ (y.granted < x.granted ∧ y.granted = 0 ∧ t.endangered k y))
  port : ∃ fresh : List Nat, fresh.Pairwise (· < ·) ∧
    (∀ k, k ∈ fresh ↔ k ∉ s.ss.urgent ∧
      (joins k ∨ ∃ x y, s.train? k = some x ∧ t.train? k = some y ∧ y.granted < x.granted)) ∧
    (s.ss.port ≠ none → t.ss.port = s.ss.port ∧ t.ss.broadcast = s.ss.broadcast ∧ t.ss.refresh = s.ss.refresh ∧
      t.ss.urgent = s.ss.urgent ++ fresh) ∧
    (s.ss.port = none → s.ss.broadcast = true → t.ss.port = some ⟨0, 0, .forward, true⟩ ∧ t.ss.broadcast = false ∧
      t.ss.refresh = s.ss.refresh ∧ t.ss.urgent = s.ss.urgent ++ fresh) ∧
    (s.ss.port = none → s.ss.broadcast = false → ∀ k rest, s.ss.urgent ++ fresh = k :: rest →
      ∃ y, t.train? k = some y ∧ t.ss.port = some ⟨y.number, y.granted, y.sense, (t.speed k).emergency⟩ ∧
        t.ss.broadcast = false ∧ t.ss.refresh = s.ss.refresh ∧ t.ss.urgent = rest)

/-- What the end of an event never changes in a train record: all but its state, grades, current route and dwell. -/
def Train.identity (x : Train) : Nat × TrainClass × Nat × Owner × List Nat × Dir × Sense × Bool × Bool :=
  (x.number, x.cls, x.length, x.owner, x.span, x.dir, x.sense, x.auto, x.overrun)

/-! ### The laws of the manual -/

/-- R162, R167: the notice table holds at most 32 entries, at most one for any cause and subject, each with a repeat
count of 1 to 15; the raises of a selection are at most 15. -/
structure NoticeLaw (p : CLP) : Prop where
  few : p.notices.length ≤ 32
  once : p.notices.Pairwise (fun a b => ¬(a.cause = b.cause ∧ a.subject = b.subject))
  counts : ∀ n ∈ p.notices, 1 ≤ n.count ∧ n.count ≤ 15
  raises : ∀ x, p.selection = some x → x.raises ≤ 15

/-- The entry signal of an active route, as the plan has it. -/
def State.entrySignal (s : State) (slot : Nat) : Option Nat :=
  ((s.route? slot).bind s.routeRec).map RouteRec.entry

/-- R75, R106, R107: the laws of the active route table and of the route stack. -/
structure RouteLaw (s : State) : Prop where
  rising : s.iu.routes.Wf
  slots : ∀ k ∈ s.iu.routes.keys, 1 ≤ k ∧ k ≤ 32
  entries : ∀ j k e, s.entrySignal j = some e → s.entrySignal k = some e → j = k
  few : s.iu.stack.length ≤ 16
  once : (s.iu.stack.map StackEntry.route).Nodup
  levels : ∀ e ∈ s.iu.stack, e.effective ≤ e.clamped ∧ s.plan.floor e.station ≤ e.clamped
  setup : s.mc.mode = .setup → s.iu.routes.rows = [] ∧ s.iu.stack = []

/-- R106, R128: the law of the turn queue. -/
structure TurnLaw (s : State) : Prop where
  few : s.tc.queue.length ≤ 6
  levels : ∀ e ∈ s.tc.queue, e.effective ≤ e.clamped ∧ s.plan.floor e.station ≤ e.clamped
  setup : s.mc.mode = .setup → s.tc.queue = []

/-- R144: the visitor queue holds at most 8 entries, no demo twice, and never the running demo. -/
structure VisitorLaw (s : State) : Prop where
  few : s.awu.queue.length ≤ 8
  once : (s.awu.queue.map Visitor.demo).Nodup
  running : ∀ r, s.awu.running = some r → ∀ v ∈ s.awu.queue, v.demo ≠ r.demo

/-- R42: at most 48 trains, in slots 1 to 48, no two with one number, and none in SETUP. -/
structure RegisterLaw (s : State) : Prop where
  rising : s.tr.trains.Wf
  slots : ∀ k ∈ s.tr.trains.keys, 1 ≤ k ∧ k ≤ 48
  numbers : ∀ j k x y, s.train? j = some x → s.train? k = some y → x.number = y.number → j = k
  setup : s.mc.mode = .setup → s.tr.trains.rows = []

/-- R124: the urgent list holds trains of the register, none of them twice, and the Speed Supervisor has a record for
them in slot order. -/
structure UrgentLaw (s : State) : Prop where
  records : s.ss.trains.Wf
  once : s.ss.urgent.Nodup
  known : ∀ k ∈ s.ss.urgent, s.train? k ≠ none

/-- R42: every span holds one to six sections, none of them twice, and a section lies in at most one span. -/
structure SpanLaw (s : State) : Prop where
  span : ∀ k x, s.train? k = some x → x.span ≠ [] ∧ x.span.length ≤ 6 ∧ x.span.Nodup
  apart : ∀ j k x y sec, s.train? j = some x → s.train? k = some y → sec ∈ x.span → sec ∈ y.span → j = k

/-- R43: a train is owned by a cab under a handle exactly when that handle names it. -/
structure HandleLaw (s : State) : Prop where
  rising : s.tr.handles.Wf
  names : ∀ cab handle slot, slot ≠ 0 →
    ((∃ x, s.train? slot = some x ∧ x.owner = .cab cab handle) ↔
      (1 ≤ handle ∧ handle ≤ 3 ∧ (s.handles cab).get handle = slot))

/-- The canonical form of the plan tables. -/
structure PlanForm (p : Plan) : Prop where
  sections : p.sections.Wf
  points : p.points.Wf
  signals : p.signals.Wf
  routes : p.routes.Wf
  roads : p.roads.Wf
  triggers : p.triggers.Wf
  demos : p.demos.Wf
  buttons : p.buttons.Wf
  boards : p.boards.Wf
  stations : p.stations.Wf

/-- R20 code 3, R26: no input bit beyond the chain keeps a state, and outside SETUP every section's detector lies within
the chain length of the plan. -/
structure ChainLaw (s : State) : Prop where
  kept : ∀ r ∈ s.fs.inputs.rows, r.1 < s.fs.inLen
  reach : s.mc.mode ≠ .setup → ∀ r ∈ s.plan.sections.rows, r.2.detector < s.plan.device.inputLength

/-- R19: the plan-valid flag is set only for a plan that PLAN CHECK passes. -/
def PlanLaw (s : State) : Prop := s.pm.valid = true → s.plan.check = none

/-- R157: a layout is worked on a valid plan alone. -/
def CheckedLaw (s : State) : Prop := s.mc.mode ≠ .setup → s.pm.valid = true

/-- R76: the law of sections. A section that an active route has not yet released bears that route's mark, and so does its
overlap; and every mark stands for such a section. So no section is reserved by two routes. -/
structure ReservationLaw (s : State) : Prop where
  routes : s.iu.routes.Wf
  marks : s.iu.marks.Wf
  known : ∀ slot r, s.route? slot = some r → ∃ d, s.routeRec r = some d ∧ r.marks.length = d.sections.length
  held : ∀ slot r d (i : Nat) sec m, s.route? slot = some r → s.routeRec r = some d → d.sections[i]? = some sec →
    r.marks[i]? = some m → m ≠ .released → s.mark sec = .route slot
  overlap : ∀ slot r d sec, s.route? slot = some r → s.routeRec r = some d → sec ∈ d.overlap →
    s.mark sec = .overlap slot
  backed : ∀ sec slot, s.mark sec = .route slot → ∃ r d m, ∃ i : Nat, s.route? slot = some r ∧ s.routeRec r = some d ∧
    d.sections[i]? = some sec ∧ r.marks[i]? = some m ∧ m ≠ .released
  backedOverlap : ∀ sec slot, s.mark sec = .overlap slot → ∃ r d, s.route? slot = some r ∧ s.routeRec r = some d ∧
    sec ∈ d.overlap

/-- R80: the law of moving points. A point is on its way only while its section is clear, and a lock on it demands the
position it is moving to. -/
structure MovingLaw (s : State) : Prop where
  points : s.iu.points.Wf
  clear : ∀ p r, s.plan.points.get? p = some r → (s.point p).state.inFlight = true → s.occupied r.sect = false
  demand : ∀ p q r, s.plan.points.get? p = some r → (s.point p).state = q.moving → 0 < (s.point p).locks →
    (s.point p).demand = some q

/-- R137: the turntable is away from its locks with a move in hand. -/
def TableState.away (x : TableState) : Bool := decide (x ∈ [TableState.unlocking, .moving, .locking, .halted])

/-- R137: the law of the turntable. While it is away no active route reserves the bridge, a request is served whose train, if
it names one, is TURNING on the bridge at grade 0, and no other train has the bridge in its span. -/
structure TableLaw (s : State) : Prop where
  present : s.tc.state ≠ .unindexed → s.plan.turntable.present = true
  setup : s.mc.mode = .setup → s.tc.state ∈ [TableState.unindexed, .locked, .faulted]
  free : s.tc.state.away = true → s.mark s.plan.turntable.bridge = .free
  served : s.tc.state.away = true → ∃ y, ∃ i : Nat, s.tc.served = some (i + 1) ∧ s.tc.queue[i]? = some y ∧
    (∀ n, y.train = some n → ∃ k x, s.train? k = some x ∧ x.number = n ∧ x.state = .turning ∧ x.granted = 0 ∧
      x.span = [s.plan.turntable.bridge]) ∧
    ∀ k x, s.train? k = some x → s.plan.turntable.bridge ∈ x.span → y.train = some x.number

/-- R156: a mode is remembered in STOP alone, and is RUN or QUIET. -/
def ModeLaw (s : State) : Prop :=
  (s.mc.mode = .stop → s.mc.remembered = some .run ∨ s.mc.remembered = some .quiet) ∧
    (s.mc.mode ≠ .stop → s.mc.remembered = none)

/-- R93, R95: every signal of the plan shows the aspect that the proceed conditions and the depth give. -/
structure AspectLaw (s : State) : Prop where
  rising : s.tr.trains.Wf
  signals : s.iu.signals.Wf
  shown : ∀ signal g, s.plan.signals.get? signal = some g → (s.signal signal).aspect = s.aspectOf signal

/-- R96, R149: every signal of the plan has the lamps of its aspect, and every button lamp the value of R149. -/
structure LampLaw (s : State) : Prop where
  signals : s.iu.signals.Wf
  lamps : s.awu.lamps.Wf
  shown : ∀ signal g, s.plan.signals.get? signal = some g →
    (s.signal signal).lamps = lampsFor g.kind (s.signal signal).aspect
  lit : ∀ key b, s.plan.buttons.get? key = some b → s.lamp key = s.lampOf b

/-- R95, R96, R149: a lamp output that only one record names follows that record's lamp: a signal's each lamp, and a button's
while it is OFF or STEADY. -/
structure OutputLaw (s : State) : Prop where
  image : s.fs.image.Wf
  signals : ∀ signal g bit v, s.plan.signals.get? signal = some g → (bit, v) ∈ g.lit (s.signal signal).lamps →
    (s.plan.outputBits.filter (fun o => decide (o = bit))).length = 1 → s.out bit = v
  buttons : ∀ key b, s.plan.buttons.get? key = some b → s.lamp key ≠ .flash →
    (s.plan.outputBits.filter (fun o => decide (o = b.lamp))).length = 1 → s.out b.lamp = decide (s.lamp key = .steady)

/-- R119, R121: no train's granted grade is above its target. -/
structure GradeLaw (s : State) : Prop where
  rising : s.tr.trains.Wf
  below : ∀ slot x, s.train? slot = some x → x.granted ≤ s.targetOf slot x

end Sys2Proof.Machine
end

