-- ==== Sys2Proof/WellFormed.lean ====
section
/-! DEFINITION. Which operands a row of the opcode table admits. `exec` answers for every command, well-formed or not. -/
namespace Sys2Proof

/-- The length byte of a frame counts its parameter bytes (R172), and an order names no block twice. -/
def Frame.wellFormed (f : Frame) : Bool :=
  decide (f.params.length ≤ 255) && decide f.order.Nodup

/-- Operands within the ranges of R24, R40, R75, R77 and R144, and a code of UNKNOWN_REQUEST that names no request. -/
def Instr.wellFormed : Instr → Bool
  | .powerUp | .resetPin | .saveEnd _ | .fetchReply _ | .fetchNotice _ | .orderCompletion => true
  | .planClear f | .planWrite f | .planRead f | .planCheck f | .planSave f | .planLoad f => f.wellFormed
  | .goRun f | .goQuiet f | .stopAll f | .resume f | .resetLayout f => f.wellFormed
  | .enterTrain f | .retireTrain f | .acquireTrain f | .releaseTrain f | .setSpeed f => f.wellFormed
  | .reverseTrain f | .hold f | .unhold f | .setAuto f | .keepAlive f | .seekTrain f => f.wellFormed
  | .readTrainField f | .readTrainRecord f => f.wellFormed
  | .setRoute f | .cancelRoute f | .pointTest f | .readRoute f | .readSection f => f.wellFormed
  | .readPoint f | .readSignal f | .clearFault f => f.wellFormed
  | .homeTurntable f | .turn f | .withdrawTurn f | .readTurntable f => f.wellFormed
  | .startDemo f | .stopDemo f | .readBoard f | .readPanel f => f.wellFormed
  | .clearStatus f | .setNoticeMask f | .identify f => f.wellFormed
  | .keepAliveExpiry cab order => decide (1 ≤ cab ∧ cab ≤ 24) && decide order.Nodup
  | .approachTimerExpiry slot order => decide (1 ≤ slot ∧ slot ≤ 32) && decide order.Nodup
  | .pulseExpiry p => decide (1 ≤ p ∧ p ≤ 120)
  | .throwTimeout p order => decide (1 ≤ p ∧ p ≤ 120) && decide order.Nodup
  | .turntableTimerExpiry order => decide order.Nodup
  | .demoTimeout order => decide order.Nodup
  | .dwellEnd slot order => decide (1 ≤ slot ∧ slot ≤ 48) && decide order.Nodup
  | .cooldownExpiry panel => decide (1 ≤ panel ∧ panel ≤ 6)
  | .layoutTick _ order => decide order.Nodup
  | .scanCompletion fdi order => decide (16 ≤ fdi.length ∧ fdi.length ≤ 520) && decide order.Nodup
  | .unknownRequest code f => !namesRequest code.toNat && f.wellFormed

end Sys2Proof
end

