-- ==== Sys2Proof/Certificates/Slice0/Obligations.lean ====
section
/-! DEFINITION. What the model is stated to do, from the rules of the manual. `s.listening`, `Carries`, `answeredWith`,
`replied`, `Quiet`, `Still` and `FollowUp` are defined in Safety.lean. -/
open Sys2Proof Sys2Proof.Machine

/-! ### The machine -/

/-- A step takes the command at the front of the queue and runs it on the state with the queue's rest; on an empty queue
the block idles (the model's choice, log entry 2). -/
def Obligations.StepTakesTheFrontCommand : Prop :=
  (∀ (c : Instr) (rest : List Instr) (s : State),
    step { s with pending := c :: rest } = exec c { s with pending := rest }) ∧
  ∀ s : State, s.pending = [] → step s = .next s

/-- Every well-formed command completes, and no command touches the queue. -/
def Obligations.EveryCommandAnswers : Prop :=
  ∀ (c : Instr) (s : State), c.wellFormed = true → ∃ t, exec c s = .next t ∧ t.pending = s.pending

/-- R1, R23, R24, R161: power-up and the RESET pin load the store's image, or the empty plan where there is none; every
block is at its power-up values; the stop lamps alone are lit; PLAN_EMPTY is the only notice there can be. -/
def Obligations.PowerUpLoadsTheStore : Prop :=
  ∀ c ∈ [Instr.powerUp, Instr.resetPin], ∀ s : State, ∃ t, exec c s = .next t ∧
    t.pm = { plan := s.pm.store.getD {}, valid := false, store := s.pm.store, saving := false } ∧
    t.mc = { mode := .setup, remembered := none, ticks := 0 } ∧
    t.tr = {} ∧ t.iu = {} ∧ t.ss = {} ∧ t.tc = {} ∧ t.awu = {} ∧
    t.clp = { notices := if s.pm.store = none then [⟨.planEmpty, 0, 1, 0⟩] else [] } ∧
    (t.fs.inLen = t.plan.device.inputLength ∧ t.fs.outLen = t.plan.device.outputLength ∧ t.fs.inputs = ⟨[]⟩ ∧
      t.fs.check = .a ∧ t.fs.chain = .good ∧ t.fs.recovery = 0 ∧ t.fs.fieldFault = false ∧
      t.fs.sent = t.fs.image ∧ t.fs.latched = s.fs.latched) ∧
    (∀ bit, (∀ g ∈ t.plan.signals.rows, g.2.stop ≠ bit) → t.out bit = false) ∧
    (∀ g ∈ t.plan.signals.rows,
      (∀ h ∈ t.plan.signals.rows, some g.2.stop ∉ [h.2.caution, h.2.second, h.2.clear, h.2.subsidiary]) →
        t.out g.2.stop = true)

/-- The state after reset is a power-up with a blank store (the model's choice, log entry 1), and it meets every law. -/
def Obligations.ResetMeetsTheLaws : Prop :=
  State.powerUp {} = State.reset ∧ NoticeLaw State.reset.clp ∧ RouteLaw State.reset ∧ TurnLaw State.reset ∧
    ModeLaw State.reset ∧ VisitorLaw State.reset ∧ RegisterLaw State.reset ∧ HandleLaw State.reset ∧
    PlanForm State.reset.plan ∧ PlanLaw State.reset ∧ ChainLaw State.reset ∧ AspectLaw State.reset ∧
    GradeLaw State.reset ∧ SpanLaw State.reset ∧ CheckedLaw State.reset ∧ ReservationLaw State.reset ∧
    MovingLaw State.reset ∧ TableLaw State.reset ∧ LampLaw State.reset ∧ OutputLaw State.reset ∧ UrgentLaw State.reset

/-! ### The laws every step keeps -/

/-- R162, R167: the law of the notice table. -/
def Obligations.NoticeLawKept : Prop :=
  ∀ s t : State, ModeLaw s → NoticeLaw s.clp → step s = .next t → NoticeLaw t.clp

/-- R75, R76, R80, R106, R107, R157: the laws of the active route table and of the route stack; on a checked plan, the law
of sections; and, from RUN, QUIET or STOP, the law of moving points. In SETUP a section may come to read occupied without a
report, under a POINT TEST throw that the model lets run on (log entry 65). -/
def Obligations.RouteLawKept : Prop :=
  (∀ s t : State, ModeLaw s → RouteLaw s → step s = .next t → RouteLaw t) ∧
  ∀ s t : State, ModeLaw s → RouteLaw s → PlanForm s.plan → PlanLaw s → CheckedLaw s → step s = .next t →
    CheckedLaw t ∧ (ReservationLaw s → ReservationLaw t) ∧
    (s.mc.mode ≠ .setup → ChainLaw s → MovingLaw s → MovingLaw t)

/-- R106, R128, R137, R144, R156: the laws of the turn queue, of the visitor queue and of the remembered mode; and, on a
checked plan, the law of the turntable. An ENTER TRAIN of the supervisor may put a train on a bridge that is away (R45 has no
test that keeps it off), so that law is stated of every other command. -/
def Obligations.TurnVisitorAndModeLawsKept : Prop :=
  (∀ s t : State, ModeLaw s → step s = .next t → ModeLaw t ∧ (TurnLaw s → TurnLaw t)) ∧
  (∀ s t : State, ModeLaw s → VisitorLaw s → step s = .next t → VisitorLaw t) ∧
  ∀ s t : State, ModeLaw s → RegisterLaw s → RouteLaw s → PlanForm s.plan → PlanLaw s → CheckedLaw s → TableLaw s →
    (∀ f rest, s.pending ≠ .enterTrain f :: rest) → step s = .next t → TableLaw t

/-- R42, R43, R124: the law of the train register, and with it the law of owners and handles, the law of spans and the law
of the urgent list. -/
def Obligations.RegisterAndHandleLawsKept : Prop :=
  ∀ s t : State, ModeLaw s → RegisterLaw s → step s = .next t →
    RegisterLaw t ∧ (HandleLaw s → HandleLaw t) ∧ (SpanLaw s → SpanLaw t) ∧ (UrgentLaw s → UrgentLaw t)

/-- R19, R20 code 3, R26: the tables and the stored image stay in form, the plan-valid flag stands only over a plan that
passes, and the law of the chain length holds. -/
def Obligations.PlanAndChainLawsKept : Prop :=
  ∀ s t : State, step s = .next t →
    (PlanForm s.plan → (∀ p, s.pm.store = some p → PlanForm p) →
      PlanForm t.plan ∧ ∀ p, t.pm.store = some p → PlanForm p) ∧
    (PlanLaw s → PlanLaw t) ∧ (PlanLaw s → ChainLaw s → ChainLaw t)

/-- R19: outside SETUP only power-up and the RESET pin change the plan tables, and PLAN CHECK alone sets the plan-valid
flag. -/
def Obligations.PlanChangesOnlyInSetup : Prop :=
  ∀ (c : Instr) (s t : State), exec c s = .next t →
    (t.plan ≠ s.plan → s.mc.mode = .setup ∨ c = .powerUp ∨ c = .resetPin) ∧
    (t.plan ≠ s.plan → t.pm.valid = false) ∧
    (s.pm.valid = false → t.pm.valid = true → ∃ f, c = .planCheck f)

/-- R93, R95, R96, R149: after every command each signal shows the aspect of the state as it stands and has its lamps, and
each button lamp has its value; the lamps of each aspect. Where the plan stays as it is, the output bits of those lamps
that no other record names show what the lamps are; so they do after power-up and a RESET pin. -/
def Obligations.AspectLawKept : Prop :=
  (∀ s t : State, ModeLaw s → ChainLaw s → AspectLaw s → step s = .next t → AspectLaw t) ∧
  (∀ s t : State, PlanForm s.plan → (∀ p, s.pm.store = some p → PlanForm p) → LampLaw s → step s = .next t →
    LampLaw t) ∧
  (∀ s t : State, PlanForm s.plan → (∀ p, s.pm.store = some p → PlanForm p) → LampLaw s → OutputLaw s →
    step s = .next t → t.plan = s.plan → OutputLaw t) ∧
  (∀ s t : State, (∀ p, s.pm.store = some p → PlanForm p) → (exec .powerUp s = .next t ∨ exec .resetPin s = .next t) →
    OutputLaw t) ∧
  (∀ kind, lampsFor kind .stop = { stop := true, caution := false, second := false, clear := false, subsidiary := false }) ∧
  (∀ a, a ≠ .stop → a ≠ .shunt → lampsFor .main a =
    { stop := false, caution := decide (a ≠ .clear), second := decide (a = .prelim), clear := decide (a = .clear),
      subsidiary := false }) ∧
  (∀ kind, lampsFor kind .shunt =
    { stop := decide (kind = .main), caution := false, second := false, clear := false, subsidiary := true }) ∧
  ∀ (s : State) (b : ButtonRec), s.lampOf b =
    if s.console lampTest = true then .steady
    else if s.mc.mode ≠ .run ∨ s.console panelLock = true then .off
    else if b.demo ∈ s.awu.queue.map Visitor.demo ∨ s.awu.running.map Running.demo = some b.demo then .flash
    else .steady

/-- R115, R119, R121: after every command no train is granted more than its target in the state as it stands. -/
def Obligations.GradeLawKept : Prop :=
  ∀ s t : State, ModeLaw s → ChainLaw s → GradeLaw s → step s = .next t → GradeLaw t

/-- R93, R117, R119: what the laws forbid. A proceed aspect stands over a CLEARED route whose points lie as it wants them
and whose sections are clear, in RUN or QUIET. A train in a stopped or faulted layout, held, turning, lost, overrun, or
without a route to run on is granted nothing. R93, R94: the aspect of each signal, by the class of its route and the depth
counted from it. R116 to R119, R121: a train's target is the highest grade that R118 and R119 allow it, so what it is
granted is nothing or is allowed; that a LOST train has no start route is the model's choice (log entry 54). -/
def Obligations.ProceedIsProved : Prop :=
  (∀ (s : State) (signal : Nat) (g : SignalRec), RouteLaw s → AspectLaw s → s.plan.signals.get? signal = some g →
    (s.signal signal).aspect ≠ .stop →
      s.working = true ∧ ∃ slot r d, s.route? slot = some r ∧ s.routeRec r = some d ∧ d.entry = signal ∧
        r.state = .cleared ∧ (∀ x ∈ d.points ++ d.flanks, (s.point x.1).state = x.2.settled) ∧
        ∀ x ∈ d.sections ++ d.overlap, s.occupied x = false ∧ s.inSpan x = false ∧ s.stray x = false) ∧
  (∀ (s : State) (slot : Nat) (x : Train), GradeLaw s → s.train? slot = some x →
    (s.working = false ∨ s.fs.chain = .fault ∨ x.state ≠ .active ∨ x.overrun = true ∨ s.startRoute slot = none) →
      x.granted = 0) ∧
  (∀ (s : State) (signal : Nat), RouteLaw s →
    ((∀ slot, s.entrySignal slot ≠ some signal) → s.aspectOf signal = .stop) ∧
    ∀ slot r d, s.route? slot = some r → s.routeRec r = some d → d.entry = signal →
      (¬(s.working = true ∧ s.proves r d) → s.aspectOf signal = .stop) ∧
      (s.working = true → s.proves r d →
        (d.cls = .shunt → s.aspectOf signal = .shunt) ∧
        (d.cls = .main → (s.depthIs slot 1 → s.aspectOf signal = .caution) ∧
          (s.depthIs slot 2 → s.aspectOf signal = .prelim) ∧ (s.depthIs slot 3 → s.aspectOf signal = .clear)))) ∧
  ∀ (s : State) (slot : Nat) (x : Train), RouteLaw s → SpanLaw s → PlanForm s.plan → s.plan.check = none →
    s.tr.trains.Wf → s.train? slot = some x →
    (∀ g, g ≤ s.targetOf slot x ↔ g = 0 ∨ s.allows slot x g) ∧
    (GradeLaw s → x.granted = 0 ∨ s.allows slot x x.granted)

/-! ### The control link -/

/-- R163: a frame that ends before its check bytes leaves everything but the bytes sent; with a reply held, a complete frame
is discarded and DROPPED_REQUEST is set. Tests 2, 3 and 5: a bad check or more than 64 parameters gives BAD_FRAME,
station 40 NOT_PERMITTED, any other station that is none RANGE, and parameters for a request that has none RANGE. -/
def Obligations.FramesTheLinkKeeps : Prop :=
  (∀ (c : Instr) (code : Nat) (f : Frame) (s : State), requestOf c = some (code, f) →
     (frameComplete f = false → exec c s = .next (s.openFrame f)) ∧
     (frameComplete f = true → s.clp.holder ≠ none →
       exec c s = .next { s.openFrame f with clp := { s.clp with dropped := true } })) ∧
  (∀ (c : Instr) (code : Nat) (f : Frame) (s : State), requestOf c = some (code, f) → frameComplete f = true →
     s.listening →
       ((64 < f.params.length ∨ f.check ≠ frameCheck (frameBytes f code)) →
         exec c s = .next ((s.openFrame f).hold code (.refused .badFrame []))) ∧
       (f.params.length ≤ 64 → f.check = frameCheck (frameBytes f code) →
         (f.station = 40#8 → exec c s = .next ((s.openFrame f).hold code (.refused .notPermitted []))) ∧
         (f.station ≠ 40#8 → 24 < f.station.toNat →
           exec c s = .next ((s.openFrame f).hold code (.refused .range []))) ∧
         (f.station.toNat ≤ 24 → code ∈ bareRequests → f.params ≠ [] →
           exec c s = .next ((s.openFrame f).hold code (.refused .range [])))))

/-- R163: a frame whose code names no request is tested like any other and then refused UNKNOWN_REQUEST; a code that
names one is no command of this row (the model's choice, log entry 34). -/
def Obligations.UnknownRequestAnswered : Prop :=
  ∀ (code : Byte) (f : Frame) (s : State),
    (namesRequest code.toNat = true → exec (.unknownRequest code f) s = .refused .namedRequest) ∧
    (namesRequest code.toNat = false →
      (frameComplete f = false → exec (.unknownRequest code f) s = .next (s.openFrame f)) ∧
      (frameComplete f = true → s.clp.holder ≠ none →
        exec (.unknownRequest code f) s = .next { s.openFrame f with clp := { s.clp with dropped := true } }) ∧
      (frameComplete f = true → s.listening →
        exec (.unknownRequest code f) s = .next ((s.openFrame f).hold code.toNat
          (.refused
            (if 64 < f.params.length ∨ f.check ≠ frameCheck (frameBytes f code.toNat) then .badFrame
             else if f.station = 40#8 then .notPermitted
             else if 24 < f.station.toNat then .range
             else .unknownRequest) []))))

/-- R165: a FETCH REPLY frame carries the status byte and the reply held, and empties the holder when it is clocked
through its final check byte; it changes nothing else. -/
def Obligations.FetchReplyReturnsTheHolder : Prop :=
  ∀ (s : State) (n : Nat) (body : List Byte),
    (match s.clp.holder with
      | none => body = [0#8, 0#8, 0#8, 0#8]
      | some ⟨code, .done p⟩ => body = [1#8, 0#8, byte code, byte p.length] ++ p
      | some ⟨code, .accepted p⟩ => body = [2#8, 0#8, byte code, byte p.length] ++ p
      | some ⟨code, .refused r p⟩ => body = [3#8, byte r.code, byte code, byte p.length] ++ p) →
    exec (.fetchReply n) s = .next { s with
      linkOut := (s.status :: (body ++ checkBytes (frameCheck body))).take n,
      clp := if 3 + body.length ≤ n then { s.clp with holder := none } else s.clp }

/-- R169: a FETCH NOTICE carries the entry that stands first in priority order. Clocked through its final check byte it
takes that entry out of the table; if the entry was raised again during the frame it stays with those raises, and if it
has gone nothing is removed. A fetch that ends earlier removes nothing. That with the table empty the bytes behind the cause
are 0 too is the model's choice (log entry 67). -/
def Obligations.FetchNoticeCollects : Prop :=
  ∀ (s : State) (n : Nat), NoticeLaw s.clp →
    (∀ pre e post, s.clp.notices = pre ++ e :: post → (∀ x ∈ pre, e.cause.code < x.cause.code) →
      (∀ x ∈ post, e.cause.code ≤ x.cause.code) →
        (∀ body, body = [byte e.cause.code, byte e.cause.rank] ++ two e.subject ++
            [byte e.count, byte e.detail, byte s.clp.notices.length] → 1 ≤ n →
          exec (.fetchNotice (.whole n)) s = .next { s with
            linkOut := (s.status :: (body ++ checkBytes (frameCheck body))).take n,
            clp := { s.clp with
              notices := if 10 ≤ n then pre ++ post else s.clp.notices, selection := none } }) ∧
        exec (.fetchNotice .start) s = .next { s with
          linkOut := [s.status], clp := { s.clp with selection := some ⟨e, s.clp.notices.length, 0, true⟩ } }) ∧
    (∀ x, s.clp.selection = some x →
      ((n < 10 ∨ x.present = false) →
        ∃ t, exec (.fetchNotice (.finish n)) s = .next t ∧ t.clp = { s.clp with selection := none }) ∧
      (10 ≤ n → x.present = true →
        ∀ pre e post, s.clp.notices = pre ++ e :: post → x.entry.cause = e.cause → x.entry.subject = e.subject →
          ∃ t, exec (.fetchNotice (.finish n)) s = .next t ∧ t.clp = { s.clp with
            notices := if x.raises = 0 then pre ++ post else pre ++ { e with count := x.raises } :: post,
            selection := none })) ∧
    (∀ body, body = List.replicate 7 0#8 → s.clp.notices = [] → 1 ≤ n →
      exec (.fetchNotice (.whole n)) s = .next { s with
        linkOut := (s.status :: (body ++ checkBytes (frameCheck body))).take n,
        clp := { s.clp with selection := none } })

/-- R167, R169: recording a notice. A repeat raises the count of its entry and of a selection that holds it; a new entry
goes to the back; with 32 entries present the oldest entry of the lowest class makes room for a higher class, a selection
that holds it being gone for the fetch (R169), and otherwise the notice is dropped, NOTICE_LOST being set in both cases.
Nothing else of the CLP changes. -/
def Obligations.NoticeRecording : Prop :=
  ∀ (p : CLP) (c : Cause) (subject detail : Nat), NoticeLaw p →
    (∀ pre e post, p.notices = pre ++ e :: post → e.cause = c → e.subject = subject →
      p.record c subject detail = { p with
        notices := pre ++ { e with count := min (e.count + 1) 15, detail := detail } :: post,
        selection := p.selection.map (fun x =>
          if x.present = true ∧ x.entry.cause = c ∧ x.entry.subject = subject then
            { x with raises := min (x.raises + 1) 15 }
          else x) }) ∧
    ((∀ e ∈ p.notices, ¬(e.cause = c ∧ e.subject = subject)) →
      (p.notices.length < 32 →
        p.record c subject detail = { p with notices := p.notices ++ [⟨c, subject, 1, detail⟩] }) ∧
      (p.notices.length = 32 →
        (∀ pre e post, p.notices = pre ++ e :: post → (∀ x ∈ pre, x.cause.rank < e.cause.rank) →
          (∀ x ∈ post, x.cause.rank ≤ e.cause.rank) → c.rank < e.cause.rank →
            p.record c subject detail = { p with
              notices := pre ++ post ++ [⟨c, subject, 1, detail⟩],
              noticeLost := true,
              selection := p.selection.map (fun x =>
                if x.entry.cause = e.cause ∧ x.entry.subject = e.subject then { x with present := false } else x) }) ∧
        ((∀ x ∈ p.notices, x.cause.rank ≤ c.rank) →
          p.record c subject detail = { p with noticeLost := true })))

/-- R168, R171: ATTN is asserted exactly while an entry whose cause the mask enables is present; after power-up, exactly
if PLAN_EMPTY was recorded. The first byte of every frame is the status byte of the state before it, with the bits of the
table. -/
def Obligations.AttnAndStatusByte : Prop :=
  (∀ s : State, s.attn = true ↔ ∃ n ∈ s.clp.notices, s.clp.mask.getLsbD (n.cause.code - 1) = true) ∧
  (∀ s : State, s.powerUp.attn = true ↔ ∃ n ∈ s.powerUp.clp.notices, n.cause = .planEmpty) ∧
  ∀ s : State,
    (s.status.toNat % 4 = match s.mc.mode with | .setup => 0 | .run => 1 | .quiet => 2 | .stop => 3) ∧
    (s.status.getLsbD 2 = true ↔ s.clp.holder ≠ none) ∧
    (s.status.getLsbD 3 = true ↔ s.clp.notices ≠ []) ∧
    s.status.getLsbD 4 = s.fs.fieldFault ∧
    s.status.getLsbD 5 = s.clp.noticeLost ∧
    s.status.getLsbD 6 = s.clp.dropped ∧
    (s.status.getLsbD 7 = true ↔ s.fs.chain = .fault) ∧
    (∀ c code f t, requestOf c = some (code, f) → 1 ≤ f.clocked → exec c s = .next t →
      t.linkOut.head? = some s.status) ∧
    (∀ code f t, 1 ≤ f.clocked → exec (.unknownRequest code f) s = .next t → t.linkOut.head? = some s.status) ∧
    (∀ n t, 1 ≤ n → exec (.fetchReply n) s = .next t → t.linkOut.head? = some s.status) ∧
    (∀ n t, 1 ≤ n → exec (.fetchNotice (.whole n)) s = .next t → t.linkOut.head? = some s.status) ∧
    ∀ t, exec (.fetchNotice .start) s = .next t → t.linkOut = [s.status]

/-- R170: CLEAR STATUS and SET NOTICE MASK from the supervisor alone, IDENTIFY from every station, in every mode. -/
def Obligations.LinkRequests : Prop :=
  ∀ (f : Frame) (st : Nat) (s : State), s.listening →
    (Carries f 0x70 st [] →
      exec (.clearStatus f) s = .next
        (if st = 0 then
          State.answeredWith { s.openFrame f with clp := { s.clp with dropped := false, noticeLost := false } } f 0x70
            (.done [])
        else s.replied f 0x70 (.refused .notPermitted []))) ∧
    (∀ a b c : Byte, Carries f 0x71 st [a, b, c] →
      exec (.setNoticeMask f) s = .next
        (if st ≠ 0 then s.replied f 0x71 (.refused .notPermitted [])
        else if 32 ≤ a.toNat then s.replied f 0x71 (.refused .range [])
        else
          State.answeredWith
            { s.openFrame f with clp := { s.clp with mask := (a.setWidth 5 ++ b ++ c : BitVec 21) } } f 0x71
            (.done []))) ∧
    (Carries f 0x72 st [] →
      exec (.identify f) s = .next
        (s.replied f 0x72 (.done ([240#8, 1#8] ++ two s.fs.inLen ++ two s.fs.outLen))))

/-! ### The train register -/

/-- R56: SEEK TRAIN, from every station and in every mode. -/
def Obligations.SeekTrain : Prop :=
  ∀ (f : Frame) (st : Nat) (s : State) (hi lo : Byte), RegisterLaw s → Carries f 0x3A st [hi, lo] → s.listening →
    ((pair hi lo = 0 ∨ 9999 < pair hi lo) →
      exec (.seekTrain f) s = .next (s.replied f 0x3A (.refused .range []))) ∧
    (1 ≤ pair hi lo → pair hi lo ≤ 9999 →
      (∀ slot x, s.train? slot = some x → x.number = pair hi lo →
        exec (.seekTrain f) s = .next (State.answeredWith
          { s.openFrame f with tr := { s.tr with cursor := slot, vacated := false, repeatField := none } } f 0x3A
          (.done [byte slot, hi, lo]))) ∧
      ((∀ slot x, s.train? slot = some x → x.number ≠ pair hi lo) →
        exec (.seekTrain f) s = .next (State.answeredWith
          { s.openFrame f with tr := { s.tr with cursor := 0, vacated := false, repeatField := none } } f 0x3A
          (.done [0#8, 0#8, 0#8]))))

/-- R57, R58, R174: READ TRAIN FIELD: whether it advances, where to, and the fields; READ TRAIN RECORD: the 25 bytes of
the record at the cursor, or END. The layout of the field values is the model's (log entry 15). -/
def Obligations.RegisterReads : Prop :=
  (∀ (f : Frame) (st : Nat) (s : State) (b : Byte), s.tr.trains.Wf → Carries f 0x3B st [b] → s.listening →
     (13 < b.toNat → exec (.readTrainField f) s = .next (s.replied f 0x3B (.refused .range []))) ∧
     (b.toNat ≤ 13 →
       (∀ slot x value, s.train? slot = some x →
         (((s.tr.repeatField = some b.toNat ∨ s.tr.cursor = 0 ∨ s.tr.vacated = true) ∧ s.tr.cursor < slot ∧
             ∀ k, s.tr.cursor < k → k < slot → s.train? k = none) ∨
           (s.tr.repeatField ≠ some b.toNat ∧ s.tr.cursor ≠ 0 ∧ s.tr.vacated = false ∧ slot = s.tr.cursor)) →
         (match b.toNat with
           | 0 => value = two x.number
           | 1 => value = [match x.cls with
               | .express => 0#8 | .stopping => 1#8 | .goods => 2#8 | .shunting => 3#8 | .lightEngine => 4#8 | .demo => 5#8]
           | 2 => value = two x.length
           | 3 => value = (match x.owner with
               | .nobody => [0#8, 0#8, 0#8] | .supervisor => [1#8, 0#8, 0#8]
               | .cab c h => [2#8, byte c, byte h] | .awu => [3#8, 0#8, 0#8])
           | 4 => value = byte x.span.length :: x.span.map byte
           | 5 => value = [match x.dir with | .east => 0#8 | .west => 1#8]
           | 6 => value = [match x.sense with | .forward => 0#8 | .backward => 1#8]
           | 7 => value = [match x.state with | .active => 0#8 | .held => 1#8 | .turning => 2#8 | .lost => 3#8]
           | 8 => value = [if x.auto then 1#8 else 0#8]
           | 9 => value = [if x.overrun then 1#8 else 0#8]
           | 10 => value = [byte x.requested]
           | 11 => value = [byte x.granted]
           | 12 => value = [byte (x.route.getD 0)]
           | _ => value = two (x.dwell.getD 0)) →
         exec (.readTrainField f) s = .next (State.answeredWith
           { s.openFrame f with tr := { s.tr with cursor := slot, vacated := false, repeatField := some b.toNat } } f
           0x3B (.done ([byte slot] ++ two x.number ++ value)))) ∧
       ((s.tr.repeatField = some b.toNat ∨ s.tr.cursor = 0 ∨ s.tr.vacated = true) →
         (∀ k, s.tr.cursor < k → s.train? k = none) →
           exec (.readTrainField f) s = .next (State.answeredWith
             { s.openFrame f with tr := { s.tr with cursor := 0, vacated := false, repeatField := some b.toNat } } f
             0x3B (.done [0#8, 0#8, 0#8]))))) ∧
  (∀ (f : Frame) (st : Nat) (s : State), Carries f 0x3C st [] → s.listening →
     (∀ x owner, s.tr.cursor ≠ 0 → s.tr.vacated = false → s.train? s.tr.cursor = some x → x.span.length ≤ 6 →
       (match x.owner with
         | .nobody => owner = [0#8, 0#8, 0#8]
         | .supervisor => owner = [1#8, 0#8, 0#8]
         | .cab c h => owner = [2#8, byte c, byte h]
         | .awu => owner = [3#8, 0#8, 0#8]) →
       exec (.readTrainRecord f) s = .next (State.answeredWith
         { s.openFrame f with tr := { s.tr with repeatField := none } } f 0x3C
         (.done ([byte s.tr.cursor] ++ two x.number ++
           [match x.cls with
             | .express => 0#8 | .stopping => 1#8 | .goods => 2#8 | .shunting => 3#8 | .lightEngine => 4#8 | .demo => 5#8] ++
           two x.length ++ owner ++ [byte x.span.length] ++
           (x.span.map byte ++ List.replicate (6 - x.span.length) 0#8) ++
           [match x.dir with | .east => 0#8 | .west => 1#8,
             match x.sense with | .forward => 0#8 | .backward => 1#8,
             match x.state with | .active => 0#8 | .held => 1#8 | .turning => 2#8 | .lost => 3#8,
             (if x.auto then 1#8 else 0#8) + (if x.overrun then 2#8 else 0#8), byte x.requested, byte x.granted,
             byte (x.route.getD 0)] ++
           two (x.dwell.getD 0))))) ∧
     ((s.tr.cursor = 0 ∨ s.tr.vacated = true) →
       exec (.readTrainRecord f) s = .next (State.answeredWith
         { s.openFrame f with tr := { s.tr with repeatField := none } } f 0x3C (.done [0#8]))))

/-- R48: ACQUIRE TRAIN by its table of owners; nothing else of the train changes. That the owner choice is always sent, 255
for one left out, and that a cab's choice is refused RANGE, is the model's reading of R173 (log entry 14). -/
def Obligations.AcquireTrain : Prop :=
  ∀ (f : Frame) (st : Nat) (s : State) (hi lo choice : Byte), RegisterLaw s → s.tr.handles.Wf → s.tr.keepAlive.Wf →
    Carries f 0x32 st [hi, lo, choice] → s.listening →
    ((pair hi lo = 0 ∨ 9999 < pair hi lo ∨ (choice ≠ 255#8 ∧ (st ≠ 0 ∨ 1 < choice.toNat))) →
      exec (.acquireTrain f) s = .next (s.replied f 0x32 (.refused .range []))) ∧
    (1 ≤ pair hi lo → pair hi lo ≤ 9999 → (choice = 255#8 ∨ (st = 0 ∧ choice.toNat ≤ 1)) →
      ((∀ slot x, s.train? slot = some x → x.number ≠ pair hi lo) →
        exec (.acquireTrain f) s = .next (s.replied f 0x32 (.refused .noSuch []))) ∧
      ∀ slot x, s.train? slot = some x → x.number = pair hi lo →
        (st = 0 → ∃ handles keepAlive, HandleFreed s x.owner handles keepAlive ∧
          exec (.acquireTrain f) s = .next (State.answeredWith
            { s.openFrame f with tr := { s.tr with
              trains := s.tr.trains.put slot { x with owner := if choice = 1#8 then .awu else .supervisor },
              handles := handles, keepAlive := keepAlive } } f 0x32 (.done []))) ∧
        (st ≠ 0 →
          (x.owner = .supervisor ∨ x.owner = .awu ∨ (∃ c h, x.owner = .cab c h ∧ c ≠ st) →
            exec (.acquireTrain f) s = .next (s.replied f 0x32 (.refused .notOwner []))) ∧
          (∀ h, x.owner = .cab st h → exec (.acquireTrain f) s = .next (s.replied f 0x32 (.done [byte h]))) ∧
          (x.owner = .nobody → (s.handles st).h1 ≠ 0 → (s.handles st).h2 ≠ 0 → (s.handles st).h3 ≠ 0 →
            exec (.acquireTrain f) s = .next (s.replied f 0x32 (.refused .tableFull []))) ∧
          ∀ h, x.owner = .nobody → 1 ≤ h → h ≤ 3 → (s.handles st).get h = 0 →
            (∀ j, 1 ≤ j → j < h → (s.handles st).get j ≠ 0) →
            ∃ handles keepAlive,
              (∀ c, Tab.getD {} handles c = if c = st then (s.handles st).set h slot else s.handles c) ∧
              (∀ c, Tab.getD .absent keepAlive c =
                if c = st then .counting ((s.plan.station st).keepAlive * 10) else s.keepAliveOf c) ∧
              exec (.acquireTrain f) s = .next (State.hold
                { s.openFrame f with tr := { s.tr with
                  trains := s.tr.trains.put slot { x with owner := .cab st h },
                  handles := handles, keepAlive := keepAlive } } 0x32 (.done [byte h]))))

/-- R44: the reference of a request that names one train is resolved before anything else is tested. -/
def Obligations.ReferencesResolve : Prop :=
  ∀ (f : Frame) (st : Nat) (s : State) (hi lo : Byte) (r : Reason), s.tr.trains.Wf → s.listening →
    s.badRef st (pair hi lo) r →
    (Carries f 0x31 st [hi, lo] → exec (.retireTrain f) s = .next (s.replied f 0x31 (.refused r []))) ∧
    (Carries f 0x33 st [hi, lo] → exec (.releaseTrain f) s = .next (s.replied f 0x33 (.refused r []))) ∧
    (∀ g, Carries f 0x34 st [hi, lo, g] → exec (.setSpeed f) s = .next (s.replied f 0x34 (.refused r []))) ∧
    (Carries f 0x35 st [hi, lo] → exec (.reverseTrain f) s = .next (s.replied f 0x35 (.refused r []))) ∧
    (st ≠ 0 → pair hi lo ≠ 0 →
      (∀ a b level stack, stack = 0#8 ∨ stack = 1#8 → Carries f 0x40 st [a, b, hi, lo, level, stack] →
        exec (.setRoute f) s = .next (s.replied f 0x40 (.refused r []))) ∧
      (∀ road e level follow, follow = 0#8 ∨ follow = 1#8 → Carries f 0x51 st [road, e, level, follow, hi, lo] →
        exec (.turn f) s = .next (s.replied f 0x51 (.refused r []))) ∧
      (Carries f 0x52 st [0#8, hi, lo] → exec (.withdrawTurn f) s = .next (s.replied f 0x52 (.refused r []))))

/-- R49, R50, R120, R121, R123, R124: SET SPEED writes the requested grade, at most 63, in every train state and mode;
RELEASE TRAIN leaves no owner, no handle and the requested grade 0. Nothing else changes but what the recomputed speeds
bring down; a train so brought down joins the urgent list, and an idle port starts its order. -/
def Obligations.SetSpeedAndRelease : Prop :=
  (∀ (f : Frame) (st : Nat) (s : State) (hi lo g : Byte) (slot : Nat) (x : Train), RegisterLaw s → s.Quiet →
     Carries f 0x34 st [hi, lo, g] → s.listening → s.names st (pair hi lo) slot x →
     ∃ w, exec (.setSpeed f) s = .next (w.answeredWith f 0x34 (.done [])) ∧
       FollowUp ((s.openFrame f).putTrain slot { x with requested := min g.toNat 63 }) w ∧
       (SpanLaw s → UrgentLaw s → SpeedFollowUp (fun _ => False) s w)) ∧
  (∀ (f : Frame) (st : Nat) (s : State) (hi lo : Byte) (slot : Nat) (x : Train), RegisterLaw s → s.tr.handles.Wf →
     s.tr.keepAlive.Wf → s.Quiet → Carries f 0x33 st [hi, lo] → s.listening → s.names st (pair hi lo) slot x →
     ∃ handles keepAlive w, HandleFreed s x.owner handles keepAlive ∧
       exec (.releaseTrain f) s = .next (w.answeredWith f 0x33 (.done [])) ∧
       FollowUp { s.openFrame f with tr := { s.tr with
         trains := s.tr.trains.put slot { x with owner := .nobody, requested := 0 },
         handles := handles, keepAlive := keepAlive } } w ∧
       (SpanLaw s → UrgentLaw s → SpeedFollowUp (fun _ => False) s w))

/-- R51, R105, R124: REVERSE TRAIN. The new head direction leads away from the section after the old tail; joined on
neither side it is a free value (log entry 22), and the rest is done all the same. The train joins the urgent list, since
its sense has changed. Its OCCUPIED routes give up what they had reserved. -/
def Obligations.ReverseTrain : Prop :=
  ∀ (f : Frame) (st : Nat) (s : State) (hi lo : Byte) (slot : Nat) (x : Train), RegisterLaw s →
    Carries f 0x35 st [hi, lo] → s.listening → s.names st (pair hi lo) slot x →
    ((x.state = .turning ∨ x.granted ≠ 0 ∨ x.requested ≠ 0) →
      exec (.reverseTrain f) s = .next (s.replied f 0x35 (.refused .busy []))) ∧
    (x.state ≠ .turning → x.granted = 0 → x.requested = 0 →
      ∃ d y w, exec (.reverseTrain f) s = .next (w.answeredWith f 0x35 (.done [])) ∧
        ((x.span.length ≤ 1 → d = if x.dir = .east then .west else .east) ∧
          (∀ tail next rest, x.span = tail :: next :: rest →
            (s.plan.joinedOn s.align tail .east next = true → d = .west) ∧
            (s.plan.joinedOn s.align tail .east next = false → s.plan.joinedOn s.align tail .west next = true →
              d = .east))) ∧
        y = { x with
          dir := d, span := x.span.reverse, route := none,
          sense := if x.sense = .forward then .backward else .forward } ∧
        (s.Quiet → (∀ k r, s.route? k = some r → ¬(r.state = .occupied ∧ r.train = some slot)) →
          FollowUp { State.putTrain (s.openFrame f) slot y with freeCount := w.freeCount } w ∧
          (SpanLaw s → UrgentLaw s → SpeedFollowUp (fun k => k = slot) s w)) ∧
        (s.Still → s.iu.marks.Wf → s.iu.routes.Wf →
          (∀ k z, s.train? k = some z → k ≠ slot → ∃ z', w.train? k = some z' ∧ z'.identity = z.identity) ∧
          (∃ y', w.train? slot = some y' ∧ y'.identity = y.identity) ∧
          ∀ k r d (i : Nat) sec, s.route? k = some r → r.state = .occupied → r.train = some slot → s.routeRec r = some d →
            d.sections.Nodup → d.sections[i]? = some sec → r.marks[i]? = some SectionMark.reserved → w.mark sec = .free))

/-- R52, R53: HOLD, UNHOLD and SET AUTO act on each train a selector names, by its state, and on nothing else; the refusals
of a selector, which for SET AUTO come before that of a value beyond CLEAR. That the value SET is sent as 0 and CLEAR as
1, that the owner tests it, after the selector, and that a cab naming a number that is no cab's is NOT_PERMITTED, is the
model's choice (log entries 12, 13 and 55); the operand that R173 sends as 0 for ALL is not looked at. -/
def Obligations.SelectorRequests : Prop :=
  (∀ (f : Frame) (st : Nat) (s : State) (form hi lo : Byte) (p : Nat → Bool), RegisterLaw s → s.Quiet →
     s.listening → s.selects st form.toNat (pair hi lo) p →
     (Carries f 0x36 st [form, hi, lo] →
       ∃ w, exec (.hold f) s = .next (w.answeredWith f 0x36 (.done [])) ∧
         FollowUp { s.openFrame f with
           tr := { s.tr with trains := ⟨s.tr.trains.rows.map (fun r =>
             (r.1, if p r.1 = true ∧ r.2.state = .active then { r.2 with state := .held } else r.2))⟩ },
           tc := { s.tc with returnHeld :=
             if s.tr.trains.rows.any (fun r => p r.1 && decide (r.2.state = .turning)) then some true
             else s.tc.returnHeld } } w) ∧
     (Carries f 0x37 st [form, hi, lo] →
       ∃ w, exec (.unhold f) s = .next (w.answeredWith f 0x37 (.done [])) ∧
         FollowUp { s.openFrame f with
           tr := { s.tr with trains := ⟨s.tr.trains.rows.map (fun r =>
             (r.1, if p r.1 = true ∧ r.2.state = .held then { r.2 with state := .active } else r.2))⟩ },
           tc := { s.tc with returnHeld :=
             if s.tr.trains.rows.any (fun r => p r.1 && decide (r.2.state = .turning)) then some false
             else s.tc.returnHeld } } w)) ∧
  (∀ (f : Frame) (st : Nat) (s : State) (form hi lo v : Byte), RegisterLaw s → s.listening →
     Carries f 0x38 st [form, hi, lo, v] →
     ∀ p, s.selects st form.toNat (pair hi lo) p →
     (1 < v.toNat → exec (.setAuto f) s = .next (s.replied f 0x38 (.refused .range []))) ∧
     (v.toNat ≤ 1 → exec (.setAuto f) s = .next (State.answeredWith
         { s.openFrame f with tr := { s.tr with trains := ⟨s.tr.trains.rows.map (fun r =>
           (r.1, if p r.1 = true then { r.2 with auto := decide (v = 0#8) } else r.2))⟩ } } f 0x38 (.done [])))) ∧
  (∀ (f : Frame) (st : Nat) (s : State) (form hi lo : Byte) (r : Reason), s.tr.trains.Wf → s.listening →
     s.badSelector st form.toNat (pair hi lo) r →
     (Carries f 0x36 st [form, hi, lo] → exec (.hold f) s = .next (s.replied f 0x36 (.refused r []))) ∧
     (Carries f 0x37 st [form, hi, lo] → exec (.unhold f) s = .next (s.replied f 0x37 (.refused r []))) ∧
     (∀ v, Carries f 0x38 st [form, hi, lo, v] →
       exec (.setAuto f) s = .next (s.replied f 0x38 (.refused r []))))

/-- R54, R55: KEEP ALIVE, and with it what every request reported to TR does; and the expiry of a cab's keep-alive at its
last tick (log entry 4), which does nothing to a cab whose time has not run out (log entry 35). -/
def Obligations.KeepAlive : Prop :=
  (∀ (f : Frame) (st : Nat) (s : State), Carries f 0x39 st [] → s.listening →
    exec (.keepAlive f) s = .next (s.replied f 0x39 (.done []))) ∧
  (∀ (w : State) (f : Frame) (code : Nat) (a : Answer),
    ((f.station = 0#8 ∨ w.handles f.station.toNat = {}) → w.answeredWith f code a = w.hold code a) ∧
    (f.station ≠ 0#8 → w.handles f.station.toNat ≠ {} → w.tr.keepAlive.Wf →
      ∃ keepAlive, w.answeredWith f code a = State.hold { w with tr := { w.tr with keepAlive := keepAlive } } code a ∧
        ∀ c, Tab.getD .absent keepAlive c =
          if c = f.station.toNat then .counting ((w.plan.station c).keepAlive * 10) else w.keepAliveOf c)) ∧
  ∀ (s : State) (cab : Nat) (order : List Block), s.Quiet → RegisterLaw s → s.tr.keepAlive.Wf →
    ((s.keepAliveOf cab = .absent ∨ s.keepAliveOf cab = .expired ∨ (∃ n, s.keepAliveOf cab = .counting n ∧ 1 < n)) →
      exec (.keepAliveExpiry cab order) s = .next { s with order := order }) ∧
    (∀ n, s.keepAliveOf cab = .counting n → n ≤ 1 →
      ∃ keepAlive w, exec (.keepAliveExpiry cab order) s = .next w ∧
        (∀ c, Tab.getD .absent keepAlive c = if c = cab then .expired else s.keepAliveOf c) ∧
        FollowUp { s with
          order := order, clp := s.clp.record .cabExpired cab 0,
          tr := { s.tr with
            keepAlive := keepAlive,
            trains := ⟨s.tr.trains.rows.map (fun r =>
              (r.1, if r.1 = (s.handles cab).h1 ∨ r.1 = (s.handles cab).h2 ∨ r.1 = (s.handles cab).h3 then
                { r.2 with requested := 0 } else r.2))⟩ } } w)

/-- R45, R42: ENTER TRAIN: its tests in their order, and a completed entry: the lowest empty slot, the owner, the record,
the handle, the stray marks of the span, and the place on the urgent list (R114, R124). That a sense or an owner choice
that is none fails at test 3 is the model's choice (log entry 36), and so is that in test 4 the section before the head is a
successor of the head by any entry, however its point lies (log entry 62). -/
def Obligations.EnterTrain : Prop :=
  ∀ (f : Frame) (st : Nat) (s : State) (nh nl cls lh ll : Byte) (span : List Byte) (dir sense choice : Byte)
    (ids : List Nat) (d : Dir) (tests : List (Prop × Reason)),
    RegisterLaw s → s.tr.handles.Wf → s.tr.stray.Wf → s.listening → span.length ≤ 6 →
    Carries f 0x30 st ([nh, nl, cls, lh, ll, byte span.length] ++ span ++ [dir, sense, choice]) →
    ids = span.map BitVec.toNat → d = (if dir = 0#8 then .east else .west) →
    tests = [
      (choice = 1#8 ∧ st ≠ 0, .notPermitted),
      (s.mc.mode = .setup, .badMode),
      (pair nh nl = 0 ∨ 9999 < pair nh nl ∨ 5 < cls.toNat ∨ 1 < dir.toNat ∨ 1 < sense.toNat ∨ 1 < choice.toNat ∨
        ids = [] ∨ ¬ids.Nodup ∨ ∃ x ∈ ids, x = 0 ∨ 240 < x ∨ s.plan.sections.get? x = none, .range),
      ((∃ pre x y post, ids = pre ++ x :: y :: post ∧ s.plan.joined s.align x y = false) ∨
        (∃ pre x y, ids = pre ++ [x, y] ∧ ∀ e ∈ s.plan.joins s.align y d.opp, e.target ≠ x), .range),
      (st ≠ 0 ∧ ∀ x ∈ ids, ∀ g, s.plan.sections.get? x = some g → g.kind ≠ .staging, .notPermitted),
      (∃ k y, s.train? k = some y ∧ y.number = pair nh nl, .conflict),
      (∃ x ∈ ids, s.occupied x = false ∨ s.inSpan x = true ∨
        (s.mark x ≠ .free ∧ ¬∃ k r, s.mark x = .route k ∧ s.route? k = some r ∧ r.train = none ∧
          s.sectionMark r x = some .entered), .conflict),
      (∀ k, 1 ≤ k → k ≤ 48 → s.train? k ≠ none, .tableFull),
      (st ≠ 0 ∧ (s.handles st).h1 ≠ 0 ∧ (s.handles st).h2 ≠ 0 ∧ (s.handles st).h3 ≠ 0, .tableFull)] →
    (∀ pre p r post, tests = pre ++ (p, r) :: post → p → (∀ q ∈ pre, ¬q.1) →
      exec (.enterTrain f) s = .next (s.replied f 0x30 (.refused r []))) ∧
    ((∀ q ∈ tests, ¬q.1) → ∃ (slot h : Nat) (c : TrainClass) (y : Train) (w : State),
      exec (.enterTrain f) s = .next (w.answeredWith f 0x30 (.done (byte slot :: if st = 0 then [] else [byte h]))) ∧
      (1 ≤ slot ∧ slot ≤ 48 ∧ s.train? slot = none ∧ ∀ k, 1 ≤ k → k < slot → s.train? k ≠ none) ∧
      (st ≠ 0 → 1 ≤ h ∧ h ≤ 3 ∧ (s.handles st).get h = 0 ∧ ∀ j, 1 ≤ j → j < h → (s.handles st).get j ≠ 0) ∧
      [TrainClass.express, .stopping, .goods, .shunting, .lightEngine, .demo][cls.toNat]? = some c ∧
      w.train? slot = some y ∧
      y.identity = (pair nh nl, c, max 1 (min (pair lh ll) 4095),
        (if st ≠ 0 then .cab st h else if choice = 1#8 then .awu else .supervisor), ids, d,
        (if sense = 0#8 then .forward else .backward), false, false) ∧
      (s.Still → y.state = .active ∧ y.requested = 0 ∧ y.granted = 0 ∧ y.route = none ∧ y.dwell = none ∧
        (w.speed slot).emergency = false ∧
        (SpanLaw s → UrgentLaw s → SpeedFollowUp (fun k => k = slot) s w)) ∧
      (∀ k, k ≠ slot → (w.train? k).map Train.identity = (s.train? k).map Train.identity) ∧
      (∀ j, w.handles j = if j = st ∧ st ≠ 0 then (s.handles st).set h slot else s.handles j) ∧
      (∀ x, w.stray x = if x ∈ ids then false else s.stray x) ∧
      w.pm = s.pm ∧ w.mc = s.mc ∧ w.freeCount = s.freeCount)

/-- R46, R47: RETIRE TRAIN: its tests, and a retirement: the slot and the handle are emptied, the cursor may be vacated,
occupied span sections become stray, and no route, stack entry, turn request, urgent order, dwell or demo names the train
any longer. -/
def Obligations.RetireTrain : Prop :=
  ∀ (f : Frame) (st : Nat) (s : State) (hi lo : Byte) (slot : Nat) (x : Train) (staging : Prop),
    RegisterLaw s → s.tr.handles.Wf → s.tr.keepAlive.Wf → s.tr.stray.Wf → s.awu.dwells.Wf →
    (s.tc.queue.filter (fun e => decide (e.train = some x.number))).length ≤ 1 →
    Carries f 0x31 st [hi, lo] → s.listening → s.names st (pair hi lo) slot x →
    staging = (∃ sec ∈ x.span, ∃ g, s.plan.sections.get? sec = some g ∧ g.kind = .staging) →
    ((x.granted ≠ 0 ∨ x.state = .turning) →
      exec (.retireTrain f) s = .next (s.replied f 0x31 (.refused .busy []))) ∧
    (x.granted = 0 → x.state ≠ .turning →
      (st ≠ 0 → ¬staging → exec (.retireTrain f) s = .next (s.replied f 0x31 (.refused .notPermitted []))) ∧
      ((st = 0 ∨ staging) → ∃ w : State, exec (.retireTrain f) s = .next (w.answeredWith f 0x31 (.done [])) ∧
        w.train? slot = none ∧
        (∀ k, k ≠ slot → (w.train? k).map Train.identity = (s.train? k).map Train.identity) ∧
        HandleFreed s x.owner w.tr.handles w.tr.keepAlive ∧
        (∀ sec, w.stray sec = if sec ∈ x.span ∧ s.occupied sec = true then true else s.stray sec) ∧
        w.tr.cursor = s.tr.cursor ∧ w.tr.vacated = (s.tr.vacated || decide (s.tr.cursor = slot)) ∧
        (∀ k r, w.route? k = some r → r.train ≠ some slot) ∧
        (∀ e ∈ w.iu.stack, e.train ≠ some x.number) ∧
        (∀ e ∈ w.tc.queue, e.train ≠ some x.number) ∧
        slot ∉ w.ss.urgent ∧ w.awu.dwells.get? slot = none ∧
        (∀ d, w.awu.running = some d → d.train ≠ x.number) ∧
        w.pm = s.pm ∧ w.mc = s.mc ∧ w.freeCount = s.freeCount))

/-! ### Plan Memory -/

/-- R15, R16, R17: what a PLAN WRITE stores is within the ranges, and what PLAN READ sends of it, written back, is the same
record: no field is lost and none is changed; and the clamping of numeric fields, by a section, a point, a class, a
station, a road and the device parameters. The bytes of a record, with their absent fields, and the ranges of a bridge and
of a grade are the model's reading of R173 and R16 (log entries 10, 11, 16 and 46), and so are tick counts of one byte (log
entry 64). That a section that is no PLATFORM keeps a board written to it is the model's choice (log entry 61). -/
def Obligations.PlanRecordRoundTrip : Prop :=
  ((∀ (params : List Byte) (kind key : Nat) (r : Record),
     decodeAll parsePlanWrite params = some ⟨kind, key, some (some r)⟩ → r.ranged kind) ∧
   ∀ (kind key : Nat) (r : Record), key < 65536 → r.ranged kind →
     decodeAll parsePlanWrite ([byte kind] ++ two key ++ [0#8] ++ r.bytes) = some ⟨kind, key, some (some r)⟩) ∧
  (∀ (a b c d e g h : Byte),
     (decodeAll parseSection [a, b, 0#8, c, 0#8, d, 0#8, 0#8, 0#8] =
       some (some (.sect ⟨max 1 (min (pair a b) 4095), c.toNat, .plain, max 1 (min d.toNat 63), [], [], 0⟩))) ∧
     (decodeAll parsePoint [1#8, 0#8, 1#8, 0#8, 2#8, 0#8, 3#8, 0#8, 4#8, a, b, c] =
       some (some (.point ⟨1, 1, 2, 3, 4, max 1 (min a.toNat 10), max 2 (min b.toNat 50), max 1 (min c.toNat 63)⟩))) ∧
     (decodeAll parseClass [a, b, c] =
       some (some (.cls ⟨max 1 (min a.toNat 63), max 1 (min b.toNat 8), max 1 (min c.toNat 32)⟩))) ∧
     (decodeAll parseStation [a, b] = some (some (.station ⟨min a.toNat 15, max 1 (min b.toNat 60)⟩))) ∧
     (decodeAll parseRoad [a, 1#8, 0#8] = some (some (.road ⟨a.toNat % 48, 1, false⟩))) ∧
     (decodeAll parseDevice [a, b, c, d, 1#8, 0#8, 0#8, 0#8, e, g, h, a] =
       some (some (.device
         { approachLock := max 1 (min a.toNat 120), clearDebounce := max 3 (min b.toNat 15),
           lowSpeed := max 1 (min c.toNat 63), cooldown := d.toNat, policy := .keepNewest,
           inputLength := max 8 (min ((pair e g + 7) / 8 * 8) 512),
           outputLength := max 8 (min ((pair h a + 7) / 8 * 8) 512) }))))

/-- R15: PLAN WRITE and the removal of a record: the tests in order, and what a completed one leaves: that one record, the
other records, the plan-valid flag clear, the output bits that only the old record names at 0, a written point at its
detection, a written signal at STOP, the TC UNINDEXED after a turntable write. Test 6 refuses a record with an id outside
its table, a value that is none of its field's, a console code above 5, a bit number above 511 or a field its kind does not
have, such as the caution lamps of a SHUNT signal; the board of a section that is no PLATFORM is not refused but stored, by
the model's choice (log entry 61); a list beyond its maximum never reaches the owner. The bytes of a record are the model's
reading of R173 (log entries 10, 11 and 64). -/
def Obligations.PlanWriteStoresOneRecord : Prop :=
  (∀ (f : Frame) (st : Nat) (s : State) (params : List Byte), s.listening → Carries f 0x11 st params →
    (decodeAll parsePlanWrite params = none →
      exec (.planWrite f) s = .next ((s.openFrame f).hold 0x11 (.refused .range []))) ∧
    ∀ kind key, decodeAll parsePlanWrite params = some ⟨kind, key, some none⟩ → st = 0 → s.mc.mode = .setup →
      s.pm.saving = false → exec (.planWrite f) s = .next (s.replied f 0x11 (.refused .range []))) ∧
  (∀ (kind : Nat) (a b : Byte) (fields : List Byte) (bad : Prop), kind ≤ 12 → bad →
    ((kind = 4 ∧ fields = [a, b, 0#8] ∧ (bad ↔ b.toNat = 0 ∨ 240 < b.toNat)) ∨
      (kind = 0 ∧ fields = [0#8, 9#8, 0#8, 9#8, 0#8, 9#8, 0#8, 0#8, a] ∧ (bad ↔ 8 < a.toNat)) ∨
      (kind = 0 ∧ fields = [0#8, 9#8, 0#8, 9#8, a, 9#8, 0#8, 0#8, 0#8] ∧ (bad ↔ 4 < a.toNat)) ∨
      (kind = 12 ∧ fields = [9#8, 9#8, 9#8, 9#8, 0#8, 0#8, a, 0#8, 0#8, 8#8, 0#8, 8#8] ∧ (bad ↔ 5 < a.toNat)) ∨
      (kind = 7 ∧ fields = [a, b, 0#8, 9#8, 9#8] ∧ (bad ↔ 511 < pair a b)) ∨
      (kind = 2 ∧ fields = [1#8, 9#8, 0#8, 0#8, 0#8, 9#8, a, b] ++ List.replicate 6 255#8 ∧ (bad ↔ pair a b ≠ 65535))) →
    ∀ key, key < 65536 →
      decodeAll parsePlanWrite ([byte kind] ++ two key ++ [0#8] ++ fields) = some ⟨kind, key, some none⟩) ∧
  (∀ (key : Nat) (n : Byte) (fields : List Byte), key < 65536 → 3 < n.toNat →
    decodeAll parsePlanWrite ([8#8] ++ two key ++ [0#8, n] ++ fields) = none) ∧
  ∀ (f : Frame) (st : Nat) (s : State) (kind key : Nat) (new : Option Record) (params : List Byte), s.listening →
    key < 65536 → kind ≤ 12 → (∀ r, new = some r → r.ranged kind) →
    params = [byte kind] ++ two key ++ (match new with | some r => 0#8 :: r.bytes | none => [1#8]) →
    Carries f 0x11 st params →
    (st ≠ 0 → exec (.planWrite f) s = .next (s.replied f 0x11 (.refused .notPermitted []))) ∧
    (st = 0 → s.mc.mode ≠ .setup → exec (.planWrite f) s = .next (s.replied f 0x11 (.refused .badMode []))) ∧
    (st = 0 → s.mc.mode = .setup → s.pm.saving = true →
      exec (.planWrite f) s = .next (s.replied f 0x11 (.refused .busy []))) ∧
    (st = 0 → s.mc.mode = .setup → s.pm.saving = false → (keyInRange kind key = false ∨ (new = none ∧ 9 ≤ kind)) →
      exec (.planWrite f) s = .next (s.replied f 0x11 (.refused .range []))) ∧
    (st = 0 → s.mc.mode = .setup → s.pm.saving = false → keyInRange kind key = true → (new = none → kind ≤ 8) →
      PlanForm s.plan → s.iu.points.Wf → s.iu.signals.Wf → s.due.turnEnds = [] →
      ∃ w : State, exec (.planWrite f) s = .next (w.answeredWith f 0x11 (.done [])) ∧
        w.plan.lookup kind key = new ∧
        (∀ kind' key', keyInRange kind' key' = true → ¬(kind' = kind ∧ key' = key) →
          w.plan.lookup kind' key' = s.plan.lookup kind' key') ∧
        w.pm.valid = false ∧ w.pm.store = s.pm.store ∧ w.pm.saving = false ∧
        (kind ≠ 1 → w.iu.points = s.iu.points) ∧
        (∀ j, (kind = 1 → j ≠ key) → w.point j = s.point j) ∧
        (kind = 1 → (w.point key).locks = 0 ∧ (w.point key).fault = false ∧ (w.point key).demand = none ∧
          (w.point key).throw = none ∧
          (new = none → (w.point key).state = .undetected) ∧
          ∀ r, new = some (.point r) → (w.point key).state =
            match s.input r.normalDetect, s.input r.reverseDetect with
            | true, false => .normal
            | false, true => .reverse
            | _, _ => .undetected) ∧
        (kind = 2 → (w.signal key).aspect = .stop) ∧
        w.tc = (if kind = 9 then {} else s.tc) ∧
        w.iu.routes = s.iu.routes ∧ w.iu.marks = s.iu.marks ∧ w.iu.stack = s.iu.stack ∧ w.mc = s.mc ∧ w.clp = s.clp ∧
        w.tr = { s.tr with trains := w.tr.trains } ∧ w.fs = { s.fs with image := w.fs.image } ∧
        w.awu.queue = s.awu.queue ∧ w.awu.running = s.awu.running ∧
        (s.fs.image.Wf → ∀ old bit, s.plan.lookup kind key = some old → bit ∈ old.outputs →
          (∀ r, new = some r → bit ∉ r.outputs) → (∀ g ∈ w.plan.signals.rows, bit ∉ g.2.lampBits) →
          (∀ b ∈ w.plan.buttons.rows, b.2.lamp ≠ bit) → w.out bit = false))

/-- R17, R173: PLAN READ from every station in every mode: a record as stored, or, under kind 255 and key 0, the summary;
any other kind is refused RANGE, by the link itself and without a report to TR, as a kind that cannot be decoded (log entry
12). The bytes of a record and of the summary are the model's reading of R173 (log entries 10, 11, 15 and 64). -/
def Obligations.PlanRead : Prop :=
  ∀ (f : Frame) (st : Nat) (s : State) (kind hi lo : Byte), Carries f 0x12 st [kind, hi, lo] → s.listening →
    (kind.toNat ≤ 12 →
      (keyInRange kind.toNat (pair hi lo) = false →
        exec (.planRead f) s = .next (s.replied f 0x12 (.refused .range []))) ∧
      (keyInRange kind.toNat (pair hi lo) = true →
        (s.plan.lookup kind.toNat (pair hi lo) = none →
          exec (.planRead f) s = .next (s.replied f 0x12 (.refused .noSuch []))) ∧
        ∀ r, s.plan.lookup kind.toNat (pair hi lo) = some r →
          exec (.planRead f) s = .next (s.replied f 0x12 (.done r.bytes)))) ∧
    (kind = 255#8 → pair hi lo = 0 →
      exec (.planRead f) s = .next (s.replied f 0x12 (.done (
        [if s.pm.valid then 1#8 else 0#8, if s.pm.store = none then 1#8 else 0#8, if s.pm.saving then 1#8 else 0#8,
          byte s.plan.sections.keys.length, byte s.plan.points.keys.length, byte s.plan.signals.keys.length] ++
        two s.plan.routes.keys.length ++
        [byte s.plan.roads.keys.length, byte s.plan.triggers.keys.length, byte s.plan.demos.keys.length,
          byte s.plan.buttons.keys.length, byte s.plan.boards.keys.length])))) ∧
    (kind = 255#8 → pair hi lo ≠ 0 → exec (.planRead f) s = .next (s.replied f 0x12 (.refused .range []))) ∧
    (12 < kind.toNat → kind ≠ 255#8 → exec (.planRead f) s = .next ((s.openFrame f).hold 0x12 (.refused .range [])))

/-- R19, R21: PLAN CHECK sets or clears the plan-valid flag and names the first failure; PLAN SAVE and the end of a save;
a save that is not in flight does not end (log entry 35). -/
def Obligations.PlanCheckAndSave : Prop :=
  (∀ (f : Frame) (st : Nat) (s : State), Carries f 0x13 st [] → s.listening →
    (st ≠ 0 → exec (.planCheck f) s = .next (s.replied f 0x13 (.refused .notPermitted []))) ∧
    (st = 0 → s.plan.check = none →
      exec (.planCheck f) s = .next (State.answeredWith { s.openFrame f with pm := { s.pm with valid := true } } f 0x13
        (.done []))) ∧
    (∀ item kind key, st = 0 → s.plan.check = some (item, kind, key) →
      exec (.planCheck f) s = .next (State.answeredWith { s.openFrame f with pm := { s.pm with valid := false } } f 0x13
        (.refused .planInvalid ([byte item, byte kind] ++ two key))))) ∧
  (∀ (f : Frame) (st : Nat) (s : State), Carries f 0x14 st [] → s.listening →
    exec (.planSave f) s = .next
      (if st ≠ 0 then s.replied f 0x14 (.refused .notPermitted [])
      else if s.pm.valid = false then s.replied f 0x14 (.refused .planInvalid [])
      else if s.pm.saving = true then s.replied f 0x14 (.refused .busy [])
      else State.answeredWith { s.openFrame f with pm := { s.pm with saving := true, store := none } } f 0x14
        (.accepted []))) ∧
  ∀ (s : State) (matched : Bool),
    (s.pm.saving = false → exec (.saveEnd matched) s = .next s) ∧
    (s.pm.saving = true → exec (.saveEnd matched) s = .next
      (if matched = true then
        { s with
          pm := { s.pm with saving := false, store := some s.plan }, clp := s.clp.record .planSaved 0 0 }
      else
        { s with
          pm := { s.pm with saving := false, store := none }, clp := s.clp.record .planSaveFailed 0 0 }))

/-- R13, R20: what PLAN CHECK guarantees of a plan it passes, code by code, the bits that its records name and the path of
each route (R7) among it. That two bits of one record may be the same is read from R19 and R20 (log entry 27). That a
board's sections name the board in their own records is tested under code 23 by the model's choice (log entry 41), and so
are the joins that a path may take: the point settings alone meet a condition (log entry 40), the join behind the last
section need not be set (log entry 39), and bridge joins stand at the alignment the route requires (log entry 59). -/
def Obligations.PassedPlanIsSound : Prop :=
  ∀ p : Plan, PlanForm p → p.check = none →
    (∀ kind key bit, p.namesInput kind key bit →
      bit < p.device.inputLength ∧ ∀ kind' key', p.namesInput kind' key' bit → kind' = kind ∧ key' = key) ∧
    (∀ kind key bit, p.namesOutput kind key bit →
      bit < p.device.outputLength ∧ ∀ kind' key', p.namesOutput kind' key' bit → kind' = kind ∧ key' = key) ∧
    ([p.device.console1, p.device.console2, p.device.console3].filter (fun c => decide (c ≠ 0))).Nodup ∧
    p.sections.rows ≠ [] ∧
    (∀ x r, p.sections.get? x = some r → r.board ≠ 0 →
      r.kind = .platform ∧ ∃ b, p.boards.get? r.board = some b ∧ x ∈ b.sections) ∧
    (∀ x r, p.sections.get? x = some r → r.detector < p.device.inputLength ∧
      (∀ y q, p.sections.get? y = some q → q.detector = r.detector → y = x) ∧
      (∀ d e, ((d = .east ∧ e ∈ r.east) ∨ (d = .west ∧ e ∈ r.west)) →
        e.target ≠ x ∧ p.isBridge e.target = false ∧ p.sections.get? e.target ≠ none ∧
        (∃ b ∈ p.entries e.target (if e.flip then d else d.opp), b.target = x ∧ b.flip = e.flip) ∧
        ∀ c, e.cond = some c → ∃ q, p.points.get? c.1 = some q ∧ q.sect = x) ∧
      (r.kind = .bridge → r.east = [] ∧ r.west = []) ∧
      (r.kind = .road → ∀ y q, p.roads.get? y = some q → q.sect = x → (if q.flip = true then r.east else r.west) = []) ∧
      ∀ a b, (r.east = [a, b] ∨ r.west = [a, b]) →
        ∃ q, (a.cond = some (q, .normal) ∧ b.cond = some (q, .reverse)) ∨
          (a.cond = some (q, .reverse) ∧ b.cond = some (q, .normal))) ∧
    (∀ x r, p.points.get? x = some r → p.sections.get? r.sect ≠ none ∧ r.pulse < r.throw ∧
      r.normalDetect < p.device.inputLength ∧ r.reverseDetect < p.device.inputLength ∧
      r.normalDrive < p.device.outputLength ∧ r.reverseDrive < p.device.outputLength) ∧
    (∀ x y r q, p.signals.get? x = some r → p.signals.get? y = some q → r.sect = q.sect → r.dir = q.dir → x = y) ∧
    (∀ x r, p.signals.get? x = some r → p.sections.get? r.sect ≠ none ∧
      (r.approach ≠ 0 → ∃ a, p.sections.get? r.approach = some a ∧ ∃ e ∈ a.east ++ a.west, e.target = r.sect) ∧
      (r.kind = .main → r.caution ≠ none ∧ r.second ≠ none ∧ r.clear ≠ none) ∧
      (r.kind = .shunt → r.caution = none ∧ r.second = none ∧ r.clear = none ∧ r.subsidiary ≠ none)) ∧
    (∀ x r, p.routes.get? x = some r →
      (r.sections ++ r.overlap).Nodup ∧
      (∃ g, p.signals.get? r.entry = some g ∧ r.sections.head? = some g.sect ∧ (r.cls = .main → g.kind = .main) ∧
        (r.cls = .shunt → g.kind = .main → g.subsidiary ≠ none) ∧
        ∀ align, p.alignedFor r align → ∃ z f, p.runsOn r align g.sect g.dir r.sections.tail z f ∧
          (r.exit = 0 → r.overlap = []) ∧
          (r.exit ≠ 0 → ∃ h, p.signals.get? r.exit = some h ∧
            (∃ e ∈ p.joins align z f, e.target = h.sect ∧ h.dir = (if e.flip = true then f.opp else f) ∧
              ∀ q pos, e.cond = some (q, pos) → ∀ y ∈ r.points, y.1 = q → y.2 = pos) ∧
            (r.overlap ≠ [] → r.overlap.head? = some h.sect ∧ ∃ z' f', p.runsOn r align z f r.overlap z' f'))) ∧
      ((r.points ++ r.flanks).map Prod.fst).Nodup ∧
      (∀ y ∈ r.points, ∃ q, p.points.get? y.1 = some q ∧ q.sect ∈ r.sections ++ r.overlap) ∧
      (∀ y ∈ r.flanks, ∃ q, p.points.get? y.1 = some q ∧ q.sect ∉ r.sections ++ r.overlap) ∧
      ((∃ sec ∈ r.sections ++ r.overlap, p.isBridge sec = true) ↔ r.requirement ≠ none) ∧
      (∀ road e, r.requirement = some (road, e) → p.turntable.present = true ∧ p.roads.get? road ≠ none)) ∧
    (p.turntable.present = true → p.roads.rows ≠ [] ∧
      ∀ x, (∃ r, p.sections.get? x = some r ∧ r.kind = .bridge) ↔ x = p.turntable.bridge) ∧
    (p.turntable.present = false → p.roads.rows = [] ∧
      ∀ x r, p.sections.get? x = some r → r.kind ≠ .bridge ∧ r.kind ≠ .road) ∧
    (∀ x r, p.roads.get? x = some r → (∃ q, p.sections.get? r.sect = some q ∧ q.kind = .road) ∧
      ∀ y q, p.roads.get? y = some q → (q.index = r.index ∨ q.sect = r.sect) → y = x) ∧
    (∀ x r, p.sections.get? x = some r → r.kind = .road → ∃ y q, p.roads.get? y = some q ∧ q.sect = x) ∧
    (∀ x r, p.triggers.get? x = some r → p.sections.get? r.sect ≠ none ∧ r.classes ≠ [] ∧
      ∀ k, (r.action = .requestRoute k ∨ ∃ n, r.action = .dwell n k) → p.routes.get? k ≠ none) ∧
    (∀ x r, p.demos.get? x = some r →
      match r.kind with
      | .run k _ => p.routes.get? k ≠ none
      | .turn k _ => p.roads.get? k ≠ none ∧ p.turntable.present = true) ∧
    (∀ x r, p.buttons.get? x = some r → p.demos.get? r.demo ≠ none) ∧
    (∀ x r, p.boards.get? x = some r → r.sections.Nodup ∧
      ∀ sec ∈ r.sections, ∃ q, p.sections.get? sec = some q ∧ q.kind = .platform ∧ q.board = x)

/-- R18, R22: PLAN CLEAR and PLAN LOAD: the tests in order, and what a completed one leaves: the whole plan replaced, the
plan-valid flag clear, the store as it was, the output bits of the old plan at 0, every point at its detection or
UNDETECTED, every signal at STOP, the TC UNINDEXED. -/
def Obligations.PlanClearAndLoad : Prop :=
  ∀ (f : Frame) (st : Nat) (s : State) (c : Instr) (code : Nat) (p : Option Plan),
    ((c = .planClear f ∧ code = 0x10 ∧ p = some {}) ∨ (c = .planLoad f ∧ code = 0x15 ∧ p = s.pm.store)) →
    Carries f code st [] → s.listening →
    (st ≠ 0 → exec c s = .next (s.replied f code (.refused .notPermitted []))) ∧
    (st = 0 → s.mc.mode ≠ .setup → exec c s = .next (s.replied f code (.refused .badMode []))) ∧
    (st = 0 → s.mc.mode = .setup → s.pm.saving = true → exec c s = .next (s.replied f code (.refused .busy []))) ∧
    (st = 0 → s.mc.mode = .setup → s.pm.saving = false →
      (p = none → exec c s = .next (s.replied f code (.refused .noSuch []))) ∧
      ∀ new, p = some new → PlanForm new → s.due.turnEnds = [] →
        ∃ w : State, exec c s = .next (w.answeredWith f code (.done [])) ∧
          w.pm = { plan := new, valid := false, store := s.pm.store, saving := false } ∧
          (∀ k, w.point k = match new.points.get? k with
            | none => {}
            | some r =>
              { state := match s.input r.normalDetect, s.input r.reverseDetect with
                  | true, false => .normal
                  | false, true => .reverse
                  | _, _ => .undetected }) ∧
          (∀ k g, new.signals.get? k = some g → (w.signal k).aspect = .stop) ∧
          w.tc = {} ∧ w.iu.routes = s.iu.routes ∧ w.iu.marks = s.iu.marks ∧ w.iu.stack = s.iu.stack ∧
          w.mc = s.mc ∧ w.clp = s.clp ∧ w.tr = { s.tr with trains := w.tr.trains } ∧
          w.fs = { s.fs with image := w.fs.image } ∧ w.awu.queue = s.awu.queue ∧ w.awu.running = s.awu.running ∧
          (s.fs.image.Wf → ∀ bit,
            ((∃ r ∈ s.plan.points.rows, bit = r.2.normalDrive ∨ bit = r.2.reverseDrive) ∨
              (∃ r ∈ s.plan.signals.rows, bit ∈ r.2.lampBits) ∨ (∃ r ∈ s.plan.buttons.rows, bit = r.2.lamp) ∨
              (s.plan.turntable.present = true ∧
                bit ∈ [s.plan.turntable.cwBit, s.plan.turntable.acwBit, s.plan.turntable.releaseBit])) →
            (∀ g ∈ new.signals.rows, bit ∉ g.2.lampBits) → (∀ b ∈ new.buttons.rows, b.2.lamp ≠ bit) →
            w.out bit = false))

/-! ### Modes -/

/-- R157: a mode request from a station that may not send it, or in a mode that does not take it; and a request that leaves
the mode as it was, which changes nothing. -/
def Obligations.ModeRequestsThatChangeNothing : Prop :=
  ∀ (f : Frame) (st : Nat) (s : State), s.listening →
    (∀ (c : Instr) (code : Nat) (r : Reason), Carries f code st [] →
      ((c = .goRun f ∧ code = 0x20 ∧ st ≠ 0 ∧ r = .notPermitted) ∨
        (c = .goRun f ∧ code = 0x20 ∧ st = 0 ∧ s.mc.mode = .stop ∧ r = .badMode) ∨
        (c = .goRun f ∧ code = 0x20 ∧ st = 0 ∧ s.mc.mode = .setup ∧ s.pm.valid = false ∧ r = .planInvalid) ∨
        (c = .goQuiet f ∧ code = 0x21 ∧ st ≠ 0 ∧ r = .notPermitted) ∨
        (c = .goQuiet f ∧ code = 0x21 ∧ st = 0 ∧ (s.mc.mode = .setup ∨ s.mc.mode = .stop) ∧ r = .badMode) ∨
        (c = .stopAll f ∧ code = 0x22 ∧ s.mc.mode = .setup ∧ r = .badMode) ∨
        (c = .resume f ∧ code = 0x23 ∧ st ≠ 0 ∧ r = .notPermitted) ∨
        (c = .resume f ∧ code = 0x23 ∧ st = 0 ∧ s.mc.mode ≠ .stop ∧ r = .badMode) ∨
        (c = .resume f ∧ code = 0x23 ∧ st = 0 ∧ s.mc.mode = .stop ∧ s.fs.chain = .fault ∧ r = .faultPresent)) →
      exec c s = .next (s.replied f code (.refused r []))) ∧
    (∀ (c : Instr) (code : Nat), Carries f code st [] →
      ((c = .goRun f ∧ code = 0x20 ∧ st = 0 ∧ s.mc.mode = .run) ∨
        (c = .goQuiet f ∧ code = 0x21 ∧ st = 0 ∧ s.mc.mode = .quiet) ∨
        (c = .stopAll f ∧ code = 0x22 ∧ s.mc.mode = .stop)) →
      s.Quiet → ∃ w, exec c s = .next (w.answeredWith f code (.done [])) ∧ FollowUp (s.openFrame f) w)

/-- R156, R157, R159: the changes of mode that requests make: the mode and the remembered mode; in STOP no train is granted
anything, no demo runs and the broadcast is sent or pending; in QUIET no demo runs or waits; on leaving SETUP every
occupied section is stray. With no route, turn or demo waiting or running, nothing else changes but the turntable; a train
that STOP brings down bears the emergency mark and joins the urgent list. -/
def Obligations.ChangesOfMode : Prop :=
  ∀ (f : Frame) (st : Nat) (s : State) (c : Instr) (code : Nat) (new : Mode) (remembered : Option Mode) (subject : Nat),
    s.listening → Carries f code st [] → s.tr.trains.Wf → s.tr.stray.Wf →
    ((c = .goRun f ∧ code = 0x20 ∧ st = 0 ∧ ((s.mc.mode = .setup ∧ s.pm.valid = true) ∨ s.mc.mode = .quiet) ∧
        new = .run ∧ remembered = none) ∨
      (c = .goQuiet f ∧ code = 0x21 ∧ st = 0 ∧ s.mc.mode = .run ∧ new = .quiet ∧ remembered = none) ∨
      (c = .stopAll f ∧ code = 0x22 ∧ (s.mc.mode = .run ∨ s.mc.mode = .quiet) ∧ new = .stop ∧
        remembered = some s.mc.mode) ∨
      (c = .resume f ∧ code = 0x23 ∧ st = 0 ∧ s.mc.mode = .stop ∧ s.fs.chain ≠ .fault ∧ (new = .run ∨ new = .quiet) ∧
        s.mc.remembered = some new ∧ remembered = none)) →
    subject = (match new with | .setup => 0 | .run => 1 | .quiet => 2 | .stop => 3) →
    ∃ w : State, exec c s = .next (w.answeredWith f code (.done [])) ∧
      w.mc = { mode := new, remembered := remembered, ticks := s.mc.ticks } ∧
      w.pm = s.pm ∧ w.fs = { s.fs with image := w.fs.image } ∧
      (∀ k, (w.train? k).map Train.identity = (s.train? k).map Train.identity) ∧
      (∀ x, w.stray x =
        (s.stray x || (decide (s.mc.mode = .setup ∧ s.plan.sections.get? x ≠ none) && s.occupied x))) ∧
      (new = .stop → w.awu.running = none ∧ (∀ k x, w.train? k = some x → x.granted = 0) ∧
        (s.ss.port = none → w.ss.port = some ⟨0, 0, .forward, true⟩) ∧
        (s.ss.port ≠ none → w.ss.port = s.ss.port ∧ w.ss.broadcast = true)) ∧
      (s.mc.mode = .stop → w.ss.broadcast = false) ∧
      (new = .quiet → w.awu.running = none ∧ w.awu.queue = []) ∧
      (s.due.settled = true → s.iu.stack = [] → s.awu.queue = [] → s.awu.running = none → s.tc.queue = [] →
        s.tc.burst = none → s.tc.stopEnd = false → s.tc.state ≠ .halted →
        FollowUp { s.openFrame f with
          mc := { mode := new, remembered := remembered, ticks := s.mc.ticks },
          clp := s.clp.record .modeChanged subject 0,
          tr := { s.tr with stray := w.tr.stray },
          tc :=
            if new = .stop ∧ s.tc.state = .moving then { s.tc with state := .halted, timer := none }
            else if new = .stop ∧ s.tc.state = .homing ∧ s.tc.phase ≠ some .engage then
              { s.tc with state := .unindexed, pos := none, phase := none, index := none, timer := none }
            else s.tc } w ∧
        (SpanLaw s → UrgentLaw s → SpeedFollowUp (fun _ => False) { s with ss := { s.ss with
          broadcast := if new = .stop then true else if s.mc.mode = .stop then false else s.ss.broadcast } } w))

/-- R160: RESET LAYOUT: NOT_PERMITTED but from the supervisor; in every mode every block takes its values, the plan, the
debounce state, the console lines and the mask stay, and an order in flight runs on. -/
def Obligations.ResetLayout : Prop :=
  ∀ (f : Frame) (st : Nat) (s : State), s.listening → Carries f 0x24 st [] →
    (st ≠ 0 → exec (.resetLayout f) s = .next (s.replied f 0x24 (.refused .notPermitted []))) ∧
    (st = 0 → PlanForm s.plan → ∃ w : State, exec (.resetLayout f) s = .next (w.answeredWith f 0x24 (.done [])) ∧
      w.pm = s.pm ∧ w.mc = { mode := .setup, remembered := none, ticks := s.mc.ticks } ∧ w.tr = {} ∧
      w.iu.routes = ⟨[]⟩ ∧ w.iu.marks = ⟨[]⟩ ∧ w.iu.stack = [] ∧
      (∀ k, w.point k = match s.plan.points.get? k with
        | none => {}
        | some r =>
          { state := match s.input r.normalDetect, s.input r.reverseDetect with
              | true, false => .normal
              | false, true => .reverse
              | _, _ => .undetected }) ∧
      (∀ k g, s.plan.signals.get? k = some g → (w.signal k).aspect = .stop) ∧
      w.tc = (if s.tc.state = .locked then { state := .locked, pos := s.tc.pos } else {}) ∧
      (w.awu.queue = [] ∧ w.awu.running = none ∧ w.awu.dwells = ⟨[]⟩ ∧ w.awu.cooldown = ⟨[]⟩ ∧ w.awu.views = ⟨[]⟩ ∧
        w.awu.line1 = s.awu.line1 ∧ w.awu.line2 = s.awu.line2 ∧ w.awu.line3 = s.awu.line3) ∧
      w.clp = { s.clp with notices := [⟨.modeChanged, 0, 1, 0⟩], dropped := false, noticeLost := false, selection := none } ∧
      w.fs = { s.fs with chain := .good, recovery := 0, fieldFault := false, image := w.fs.image } ∧
      (∀ bit, (∀ g ∈ s.plan.signals.rows, g.2.stop ≠ bit) → (∀ b ∈ s.plan.buttons.rows, b.2.lamp ≠ bit) →
        w.out bit = false) ∧
      (∀ g ∈ s.plan.signals.rows,
        (∀ h ∈ s.plan.signals.rows, some g.2.stop ∉ [h.2.caution, h.2.second, h.2.clear, h.2.subsidiary]) →
        (∀ b ∈ s.plan.buttons.rows, b.2.lamp ≠ g.2.stop) → w.out g.2.stop = true) ∧
      w.ss.trains = ⟨[]⟩ ∧ w.ss.urgent = [] ∧ w.ss.refresh = 0 ∧
      (s.ss.port = none → w.ss.port = some ⟨0, 0, .forward, true⟩ ∧ w.ss.broadcast = false) ∧
      (s.ss.port ≠ none → w.ss.port = s.ss.port ∧ w.ss.broadcast = true))

/-! ### The Interlocking Unit -/

/-- R82, R83, R84, R108: SET ROUTE refused, or put on the route stack: the first check that fails, in order, with the item
that fails it. The layout of the stacked reply, its leading 1 and the 0 that stands for the item of check 7, is the model's
choice (log entry 15). -/
def Obligations.SetRouteRefusedOrStacked : Prop :=
  ∀ (f : Frame) (st : Nat) (s : State) (rh rl th tl level stack : Byte) (train : Option Nat), RouteLaw s →
    RegisterLaw s → s.listening → (stack = 0#8 ∨ stack = 1#8) → Carries f 0x40 st [rh, rl, th, tl, level, stack] →
    s.asksFor st (pair th tl) train →
    (s.working = false → exec (.setRoute f) s = .next (s.replied f 0x40 (.refused .badMode []))) ∧
    (s.working = true →
      ((pair rh rl = 0 ∨ 400 < pair rh rl ∨ (∃ n, train = some n ∧ 9999 < n)) →
        exec (.setRoute f) s = .next (s.replied f 0x40 (.refused .range []))) ∧
      (1 ≤ pair rh rl → pair rh rl ≤ 400 → (∀ n, train = some n → 1 ≤ n ∧ n ≤ 9999) →
        ∀ c i, s.failsCheck (pair rh rl) train c i →
          (∀ c' i', c' < c → ¬s.failsCheck (pair rh rl) train c' i') →
          (c ≤ 2 → exec (.setRoute f) s = .next (s.replied f 0x40 (.refused .noSuch []))) ∧
          (stack = 0#8 → 3 ≤ c → c ≤ 6 →
            exec (.setRoute f) s = .next (s.replied f 0x40 (.refused .conflict [byte c, byte i]))) ∧
          (stack = 0#8 → c = 7 → exec (.setRoute f) s = .next (s.replied f 0x40 (.refused .tableFull []))) ∧
          (stack = 1#8 → 3 ≤ c →
            ((∃ e ∈ s.iu.stack, e.route = pair rh rl) →
              exec (.setRoute f) s = .next (s.replied f 0x40 (.refused .conflict []))) ∧
            ((∀ e ∈ s.iu.stack, e.route ≠ pair rh rl) → s.iu.stack.length = 16 →
              exec (.setRoute f) s = .next (s.replied f 0x40 (.refused .tableFull []))) ∧
            ((∀ e ∈ s.iu.stack, e.route ≠ pair rh rl) → s.iu.stack.length < 16 → s.Quiet →
              ∀ l, l = max (min level.toNat 15) (if st = 0 then 0 else (s.plan.station st).floor) →
              ∃ w, exec (.setRoute f) s = .next (w.answeredWith f 0x40 (.accepted [1#8, byte c, byte i, byte l])) ∧
                FollowUp { s.openFrame f with iu := { s.iu with
                  stack := s.iu.stack ++ [⟨pair rh rl, train, st, l, l⟩] } } w))))

/-- R78, R85, R86: a SET ROUTE that passes every check: the record in the lowest empty slot, the reservations, the locks,
the commands with their drive outputs, and at once CLEARED with ROUTE_SET where nothing has to move. The leading 0 of the
reply is the model's layout (log entry 15), and a pulse still timing the other drive output is replaced by the model's
choice (log entry 17). R110 to R112: a retry scan, such as the one RESUME runs, grants the waiting request of lowest level
that passes, the oldest of those: its route is activated, its entry leaves the stack, and the older entries not yet tried
age by one level; where none passes nothing changes. -/
def Obligations.SetRouteActivates : Prop :=
  (∀ (f : Frame) (st : Nat) (s : State) (rh rl th tl level stack : Byte) (train slotOfTrain : Option Nat) (d : RouteRec)
    (moving : Nat), RouteLaw s → RegisterLaw s → s.iu.marks.Wf → s.iu.points.Wf → s.Still → s.working = true →
    s.listening → (stack = 0#8 ∨ stack = 1#8) → Carries f 0x40 st [rh, rl, th, tl, level, stack] →
    s.asksFor st (pair th tl) train → 1 ≤ pair rh rl → pair rh rl ≤ 400 →
    (∀ n, train = some n → 1 ≤ n ∧ n ≤ 9999) → (∀ c i, ¬s.failsCheck (pair rh rl) train c i) →
    s.plan.routes.get? (pair rh rl) = some d → (d.sections ++ d.overlap).Nodup →
    ((d.points ++ d.flanks).map Prod.fst).Nodup →
    ((train = none ∧ slotOfTrain = none) ∨
      ∃ k x, s.train? k = some x ∧ train = some x.number ∧ slotOfTrain = some k) →
    moving = ((d.points ++ d.flanks).filter (fun x => decide ((s.point x.1).state ≠ x.2.settled))).length →
    ∃ slot marks points w,
      exec (.setRoute f) s = .next (w.answeredWith f 0x40 (.accepted [0#8, byte slot])) ∧
      (1 ≤ slot ∧ slot ≤ 32 ∧ s.route? slot = none ∧ ∀ k, 1 ≤ k → k < slot → s.route? k ≠ none) ∧
      (∀ x, Tab.getD .free marks x =
        if x ∈ d.sections then .route slot else if x ∈ d.overlap then .overlap slot else s.mark x) ∧
      (∀ p, (∀ q, (p, q) ∉ d.points ++ d.flanks) → Tab.getD {} points p = s.point p) ∧
      (∀ p q, (p, q) ∈ d.points ++ d.flanks → Tab.getD {} points p =
        let locked : Point := { s.point p with locks := (s.point p).locks + 1, demand := some q }
        if (s.point p).state = q.settled ∨ (s.point p).state = q.moving then locked
        else
          match s.plan.points.get? p with
          | none => locked
          | some r => { locked with state := q.moving, pulse := some (q, r.pulse), throw := some r.throw }) ∧
      FollowUp { s.openFrame f with
        iu := { s.iu with
          routes := s.iu.routes.put slot
            { route := pair rh rl, train := slotOfTrain, station := st,
              state := if moving = 0 then .cleared else .setting,
              marks := d.sections.map (fun _ => .reserved), moving := moving, approach := none },
          marks := marks, points := points },
        tr := { s.tr with trains := ⟨s.tr.trains.rows.map (fun r =>
          (r.1, if moving = 0 ∧ slotOfTrain = some r.1 ∧ r.2.route = none then { r.2 with route := some slot }
            else r.2))⟩ },
        clp := if moving = 0 then s.clp.record .routeSet (pair rh rl) 0 else s.clp } w ∧
      ∀ p q r, (p, q) ∈ d.points ++ d.flanks → (s.point p).state ≠ q.settled → (s.point p).state ≠ q.moving →
        s.plan.points.get? p = some r →
        (∀ p' q' r', (p', q') ∈ d.points ++ d.flanks → s.plan.points.get? p' = some r' →
          ∀ o, r'.drive o = r.drive q → p' = p ∧ o = q) →
        (∀ g ∈ s.plan.signals.rows, r.drive q ∉ g.2.lampBits) → (∀ b ∈ s.plan.buttons.rows, b.2.lamp ≠ r.drive q) →
        w.out (r.drive q) = true) ∧
  (∀ (s : State) (passes : State → StackEntry → Prop), RouteLaw s → RegisterLaw s →
    (∀ u y, passes u y ↔ ∀ c i, ¬u.failsCheck y.route y.train c i) →
    ((∀ y ∈ s.iu.stack, ¬passes s y) → s.retryScan = s) ∧
    ∀ pre e post granted, s.iu.stack = pre ++ e :: post → s.working = true → 1 ≤ e.route → e.route ≤ 400 →
      (∀ n, e.train = some n → 1 ≤ n ∧ n ≤ 9999) → passes s e →
      (∀ y ∈ pre, y.effective ≤ e.effective → ¬passes s y) → (∀ y ∈ post, y.effective < e.effective → ¬passes s y) →
      granted = (s.askRoute ⟨e.route, e.train, e.station, e.clamped, false⟩).1 →
      (∀ y ∈ pre, e.effective < y.effective → ¬passes granted y) →
      (∀ y ∈ post, e.effective ≤ y.effective → ¬passes granted y) →
      ∀ aged, aged =
          pre.map (fun y => if e.effective < y.effective then { y with effective := y.effective - 1 } else y) →
        s.retryScan = { granted with iu := { granted.iu with stack := aged ++ post } }) ∧
  ∀ (f : Frame) (s : State) (new : Mode) (subject : Nat), s.listening → Carries f 0x23 0 [] → s.tr.trains.Wf →
    s.mc.mode = .stop → s.fs.chain ≠ .fault → s.mc.remembered = some new →
    ((new = .run ∧ subject = 1) ∨ (new = .quiet ∧ subject = 2)) → s.due.settled = true → s.awu.queue = [] →
    s.awu.running = none → s.tc.queue = [] → s.tc.burst = none → s.tc.stopEnd = false → s.tc.state ≠ .halted →
    ∃ w, exec (.resume f) s = .next (w.answeredWith f 0x23 (.done [])) ∧
      FollowUp (State.retryScan { s.openFrame f with
        mc := { s.mc with mode := new, remembered := none }, clp := s.clp.record .modeChanged subject 0 }) w

/-- R101 to R104, R109: CANCEL ROUTE: its tests; a stack entry removed; an active route cancelled by its state, as far as
the sender may act on each. The end of a CANCELLING route's approach timer, at its last tick (log entry 4), retires it as
CANCELLED; without a timer at its last tick nothing happens (log entry 35). -/
def Obligations.CancelRoute : Prop :=
  (∀ (f : Frame) (st : Nat) (s : State) (hi lo : Byte) (stacked : Option StackEntry) (active : Option (Nat × ActiveRoute))
     (holds : Nat → Prop) (drops cancels : Prop), RouteLaw s → RegisterLaw s → s.iu.marks.Wf → s.iu.points.Wf →
     s.listening → Carries f 0x41 st [hi, lo] →
     (∀ e, stacked = some e ↔ (e ∈ s.iu.stack ∧ e.route = pair hi lo)) →
     (∀ k r, active = some (k, r) ↔ (s.route? k = some r ∧ r.route = pair hi lo)) →
     (∀ k, holds k ↔ ((s.handles st).h1 = k ∨ (s.handles st).h2 = k ∨ (s.handles st).h3 = k)) →
     (drops ↔ ∃ e, stacked = some e ∧
       (st = 0 ∨ e.station = st ∨ ∃ k x, e.train = some x.number ∧ s.train? k = some x ∧ holds k)) →
     (cancels ↔ ∃ k r, active = some (k, r) ∧ (st = 0 ∨ r.station = st ∨ ∃ j, r.train = some j ∧ holds j)) →
     (s.mc.mode = .setup → exec (.cancelRoute f) s = .next (s.replied f 0x41 (.refused .badMode []))) ∧
     (s.mc.mode ≠ .setup →
       ((pair hi lo = 0 ∨ 400 < pair hi lo) →
         exec (.cancelRoute f) s = .next (s.replied f 0x41 (.refused .range []))) ∧
       (1 ≤ pair hi lo → pair hi lo ≤ 400 →
         (stacked = none → active = none → exec (.cancelRoute f) s = .next (s.replied f 0x41 (.refused .noSuch []))) ∧
         ((stacked ≠ none ∨ active ≠ none) → ¬drops → ¬cancels →
           exec (.cancelRoute f) s = .next (s.replied f 0x41 (.refused .notPermitted []))) ∧
         (drops → ¬cancels → s.Quiet →
           ∃ w, exec (.cancelRoute f) s = .next (w.answeredWith f 0x41 (.done [])) ∧
             FollowUp { s.openFrame f with iu := { s.iu with
               stack := s.iu.stack.filter (fun e => decide (e.route ≠ pair hi lo)) } } w) ∧
         ∀ k r d free rest, active = some (k, r) → s.routeRec r = some d → cancels → s.Still →
           (drops → rest = s.iu.stack.filter (fun e => decide (e.route ≠ pair hi lo))) →
           (¬drops → rest = s.iu.stack) →
           free = (∀ g, s.plan.signals.get? d.entry = some g → g.approach ≠ 0 →
             s.occupied g.approach = false ∧ s.inSpan g.approach = false) →
           (((r.state = .setting ∨ (r.state = .cleared ∧ free)) ∧ (∀ m ∈ r.marks, m = .reserved) ∧
               ((d.points ++ d.flanks).map Prod.fst).Nodup →
             ∃ marks points w, s.GivesUp k d marks points ∧
               exec (.cancelRoute f) s = .next (w.answeredWith f 0x41 (.done [])) ∧
               FollowUp (State.withoutRoute { s.openFrame f with iu := { s.iu with stack := rest } } k marks points
                 .routeFailed (pair hi lo) 2) w) ∧
           (r.state = .cleared ∧ ¬free →
             ∃ w, exec (.cancelRoute f) s = .next (w.answeredWith f 0x41 (.accepted [])) ∧
               FollowUp { s.openFrame f with iu := { s.iu with
                 stack := rest,
                 routes := s.iu.routes.put k
                   { r with state := .cancelling, approach := some (s.plan.device.approachLock * 10) } } } w) ∧
           (r.state = .cancelling →
             ∃ w, exec (.cancelRoute f) s = .next (w.answeredWith f 0x41 (.accepted [])) ∧
               FollowUp { s.openFrame f with iu := { s.iu with stack := rest } } w) ∧
           (r.state = .occupied → d.sections.Nodup → r.marks.length = d.sections.length →
             ∃ w : State, exec (.cancelRoute f) s = .next (w.answeredWith f 0x41 (.done [])) ∧ w.iu.stack = rest ∧
               ∀ (i : Nat) sec, d.sections[i]? = some sec → r.marks[i]? = some SectionMark.reserved →
                 ((r.train ≠ none ∧ (∃ j, j < i ∧ r.marks[j]? = some SectionMark.entered) ∧
                     ∀ j, i < j → r.marks[j]? ≠ some SectionMark.entered) ∧
                   (∀ j, j < i → r.marks[j]? = some SectionMark.reserved →
                     ∃ e, j < e ∧ r.marks[e]? = some SectionMark.entered) → w.mark sec = s.mark sec) ∧
                 (¬((r.train ≠ none ∧ (∃ j, j < i ∧ r.marks[j]? = some SectionMark.entered) ∧
                     ∀ j, i < j → r.marks[j]? ≠ some SectionMark.entered) ∧
                   (∀ j, j < i → r.marks[j]? = some SectionMark.reserved →
                     ∃ e, j < e ∧ r.marks[e]? = some SectionMark.entered)) → w.mark sec = .free)))))) ∧
  (∀ (slot : Nat) (order : List Block) (s : State),
     ((s.route? slot).bind ActiveRoute.approach = none ∨
         (∃ n, (s.route? slot).bind ActiveRoute.approach = some n ∧ 1 < n) →
       exec (.approachTimerExpiry slot order) s = .next { s with order := order }) ∧
     (∀ r d n, s.route? slot = some r → s.routeRec r = some d → r.approach = some n → n ≤ 1 → r.state = .cancelling →
       (∀ m ∈ r.marks, m = .reserved) → ((d.points ++ d.flanks).map Prod.fst).Nodup → s.iu.marks.Wf → s.iu.points.Wf →
       s.tr.trains.Wf → s.Still →
       ∃ marks points w, s.GivesUp slot d marks points ∧ exec (.approachTimerExpiry slot order) s = .next w ∧
         FollowUp (State.withoutRoute { s with order := order } slot marks points .routeFailed r.route 2) w))

/-- R78, R90: POINT TEST: the tests in order, DONE for a point already there, and a command otherwise: the state, the two
timers and the drive output, and nothing else. That a pulse still timing the other drive output is ended is the model's
choice (log entry 17), and so is the refusal RANGE of a position above 1 (log entry 12). -/
def Obligations.PointTest : Prop :=
  ∀ (f : Frame) (st : Nat) (s : State) (p q : Byte), s.listening → Carries f 0x42 st [p, q] →
    (st ≠ 0 → exec (.pointTest f) s = .next (s.replied f 0x42 (.refused .notPermitted []))) ∧
    (st = 0 → s.mc.mode ≠ .setup → exec (.pointTest f) s = .next (s.replied f 0x42 (.refused .badMode []))) ∧
    (st = 0 → s.mc.mode = .setup →
      ((p.toNat = 0 ∨ 120 < p.toNat ∨ 1 < q.toNat) →
        exec (.pointTest f) s = .next (s.replied f 0x42 (.refused .range []))) ∧
      (1 ≤ p.toNat → p.toNat ≤ 120 → q.toNat ≤ 1 →
        (s.plan.points.get? p.toNat = none →
          exec (.pointTest f) s = .next (s.replied f 0x42 (.refused .noSuch []))) ∧
        ∀ r x pos, s.plan.points.get? p.toNat = some r → s.point p.toNat = x →
          pos = (if q = 0#8 then .normal else .reverse) →
          (x.fault = true → exec (.pointTest f) s = .next (s.replied f 0x42 (.refused .faultPresent []))) ∧
          (x.fault = false → (x.state = .movingN ∨ x.state = .movingR) →
            exec (.pointTest f) s = .next (s.replied f 0x42 (.refused .busy []))) ∧
          (x.fault = false → x.state ≠ .movingN → x.state ≠ .movingR →
            (s.occupied r.sect = true → exec (.pointTest f) s = .next (s.replied f 0x42 (.refused .conflict []))) ∧
            (s.occupied r.sect = false → s.due.turnEnds = [] →
              (x.state = pos.settled →
                ∃ w, exec (.pointTest f) s = .next (w.answeredWith f 0x42 (.done [])) ∧ FollowUp (s.openFrame f) w) ∧
              (x.state ≠ pos.settled → s.iu.points.Wf →
                ∃ points w, exec (.pointTest f) s = .next (w.answeredWith f 0x42 (.accepted [])) ∧
                  (∀ j, Tab.getD {} points j =
                    if j = p.toNat then
                      { x with state := pos.moving, pulse := some (pos, r.pulse), throw := some r.throw }
                    else s.point j) ∧
                  FollowUp { s.openFrame f with iu := { s.iu with points := points } } w ∧
                  ((∀ g ∈ s.plan.signals.rows, r.drive pos ∉ g.2.lampBits) →
                    (∀ b ∈ s.plan.buttons.rows, b.2.lamp ≠ r.drive pos) → w.out (r.drive pos) = true))))))

/-- R32, R74, R89: CLEAR FAULT of a point, of an overrun flag and of the field fault flag. -/
def Obligations.ClearFault : Prop :=
  ∀ (f : Frame) (st : Nat) (s : State) (kind hi lo : Byte), s.listening → RegisterLaw s →
    Carries f 0x47 st [kind, hi, lo] →
    (kind.toNat ≤ 1 ∨ (kind = 2#8 ∧ pair hi lo = 0) → st ≠ 0 →
      exec (.clearFault f) s = .next (s.replied f 0x47 (.refused .notPermitted []))) ∧
    (kind = 0#8 → st = 0 →
      ((pair hi lo = 0 ∨ 120 < pair hi lo) →
        exec (.clearFault f) s = .next (s.replied f 0x47 (.refused .range []))) ∧
      (1 ≤ pair hi lo → pair hi lo ≤ 120 →
        (s.plan.points.get? (pair hi lo) = none →
          exec (.clearFault f) s = .next (s.replied f 0x47 (.refused .noSuch []))) ∧
        ∀ r x, s.plan.points.get? (pair hi lo) = some r → s.point (pair hi lo) = x → s.Still → s.iu.points.Wf →
          ∃ points w, exec (.clearFault f) s = .next (w.answeredWith f 0x47 (.done [])) ∧
            (∀ j, Tab.getD {} points j =
              if j = pair hi lo ∧ x.fault = true then
                { x with
                  fault := false,
                  state := match s.input r.normalDetect, s.input r.reverseDetect with
                    | true, false => .normal
                    | false, true => .reverse
                    | _, _ => x.state }
              else s.point j) ∧
            FollowUp { s.openFrame f with iu := { s.iu with points := points } } w)) ∧
    (kind = 1#8 → st = 0 →
      ((pair hi lo = 0 ∨ 9999 < pair hi lo) →
        exec (.clearFault f) s = .next (s.replied f 0x47 (.refused .range []))) ∧
      (1 ≤ pair hi lo → pair hi lo ≤ 9999 →
        ((∀ k x, s.train? k = some x → x.number ≠ pair hi lo) →
          exec (.clearFault f) s = .next (s.replied f 0x47 (.refused .noSuch []))) ∧
        ∀ k x, s.train? k = some x → x.number = pair hi lo → s.Quiet →
          ∃ w, exec (.clearFault f) s = .next (w.answeredWith f 0x47 (.done [])) ∧
            FollowUp ((s.openFrame f).putTrain k { x with overrun := false }) w)) ∧
    (kind = 2#8 → pair hi lo = 0 → st = 0 → s.Quiet →
      ∃ w, exec (.clearFault f) s = .next (w.answeredWith f 0x47 (.done [])) ∧
        FollowUp { s.openFrame f with fs := { s.fs with
          fieldFault := s.fs.fieldFault && decide (s.fs.chain = .fault) } } w)

/-- R78, R80, R87: the end of a point's pulse and the timeout of its throw, each at its last tick (log entry 4); without a
timer at its last tick nothing happens (log entry 35). A throw that fails takes its drive output down and the route that
waits on it out of the table, with ROUTE_FAILED reason POINT. R79, R81, R86: a detection report moves a point by the table
of R79; a locked point that leaves its demanded position is noticed POINT_LOST; the end of the last throw a route waits on
makes it CLEARED, with ROUTE_SET. R80: a section that becomes occupied abandons the throw of each point that moves in it:
the point is FAILED with its fault flag, its drive output at 0 and both timers gone, POINT_FAILED is noticed, and the route
that waits on it leaves the table; with no such point nothing happens. -/
def Obligations.PointTimers : Prop :=
  (∀ (p : Nat) (s : State),
    ((s.point p).pulse = none ∨ (∃ q n, (s.point p).pulse = some (q, n) ∧ 1 < n) →
      exec (.pulseExpiry p) s = .next s) ∧
    (∀ q n r, (s.point p).pulse = some (q, n) → n ≤ 1 → s.plan.points.get? p = some r →
      exec (.pulseExpiry p) s = .next ((s.putPoint p { s.point p with pulse := none }).setOut (r.drive q) false))) ∧
  (∀ (p : Nat) (order : List Block) (s : State),
    ((s.point p).throw = none ∨ (∃ n, (s.point p).throw = some n ∧ 1 < n) →
      exec (.throwTimeout p order) s = .next { s with order := order }) ∧
    (∀ n, (s.point p).throw = some n → n ≤ 1 → s.iu.points.Wf → s.iu.marks.Wf → s.iu.routes.Wf → s.Still →
      (∀ clp points failed, clp = s.clp.record .pointFailed p 0 →
        (∀ j, Tab.getD {} points j =
          if j = p then { s.point p with state := .failed, fault := true, throw := none, pulse := none } else s.point j) →
        failed = { s with order := order, clp := clp, iu := { s.iu with points := points } } →
        ((∀ k r d q, s.route? k = some r → s.routeRec r = some d → r.state = .setting → r.moving ≠ 0 →
            (p, q) ∉ d.points ++ d.flanks) →
          ∃ points' w, (∀ j, Tab.getD {} points' j = Tab.getD {} points j) ∧
            exec (.throwTimeout p order) s = .next w ∧
            FollowUp { failed with iu := { s.iu with points := points' } } w ∧
            ∀ rec q m, s.fs.image.Wf → s.plan.points.get? p = some rec → (s.point p).pulse = some (q, m) →
              (∀ g ∈ s.plan.signals.rows, rec.drive q ∉ g.2.lampBits) →
              (∀ b ∈ s.plan.buttons.rows, b.2.lamp ≠ rec.drive q) → w.out (rec.drive q) = false) ∧
        (∀ k r d q, s.route? k = some r → s.routeRec r = some d → r.state = .setting → r.moving ≠ 0 →
          (p, q) ∈ d.points ++ d.flanks → (∀ m ∈ r.marks, m = .reserved) →
          ((d.points ++ d.flanks).map Prod.fst).Nodup →
          (∀ k' r' d' q', s.route? k' = some r' → s.routeRec r' = some d' → r'.state = .setting → r'.moving ≠ 0 →
            (p, q') ∈ d'.points ++ d'.flanks → k' = k) →
          ∃ marks points' w, failed.GivesUp k d marks points' ∧ exec (.throwTimeout p order) s = .next w ∧
            FollowUp (failed.withoutRoute k marks points' .routeFailed r.route 1) w ∧
            ∀ rec o m, s.fs.image.Wf → s.plan.points.get? p = some rec → (s.point p).pulse = some (o, m) →
              (∀ g ∈ s.plan.signals.rows, rec.drive o ∉ g.2.lampBits) →
              (∀ b ∈ s.plan.buttons.rows, b.2.lamp ≠ rec.drive o) → w.out (rec.drive o) = false)))) ∧
  ∀ (s : State) (p : Nat) (r : PointRec) (x : Point) (shown : Option Pos) (after : PointState),
    s.plan.points.get? p = some r → s.point p = x → s.iu.points.Wf → s.iu.routes.Wf →
    shown = (match s.input r.normalDetect, s.input r.reverseDetect with
      | true, false => some .normal
      | false, true => some .reverse
      | _, _ => none) →
    after = (match x.state, shown with
      | .normal, some .reverse | .undetected, some .reverse | .movingR, some .reverse => .reverse
      | .reverse, some .normal | .undetected, some .normal | .movingN, some .normal => .normal
      | .normal, none | .reverse, none => .undetected
      | .failed, some .normal => if x.fault = true then .failed else .normal
      | .failed, some .reverse => if x.fault = true then .failed else .reverse
      | y, _ => y) →
    (after = x.state → ¬(x.state = .failed ∧ x.fault = false ∧ shown = none) → s.detection p = s) ∧
    (x.state = .failed → x.fault = false → shown = none →
      s.detection p = { s.putPoint p { x with fault := true } with clp := s.clp.record .pointFailed p 0 }) ∧
    (after ≠ x.state → ∀ clp due,
      clp = (match x.demand with
        | none => s.clp
        | some q => if 0 < x.locks ∧ x.state = q.settled then s.clp.record .pointLost p 0 else s.clp) →
      due = (if after = .normal ∨ after = .reverse then { s.due with scan := true } else s.due) →
      ((x.state ≠ .movingN ∧ x.state ≠ .movingR) ∨
          (∀ k y d q, s.route? k = some y → s.routeRec y = some d → y.state = .setting → y.moving ≠ 0 →
            (p, q) ∉ d.points ++ d.flanks) →
        s.detection p = { s.putPoint p { x with state := after, throw := none } with clp := clp, due := due }) ∧
      (∀ k y d q n, (x.state = .movingN ∨ x.state = .movingR) → s.route? k = some y → s.routeRec y = some d →
        y.state = .setting → y.moving = n + 1 → (p, q) ∈ d.points ++ d.flanks →
        (∀ k' y' d' q', s.route? k' = some y' → s.routeRec y' = some d' → y'.state = .setting → y'.moving ≠ 0 →
          (p, q') ∈ d'.points ++ d'.flanks → k' = k) →
        ∀ settled, settled = { s.putPoint p { x with state := after, throw := none } with due := due } →
          (n ≠ 0 → s.detection p = settled.putRoute k { y with moving := n }) ∧
          (n = 0 →
            (s.detection p).route? k = some { y with moving := 0, state := .cleared } ∧
            (s.detection p).clp = s.clp.record .routeSet y.route 0 ∧
            (s.detection p).point p = { x with state := after, throw := none } ∧
            ∀ j z, s.train? j = some z → (s.detection p).train? j = some { z with
              route := if y.train = some j ∧ z.route = none then some k else z.route }))) ∧
  ∀ (s : State) (sec : Nat) (abandoned waits : Nat → Prop), s.plan.points.Wf → s.iu.points.Wf → s.iu.marks.Wf →
    s.iu.routes.Wf →
    (∀ p, abandoned p ↔ (∃ r, s.plan.points.get? p = some r ∧ r.sect = sec) ∧
      ((s.point p).state = .movingN ∨ (s.point p).state = .movingR)) →
    (∀ k, waits k ↔ ∃ p q r d, abandoned p ∧ s.route? k = some r ∧ s.routeRec r = some d ∧ r.state = .setting ∧
      r.moving ≠ 0 ∧ (p, q) ∈ d.points ++ d.flanks) →
    ((∀ p, ¬abandoned p) → s.sectionOccupied sec = s) ∧
    ((∀ k, ¬waits k) → (s.sectionOccupied sec).iu.routes = s.iu.routes ∧
      (∀ p, ¬abandoned p → (s.sectionOccupied sec).point p = s.point p) ∧
      ∀ p, abandoned p →
        (s.sectionOccupied sec).point p = { s.point p with state := .failed, fault := true, throw := none, pulse := none } ∧
        (noticed (s.sectionOccupied sec).clp.notices .pointFailed p = true ∨
          (s.sectionOccupied sec).clp.noticeLost = true) ∧
        ∀ r q n, s.fs.image.Wf → s.plan.points.get? p = some r → (s.point p).pulse = some (q, n) →
          (s.sectionOccupied sec).out (r.drive q) = false) ∧
    ∀ p points failed, abandoned p → (∀ j, abandoned j → j = p) →
      (∀ j, Tab.getD {} points j =
        if j = p then { s.point p with state := .failed, fault := true, throw := none, pulse := none } else s.point j) →
      failed = { s with clp := s.clp.record .pointFailed p 0, iu := { s.iu with points := points } } →
      ((∀ k, ¬waits k) → ∃ points' image, (∀ j, Tab.getD {} points' j = Tab.getD {} points j) ∧
        s.sectionOccupied sec =
          { failed with iu := { s.iu with points := points' }, fs := { s.fs with image := image } }) ∧
      ∀ k r d, waits k → (∀ j, waits j → j = k) → s.route? k = some r → s.routeRec r = some d →
        (∀ m ∈ r.marks, m = .reserved) → ((d.points ++ d.flanks).map Prod.fst).Nodup →
        ∃ marks points' image due, failed.GivesUp k d marks points' ∧ due.scan = true ∧ s.sectionOccupied sec =
          { failed.withoutRoute k marks points' .routeFailed r.route 1 with
            fs := { s.fs with image := image }, due := due }

/-- R91, R97, R113: READ ROUTE, READ SECTION, READ POINT and READ SIGNAL from every station in every mode: what each reply
carries. The layouts are the model's (log entries 15 and 64). -/
def Obligations.InterlockingReads : Prop :=
  (∀ (f : Frame) (st : Nat) (s : State), s.listening →
     (∀ hi lo, Carries f 0x43 st [hi, lo] →
       ((pair hi lo = 0 ∨ 400 < pair hi lo) →
         exec (.readRoute f) s = .next (s.replied f 0x43 (.refused .range []))) ∧
       (1 ≤ pair hi lo → pair hi lo ≤ 400 →
         (s.plan.routes.get? (pair hi lo) = none →
           exec (.readRoute f) s = .next (s.replied f 0x43 (.refused .noSuch []))) ∧
         (s.plan.routes.get? (pair hi lo) ≠ none →
           ∀ (entry active : Option (List Byte)),
             ((entry = none ∧ ∀ e ∈ s.iu.stack, e.route ≠ pair hi lo) ∨
               (∃ pre e post, s.iu.stack = pre ++ e :: post ∧ e.route = pair hi lo ∧
                 (∀ y ∈ pre, y.route ≠ pair hi lo) ∧
                 entry = some ([byte e.station] ++ two (e.train.getD 0) ++
                   [byte e.clamped, byte e.effective, byte (pre.length + 1)]))) →
             ((active = none ∧ ∀ k r, (k, r) ∈ s.iu.routes.rows → r.route ≠ pair hi lo) ∨
               (∃ k r number, s.route? k = some r ∧ r.route = pair hi lo ∧
                 (∀ j q, (j, q) ∈ s.iu.routes.rows → q.route = pair hi lo → j = k) ∧
                 ((r.train = none ∧ number = 0) ∨ (∃ j x, r.train = some j ∧ s.train? j = some x ∧ number = x.number)) ∧
                 active = some ([byte k] ++ two (pair hi lo) ++ two number ++
                   [byte r.station, match r.state with
                     | .setting => 0#8 | .cleared => 1#8 | .occupied => 2#8 | .cancelling => 3#8,
                     byte r.marks.length] ++
                   r.marks.map (fun m => match m with | .reserved => 0#8 | .entered => 1#8 | .released => 2#8) ++
                   [byte r.moving] ++ two (r.approach.getD 0)))) →
             exec (.readRoute f) s = .next (s.replied f 0x43 (.done (match active, entry with
               | some a, none => [0#8] ++ a ++ [0#8]
               | some a, some e => [0#8] ++ a ++ [1#8] ++ e
               | none, some e => [1#8] ++ e
               | none, none => [2#8])))))) ∧
     (∀ b, Carries f 0x44 st [b] →
       ((b.toNat = 0 ∨ 240 < b.toNat) → exec (.readSection f) s = .next (s.replied f 0x44 (.refused .range []))) ∧
       (1 ≤ b.toNat → b.toNat ≤ 240 →
         (s.plan.sections.get? b.toNat = none →
           exec (.readSection f) s = .next (s.replied f 0x44 (.refused .noSuch []))) ∧
         (s.plan.sections.get? b.toNat ≠ none → ∀ (kind slot within : Byte) (route number : Nat),
           (match s.mark b.toNat with
             | .free => kind = 0#8 ∧ slot = 0#8 ∧ route = 0 ∧ within = 255#8
             | .overlap k => kind = 2#8 ∧ slot = byte k ∧ within = 255#8 ∧ ∃ r, s.route? k = some r ∧ route = r.route
             | .route k => kind = 1#8 ∧ slot = byte k ∧ ∃ r m, s.route? k = some r ∧ route = r.route ∧
                 s.sectionMark r b.toNat = some m ∧
                 within = match m with | .reserved => 0#8 | .entered => 1#8 | .released => 2#8) →
           ((number = 0 ∧ s.spanOf b.toNat = none) ∨
             ∃ k x, s.spanOf b.toNat = some k ∧ s.train? k = some x ∧ number = x.number) →
           exec (.readSection f) s = .next (s.replied f 0x44 (.done (
             [if s.occupied b.toNat then 1#8 else 0#8, kind, slot] ++ two route ++
             [within, if s.stray b.toNat then 1#8 else 0#8] ++ two number)))))) ∧
     (∀ b, Carries f 0x45 st [b] →
       ((b.toNat = 0 ∨ 120 < b.toNat) → exec (.readPoint f) s = .next (s.replied f 0x45 (.refused .range []))) ∧
       (1 ≤ b.toNat → b.toNat ≤ 120 →
         (s.plan.points.get? b.toNat = none →
           exec (.readPoint f) s = .next (s.replied f 0x45 (.refused .noSuch []))) ∧
         ∀ r x, s.plan.points.get? b.toNat = some r → s.point b.toNat = x →
           exec (.readPoint f) s = .next (s.replied f 0x45 (.done
             [match x.state with
               | .normal => 0#8 | .reverse => 1#8 | .movingN => 2#8 | .movingR => 3#8 | .undetected => 4#8 | .failed => 5#8,
               byte x.locks,
               match x.demand with | none => 255#8 | some .normal => 0#8 | some .reverse => 1#8,
               if x.fault then 1#8 else 0#8, if s.input r.normalDetect then 1#8 else 0#8,
               if s.input r.reverseDetect then 1#8 else 0#8, byte (x.throw.getD 0)]))))) ∧
  (∀ (f : Frame) (st : Nat) (s : State) (b : Byte), s.listening → Carries f 0x46 st [b] →
     ((b.toNat = 0 ∨ 160 < b.toNat) → exec (.readSignal f) s = .next (s.replied f 0x46 (.refused .range []))) ∧
     (1 ≤ b.toNat → b.toNat ≤ 160 →
       (s.plan.signals.get? b.toNat = none →
         exec (.readSignal f) s = .next (s.replied f 0x46 (.refused .noSuch []))) ∧
       ∀ g a l (depth slot route : Nat), s.plan.signals.get? b.toNat = some g → s.signal b.toNat = ⟨a, l⟩ →
         ((slot = 0 ∧ route = 0 ∧ depth = 0 ∧ (∀ k, s.entrySignal k ≠ some b.toNat) ∧ s.iu.routes.Wf) ∨
           (∃ r d, RouteLaw s ∧ s.route? slot = some r ∧ s.routeRec r = some d ∧ d.entry = b.toNat ∧ route = r.route ∧
             ((depth = 0 ∧ (a = .stop ∨ a = .shunt)) ∨ (s.depthIs slot depth ∧ a ≠ .stop ∧ a ≠ .shunt)))) →
         exec (.readSignal f) s = .next (s.replied f 0x46 (.done (
           [match a with | .stop => 0#8 | .caution => 1#8 | .prelim => 2#8 | .clear => 3#8 | .shunt => 4#8,
             byte depth, byte slot] ++ two route ++
           [if l.stop then 1#8 else 0#8,
             if g.caution = none then 255#8 else if l.caution then 1#8 else 0#8,
             if g.second = none then 255#8 else if l.second then 1#8 else 0#8,
             if g.clear = none then 255#8 else if l.clear then 1#8 else 0#8,
             if g.subsidiary = none then 255#8 else if l.subsidiary then 1#8 else 0#8])))))


/-! ### The turntable -/

/-- R130, R131: HOME TURNTABLE: its tests in order; otherwise HOMING in the RELEASE phase, or at once in SEEK where the
lock already reads clear, with the lock release output at 1. -/
def Obligations.HomeTurntable : Prop :=
  ∀ (f : Frame) (st : Nat) (s : State) (free : Prop), s.listening → Carries f 0x50 st [] → s.tr.trains.Wf →
    (free ↔ s.mark s.plan.turntable.bridge = .free ∧ s.stray s.plan.turntable.bridge = false ∧
      ∀ k x, s.train? k = some x → s.plan.turntable.bridge ∈ x.span →
        x.span = [s.plan.turntable.bridge] ∧ x.granted = 0) →
    (st ≠ 0 → exec (.homeTurntable f) s = .next (s.replied f 0x50 (.refused .notPermitted []))) ∧
    (st = 0 →
      (s.working = false → exec (.homeTurntable f) s = .next (s.replied f 0x50 (.refused .badMode []))) ∧
      (s.working = true → s.plan.turntable.present = false →
        exec (.homeTurntable f) s = .next (s.replied f 0x50 (.refused .notIndexed []))) ∧
      (s.working = true → s.plan.turntable.present = true →
        (s.tc.state ∈ [.homing, .unlocking, .moving, .locking] →
          exec (.homeTurntable f) s = .next (s.replied f 0x50 (.refused .busy []))) ∧
        (s.tc.state ∉ [.homing, .unlocking, .moving, .locking] →
          (¬free → exec (.homeTurntable f) s = .next (s.replied f 0x50 (.refused .conflict []))) ∧
          (free → s.due.settled = true →
            ∃ w : State, exec (.homeTurntable f) s = .next (w.answeredWith f 0x50 (.accepted [])) ∧
              FollowUp { s.openFrame f with
                tc := { s.tc with
                  state := .homing, pos := none, burst := none, preempt := false, stopEnd := false,
                  phase := if s.input s.plan.turntable.lockBit then some .release else some .seek,
                  index := if s.input s.plan.turntable.lockBit then none else some 0,
                  timer := some (if s.input s.plan.turntable.lockBit then s.plan.turntable.lockTimeout
                    else s.plan.turntable.stepTimeout) } } w ∧
              ((∀ g ∈ s.plan.signals.rows, s.plan.turntable.releaseBit ∉ g.2.lampBits) →
                (∀ b ∈ s.plan.buttons.rows, b.2.lamp ≠ s.plan.turntable.releaseBit) →
                w.out s.plan.turntable.releaseBit = true)))))

/-- R132 to R137: TURN. The first test that fails refuses it. Otherwise it is admitted at the back of the queue with its
clamped level: it waits while the turntable may grant nothing; on an idle LOCKED turntable an eligible one is granted at
once, and starts its move, or ends at once where the bridge already stands as asked; and where arbitration starts a move,
the command leaves what arbitration leaves, and the reply says whether the new entry is the one served. R134, R135:
arbitration on a turntable that may grant: during a burst its station's oldest request is granted as soon as it is
eligible, and until then nothing is; where no burst stands, or the burst ends because it is preempted or its station has
no request left, the eligible request of lowest level is granted, the oldest of those. A grant ages the older eligible
requests by one level. -/
def Obligations.Turn : Prop :=
  (∀ (s : State) (ends opened : Prop), RegisterLaw s →
    (ends ↔ ∃ st, s.tc.burst = some st ∧ (s.tc.preempt = true ∨ ∀ z ∈ s.tc.queue, z.station ≠ st)) →
    (opened ↔ s.tc.burst = none ∨ ends) →
    (s.free = false → s.arbitrate = s) ∧
    (s.free = true →
      ((∀ z ∈ s.tc.queue, ¬s.mayTurn z.train) →
        (s.tc.burst = none → s.arbitrate = { s with tc := { s.tc with stopEnd := false } }) ∧
        (ends → s.arbitrate = { s with tc := { s.tc with burst := none, preempt := false, stopEnd := false } })) ∧
      ∀ pre y post, s.tc.queue = pre ++ y :: post →
        (¬s.mayTurn y.train → s.tc.burst = some y.station → s.tc.preempt = false → (∀ z ∈ pre, z.station ≠ y.station) →
          s.arbitrate = { s with tc := { s.tc with stopEnd := false } }) ∧
        ∀ p r m aged held, s.mayTurn y.train →
          ((s.tc.burst = some y.station ∧ s.tc.preempt = false ∧ ∀ z ∈ pre, z.station ≠ y.station) ∨
            (opened ∧ (∀ z ∈ pre, s.mayTurn z.train → y.effective < z.effective) ∧
              ∀ z ∈ post, s.mayTurn z.train → y.effective ≤ z.effective)) →
          s.tc.pos = some p → s.plan.roads.get? y.road = some r →
          planMove p r.index y.endAt s.plan.turntable.stopSector = some m → m.steps ≠ 0 →
          aged.length = pre.length →
          (∀ (i : Nat) z, pre[i]? = some z →
            (s.mayTurn z.train → aged[i]? = some { z with effective := z.effective - 1 }) ∧
            (¬s.mayTurn z.train → aged[i]? = some z)) →
          ((y.train = none ∧ held = none) ∨
            ∃ k x, s.train? k = some x ∧ y.train = some x.number ∧ held = some (decide (x.state = .held))) →
          s.arbitrate.tc = { s.tc with
            state := .unlocking, move := some m, queue := aged ++ y :: post, served := some (pre.length + 1),
            returnHeld := held, timer := some s.plan.turntable.lockTimeout,
            burst := if y.follow then some y.station else none, preempt := false, stopEnd := false } ∧
          ∀ k x, s.train? k = some x →
            s.arbitrate.train? k = some (if y.train = some x.number then { x with state := .turning } else x))) ∧
  ∀ (f : Frame) (st : Nat) (s : State) (road e level follow hi lo : Byte) (train : Option Nat), RegisterLaw s →
    s.listening → (follow = 0#8 ∨ follow = 1#8) → Carries f 0x51 st [road, e, level, follow, hi, lo] →
    s.asksFor st (pair hi lo) train →
    ∀ tests : List (Prop × Reason), tests =
      [(s.working = false, .badMode),
       (road.toNat = 0 ∨ 20 < road.toNat ∨ 2 < e.toNat ∨ (∃ n, train = some n ∧ (n = 0 ∨ 9999 < n)), .range),
       (s.tc.state = .unindexed ∨ s.tc.state = .faulted, .notIndexed),
       (s.plan.roads.get? road.toNat = none, .noSuch),
       (∃ n, train = some n ∧ ∀ k x, s.train? k = some x → x.number ≠ n, .noSuch),
       (∃ k x, s.train? k = some x ∧ train = some x.number ∧ s.plan.lengthOf s.plan.turntable.bridge < x.length,
         .tooLong),
       (train ≠ none ∧ ∃ y ∈ s.tc.queue, y.train = train, .conflict),
       (6 ≤ s.tc.queue.length, .tableFull)] →
      (∀ (i : Nat) P r, tests[i]? = some (P, r) → P → (∀ (j : Nat) Q q, j < i → tests[j]? = some (Q, q) → ¬Q) →
        exec (.turn f) s = .next (s.replied f 0x51 (.refused r []))) ∧
      ((∀ P r, (P, r) ∈ tests → ¬P) → s.due.settled = true →
        ∀ (l : Nat) (x : EndChoice) (y : TurnReq), l = max (min level.toNat 15) (if st = 0 then 0 else (s.plan.station st).floor) →
          x = (if e = 0#8 then EndChoice.a else if e = 1#8 then .b else .either) →
          y = ⟨train, road.toNat, x, st, l, l, decide (follow = 1#8)⟩ →
          (s.free = false →
            ∃ w : State, exec (.turn f) s =
                .next (w.answeredWith f 0x51 (.accepted [byte (s.tc.queue.length + 1), byte l, 0#8])) ∧
              FollowUp { s.openFrame f with tc := { s.tc with
                queue := s.tc.queue ++ [y],
                preempt := s.tc.preempt || decide (s.tc.burst ≠ none ∧ s.tc.burst ≠ some st ∧ l ≤ 3) } } w) ∧
          (∀ admitted, admitted = { s.openFrame f with
              due := { s.due with newestGranted := false },
              tc := { s.tc with
                queue := s.tc.queue ++ [y],
                preempt := s.tc.preempt || decide (s.tc.burst ≠ none ∧ s.tc.burst ≠ some st ∧ l ≤ 3) } } →
            admitted.arbitrate.free = false → admitted.arbitrate.due.settled = true →
            ∃ (w : State) (granted : Byte), exec (.turn f) s =
                .next (w.answeredWith f 0x51 (.accepted [byte (s.tc.queue.length + 1), byte l, granted])) ∧
              (s.free = true →
                (∀ p r, s.tc.pos = some p → s.plan.roads.get? road.toNat = some r →
                  planMove p r.index x s.plan.turntable.stopSector ≠ none) →
                granted = if admitted.arbitrate.tc.served = some (s.tc.queue.length + 1) then 1#8 else 0#8) ∧
              FollowUp admitted.arbitrate w) ∧
          (∀ p r m, s.free = true → s.tc.queue = [] → s.tc.burst = none → s.mayTurn train → s.tc.pos = some p →
            s.plan.roads.get? road.toNat = some r → planMove p r.index x s.plan.turntable.stopSector = some m →
            (m.steps ≠ 0 →
              ∃ w : State, exec (.turn f) s = .next (w.answeredWith f 0x51 (.accepted [1#8, byte l, 1#8])) ∧
                (∀ held moving,
                  moving = { s.openFrame f with tc := { s.tc with
                    state := .unlocking, move := some m, queue := [y], served := some 1, returnHeld := held,
                    timer := some s.plan.turntable.lockTimeout,
                    burst := if follow = 1#8 then some st else none, preempt := false, stopEnd := false } } →
                  (train = none → held = none → FollowUp moving w) ∧
                  (∀ k z, s.train? k = some z → train = some z.number → held = some (decide (z.state = .held)) →
                    FollowUp (moving.putTrain k { z with state := .turning }) w)) ∧
                (s.plan.turntable.present = true →
                  (∀ g ∈ s.plan.signals.rows, s.plan.turntable.releaseBit ∉ g.2.lampBits) →
                  (∀ b ∈ s.plan.buttons.rows, b.2.lamp ≠ s.plan.turntable.releaseBit) →
                  w.out s.plan.turntable.releaseBit = true)) ∧
            (m.steps = 0 → s.attemptIdle → s.tc.returnHeld = none →
              ∃ w : State, exec (.turn f) s = .next (w.answeredWith f 0x51 (.accepted [1#8, byte l, 1#8])) ∧
                FollowUp { s.openFrame f with
                  tc := { s.tc with
                    move := none, served := none, burst := none, preempt := false, stopEnd := false },
                  clp := s.clp.record .turnDone road.toNat 0 } w)))

/-- R136, R141: the move planned: it brings an end the request allows to face the road in fewer than 48 steps and never
crosses the stop sector; no other way to do so is shorter, and of two as short end A goes before end B, and for one end
clockwise before anticlockwise. A HALTED turntable goes on with its move when the mode leaves STOP: towards its target by
the way it was turning, with the steps counted anew; or, where it coasted past its target, by the way planned afresh;
straight to LOCKING where it stands on its target. RESUME does so. -/
def Obligations.MovePlanned : Prop :=
  (∀ (p q : Nat) (e : EndChoice) (z : Option Nat), p < 48 → q < 48 → (∀ b, z = some b → b < 48) →
    ∃ m, planMove p q e z = some m ∧ m.steps < 48 ∧ wayTo q e z p m.endAt m.dir m.steps ∧
      m.target = turned m.dir m.steps p ∧
      (∀ x d n, wayTo q e z p x d n → m.steps ≤ n) ∧
      (∀ x d, wayTo q e z p x d m.steps →
        (m.endAt = .b → x = .b) ∧ (m.endAt = x → m.dir = .anticlockwise → d = .anticlockwise))) ∧
  (∀ (s : State) (p : Nat) (m : Move), s.tc.state = .halted → s.tc.move = some m → s.tc.pos = some p → p < 48 →
    m.target < 48 → (∀ b, s.plan.turntable.stopSector = some b → b < 48) →
    (p = m.target →
      s.tableResumes.tc = { s.tc with
        state := .locking, move := some { m with steps := 0 }, timer := some s.plan.turntable.lockTimeout }) ∧
    (p ≠ m.target →
      ∃ m', s.tableResumes.tc = { s.tc with
          state := .moving, move := some m', timer := some s.plan.turntable.stepTimeout } ∧
        m'.target = m.target ∧ m'.endAt = m.endAt ∧ 0 < m'.steps ∧ m'.steps < 48 ∧
        turned m'.dir m'.steps p = m.target ∧
        (0 < m.steps → m'.dir = m.dir) ∧
        (m.steps = 0 → clearPath s.plan.turntable.stopSector m'.dir m'.steps p ∧
          ∀ d n, turned d n p = m.target → clearPath s.plan.turntable.stopSector d n p →
            m'.steps ≤ n ∧ (n = m'.steps → m'.dir = .anticlockwise → d = .anticlockwise)) ∧
        (s.plan.turntable.present = true → s.fs.image.Wf → ∀ cw acw rel, cw = s.plan.turntable.cwBit →
          acw = s.plan.turntable.acwBit → rel = s.plan.turntable.releaseBit → [cw, acw, rel].Nodup →
          s.tableResumes.out cw = decide (m'.dir = .clockwise) ∧
          s.tableResumes.out acw = decide (m'.dir = .anticlockwise) ∧ s.tableResumes.out rel = true))) ∧
  ∀ (f : Frame) (s : State) (new : Mode) (subject : Nat), s.listening → Carries f 0x23 0 [] → s.tr.trains.Wf →
    s.mc.mode = .stop → s.fs.chain ≠ .fault → s.mc.remembered = some new →
    ((new = .run ∧ subject = 1) ∨ (new = .quiet ∧ subject = 2)) → s.due.settled = true → s.iu.stack = [] →
    s.awu.queue = [] → s.awu.running = none → s.tc.state = .halted → s.tc.move ≠ none → s.tc.pos ≠ none →
    ∃ w, exec (.resume f) s = .next (w.answeredWith f 0x23 (.done [])) ∧
      FollowUp (State.tableResumes { s.openFrame f with
        mc := { s.mc with mode := new, remembered := none }, clp := s.clp.record .modeChanged subject 0 }) w

/-- R142: WITHDRAW TURN: the request found by its train, or the oldest plain alignment of the station named for that road
and end; then its tests, and its removal, the entries behind it closing up. A burst that waited for it ends. What refuses a
reference 0, an end beyond its values and a supervisor's number above 9999 is the model's choice (log entry 44), and so is
what a burst does at the end of a request in STOP (log entry 24). Any station may withdraw any station's plain alignment. -/
def Obligations.WithdrawTurn : Prop :=
  (∀ (f : Frame) (st : Nat) (s : State), s.listening →
    (Carries f 0x52 st [0#8, 0#8, 0#8] →
      exec (.withdrawTurn f) s = .next (s.replied f 0x52 (.refused (if st = 0 then .noSuch else .range) []))) ∧
    ∀ road e stn, 2 < e.toNat → Carries f 0x52 st [1#8, road, e, stn] →
      exec (.withdrawTurn f) s = .next (s.replied f 0x52 (.refused .range []))) ∧
  ∀ (f : Frame) (st : Nat) (s : State) (params : List Byte) (named : TurnReq → Prop), RegisterLaw s → s.listening →
    Carries f 0x52 st params →
    ((∃ hi lo n, params = [0#8, hi, lo] ∧ s.asksFor st (pair hi lo) (some n) ∧ ∀ y, named y ↔ y.train = some n) ∨
      (∃ road e stn, params = [1#8, road, e, stn] ∧ e.toNat ≤ 2 ∧ ∀ y, named y ↔
        (y.train = none ∧ y.road = road.toNat ∧
          y.endAt = (if e = 0#8 then EndChoice.a else if e = 1#8 then .b else .either) ∧
          y.station = if stn = 255#8 then st else stn.toNat))) →
    ((∀ y ∈ s.tc.queue, ¬named y) → exec (.withdrawTurn f) s = .next (s.replied f 0x52 (.refused .noSuch []))) ∧
    ∀ pre y post (may : Prop), s.tc.queue = pre ++ y :: post → named y → (∀ z ∈ pre, ¬named z) →
      (may ↔ st = 0 ∨ y.station = st ∨ y.train = none ∨ ∃ k x, s.train? k = some x ∧ y.train = some x.number ∧
        (k = (s.handles st).h1 ∨ k = (s.handles st).h2 ∨ k = (s.handles st).h3)) →
      (¬may → exec (.withdrawTurn f) s = .next (s.replied f 0x52 (.refused .notPermitted []))) ∧
      (may → s.tc.served = some (pre.length + 1) →
        exec (.withdrawTurn f) s = .next (s.replied f 0x52 (.refused .busy []))) ∧
      (may → s.tc.served ≠ some (pre.length + 1) →
        (∃ w : State, exec (.withdrawTurn f) s = .next (w.answeredWith f 0x52 (.done []))) ∧
        (s.due.settled = true → s.free = false ∨ (pre = [] ∧ post = []) →
          ∀ (waited : Prop), (waited ↔ s.tc.state = .locked ∧ s.tc.served = none ∧ s.tc.stopEnd = false ∧
              s.tc.burst = some y.station ∧ ∀ z ∈ pre, z.station ≠ y.station) →
          ∀ burst preempt served stopEnd,
            (s.free = false → stopEnd = s.tc.stopEnd ∧ (waited → burst = none ∧ preempt = false) ∧
              (¬waited → burst = s.tc.burst ∧ preempt = s.tc.preempt)) →
            (s.free = true → stopEnd = false ∧ burst = none ∧
              preempt = decide (s.tc.burst = none ∧ s.tc.preempt = true)) →
            served = s.tc.served.map (fun k => if pre.length + 1 < k then k - 1 else k) →
            ∃ w : State, exec (.withdrawTurn f) s = .next (w.answeredWith f 0x52 (.done [])) ∧
              FollowUp { s.openFrame f with tc := { s.tc with
                queue := pre ++ post, served := served, burst := burst, preempt := preempt, stopEnd := stopEnd } } w))

/-- R131, R138, R140: the end of the TC's timer, at its last tick (log entry 4): the turntable is FAULTED at the stage of
its state, its outputs at 0; a served request leaves the queue, and a served train comes out of TURNING. Without a timer
at its last tick nothing happens (log entry 35). -/
def Obligations.TurntableTimerExpiry : Prop :=
  ∀ (order : List Block) (s : State),
    ((s.tc.timer = none ∨ ∃ n, s.tc.timer = some n ∧ 1 < n) →
      exec (.turntableTimerExpiry order) s = .next { s with order := order }) ∧
    (∀ n stage, s.tc.timer = some n → n ≤ 1 →
      ((s.tc.state = .homing ∧ s.tc.phase = some .release ∧ stage = 1) ∨
        (s.tc.state = .homing ∧ s.tc.phase = some .seek ∧ stage = 2) ∨
        (s.tc.state = .homing ∧ s.tc.phase = some .engage ∧ stage = 3) ∨
        (s.tc.state = .unlocking ∧ stage = 1) ∨ (s.tc.state = .moving ∧ stage = 2) ∨
        (s.tc.state = .locking ∧ stage = 3)) →
      s.due.settled = true →
      ∀ faulted,
        faulted = { s with
          order := order,
          tc := { s.tc with
            state := .faulted, timer := none, phase := none, index := none, burst := none, preempt := false,
            stopEnd := false },
          clp := s.clp.record .turntableFault stage 0 } →
        ∃ w : State, exec (.turntableTimerExpiry order) s = .next w ∧
          (s.tc.served = none → FollowUp faulted w) ∧
          (∀ pre y post ended, s.tc.queue = pre ++ y :: post → s.tc.served = some (pre.length + 1) → s.attemptIdle →
            ended = { faulted with tc := { faulted.tc with
              queue := pre ++ post, served := none, move := none, returnHeld := none } } →
            (y.train = none → FollowUp ended w) ∧
            (∀ k x held, RegisterLaw s → s.train? k = some x → y.train = some x.number →
              s.tc.returnHeld = some held → s.occupied (x.span.getLast?.getD 0) = true →
              FollowUp (ended.putTrain k { x with state := if held then .held else .active }) w)) ∧
          (s.plan.turntable.present = true → s.fs.image.Wf →
            ∀ bit, bit ∈ [s.plan.turntable.cwBit, s.plan.turntable.acwBit, s.plan.turntable.releaseBit] →
              (∀ g ∈ s.plan.signals.rows, bit ∉ g.2.lampBits) → (∀ b ∈ s.plan.buttons.rows, b.2.lamp ≠ bit) →
              w.out bit = false))

/-- R131, R138, R139: what one sensor event does to the TC, state by state; an event a state does not take leaves the TC as
it is. The train of a request that ends goes back into its return state, or is LOST where its one section reads clear
(R71). A lock lost while LOCKED is fault stage 5 and a 48th index arrival without the home mark is stage 4. Where an
arrival and a lock event fall in one report the arrival comes first, by the model's choice (log entry 20), and the mark
kept for the burst rule at an end in STOP is the model's (log entry 24). -/
def Obligations.TurntableSensors : Prop :=
  ∀ (s : State),
    (s.tc.state = .unindexed ∨ s.tc.state = .faulted → ∀ i h c d, (s.sensors i h c d).tc = s.tc) ∧
    (s.tc.state = .homing → s.tc.phase = some .release →
      (∀ i h c, (s.sensors i h c false).tc = s.tc) ∧
      (∀ i h, (s.sensors i h false true).tc =
        { s.tc with phase := some .seek, index := some 0, timer := some s.plan.turntable.stepTimeout })) ∧
    (s.tc.state = .homing → s.tc.phase = some .seek →
      (∀ c d, (s.sensors false false c d).tc = s.tc) ∧
      (∀ i d, (s.sensors i true false d).tc = { s.tc with
        phase := some .engage, index := none, pos := some 0, timer := some s.plan.turntable.lockTimeout }) ∧
      (∀ n d, s.tc.index = some n → n < 47 → (s.sensors true false false d).tc =
        { s.tc with index := some (n + 1), timer := some s.plan.turntable.stepTimeout }) ∧
      (s.tc.index = some 47 → s.tc.served = none →
        (s.sensors true false false false).tc = { s.tc with
          state := .faulted, timer := none, phase := none, index := none, burst := none, preempt := false,
          stopEnd := false } ∧
        (s.sensors true false false false).clp = s.clp.record .turntableFault 4 0)) ∧
    (s.tc.state = .homing → s.tc.phase = some .engage →
      (∀ i h d, (s.sensors i h false d).tc = s.tc) ∧
      (∀ i h, (s.sensors i h true false).tc =
          { s.tc with state := .locked, timer := none, phase := none, index := none } ∧
        (s.sensors i h true false).clp = s.clp.record .turnDone 0 0)) ∧
    (s.tc.state = .unlocking →
      (∀ i h c, (s.sensors i h c false).tc = s.tc) ∧
      (∀ i h m, s.mc.mode ≠ .stop → s.tc.move = some m → (s.sensors i h false true).tc =
        { s.tc with state := .moving, timer := some s.plan.turntable.stepTimeout }) ∧
      (∀ i h, s.mc.mode = .stop → (s.sensors i h false true).tc = { s.tc with state := .halted, timer := none })) ∧
    (s.tc.state = .moving → ∀ m p, s.tc.move = some m → s.tc.pos = some p →
      (∀ h d, (s.sensors false h false d).tc = s.tc) ∧
      (∀ h d, 1 < m.steps → (s.sensors true h false d).tc = { s.tc with
        pos := some (stepFrom p m.dir), move := some { m with steps := m.steps - 1 },
        timer := some s.plan.turntable.stepTimeout }) ∧
      (∀ h d, m.steps = 1 → (s.sensors true h false d).tc = { s.tc with
        state := .locking, pos := some (stepFrom p m.dir), move := some { m with steps := 0 },
        timer := some s.plan.turntable.lockTimeout })) ∧
    (s.tc.state = .halted → ∀ m p, s.tc.move = some m → s.tc.pos = some p →
      (∀ h c d, (s.sensors false h c d).tc = s.tc) ∧
      (∀ h c d, (s.sensors true h c d).tc = { s.tc with
        pos := some (stepFrom p m.dir), move := some { m with steps := m.steps - 1 } })) ∧
    (s.tc.state = .locking →
      (∀ i h d, (s.sensors i h false d).tc = s.tc) ∧
      (∀ i h pre y post, s.tc.queue = pre ++ y :: post → s.tc.served = some (pre.length + 1) →
        (s.sensors i h true false).tc = { s.tc with
            state := .locked, timer := none, phase := none, index := none, queue := pre ++ post, served := none,
            move := none, returnHeld := none, stopEnd := decide (s.mc.mode = .stop) } ∧
        (s.clp.notices.length ≤ 30 → noticed (s.sensors i h true false).clp.notices .turnDone y.road = true) ∧
        (s.sensors i h true false).due.turnEnds = s.due.turnEnds ++ [⟨y.station, y.train, y.road, true⟩] ∧
        (∀ k x held back, RegisterLaw s → s.train? k = some x → y.train = some x.number → s.tc.returnHeld = some held →
          back = (if held then .held else .active) →
          (∀ j, j ≠ k → (s.sensors i h true false).train? j = s.train? j) ∧
          ((∀ sec, x.span = [sec] → s.occupied sec = true) →
            (s.sensors i h true false).train? k = some { x with state := back } ∧
            (s.sensors i h true false).clp = s.clp.record .turnDone y.road 0) ∧
          (∀ sec, x.span = [sec] → s.occupied sec = false →
            (s.sensors i h true false).train? k = some { x with state := .lost } ∧
            (s.sensors i h true false).clp = (s.clp.record .trainLost x.number 0).record .turnDone y.road 0)) ∧
        (y.train = none ∨ s.tc.returnHeld = none → (s.sensors i h true false).tr = s.tr))) ∧
    (s.tc.state = .locked →
      (∀ i h c, (s.sensors i h c false).tc = s.tc) ∧
      (∀ i h, s.tc.served = none → (s.sensors i h false true).tc = { s.tc with
            state := .faulted, timer := none, phase := none, index := none, burst := none, preempt := false,
            stopEnd := false } ∧
          (s.sensors i h false true).clp = s.clp.record .turntableFault 5 0)) ∧
    (s.plan.turntable.present = true → s.fs.image.Wf → ∀ cw acw rel, cw = s.plan.turntable.cwBit →
      acw = s.plan.turntable.acwBit → rel = s.plan.turntable.releaseBit → [cw, acw, rel].Nodup →
      (s.tc.state = .homing → s.tc.phase = some .release → ∀ i h,
        (s.sensors i h false true).out cw = true ∧ (s.sensors i h false true).out acw = false ∧
        (s.sensors i h false true).out rel = true) ∧
      (s.tc.state = .homing → s.tc.phase = some .seek → ∀ i, ∀ bit ∈ [cw, acw, rel],
        (s.sensors i true false false).out bit = false) ∧
      (s.tc.state = .unlocking → s.mc.mode ≠ .stop → ∀ i h m, s.tc.move = some m →
        (s.sensors i h false true).out cw = decide (m.dir = .clockwise) ∧
        (s.sensors i h false true).out acw = decide (m.dir = .anticlockwise) ∧
        (s.sensors i h false true).out rel = true) ∧
      (s.tc.state = .moving → ∀ h m, s.tc.move = some m → m.steps = 1 → ∀ bit ∈ [cw, acw, rel],
        (s.sensors true h false false).out bit = false))

/-! ### Automatic working -/

/-- R148, R150, R152: START DEMO and STOP DEMO of a demo that is not running: the tests in order, and the visitor queue; a
START DEMO taken with no demo running and no visitor waiting, or at a full queue, makes a start attempt at once; a press
report of the scanner ignored, or admitted by the same rules. A start attempt sends the request of the demo at the head of
the queue where its train stands ready; accepted, it starts the demo, and otherwise nothing changes. -/
def Obligations.VisitorQueue : Prop :=
  (∀ (f : Frame) (st : Nat) (s : State) (b : Byte) (busy : Prop), s.listening → Carries f 0x60 st [b] →
    (busy ↔ (∃ v ∈ s.awu.queue, v.demo = b.toNat) ∨ ∃ r, s.awu.running = some r ∧ r.demo = b.toNat) →
    (st ≠ 0 → exec (.startDemo f) s = .next (s.replied f 0x60 (.refused .notPermitted []))) ∧
    (st = 0 → (b.toNat = 0 ∨ 16 < b.toNat) → exec (.startDemo f) s = .next (s.replied f 0x60 (.refused .range []))) ∧
    (st = 0 → 1 ≤ b.toNat → b.toNat ≤ 16 →
      (s.plan.demos.get? b.toNat = none → exec (.startDemo f) s = .next (s.replied f 0x60 (.refused .noSuch []))) ∧
      (s.plan.demos.get? b.toNat ≠ none →
        (s.mc.mode ≠ .run → exec (.startDemo f) s = .next (s.replied f 0x60 (.refused .badMode []))) ∧
        (s.mc.mode = .run → busy → exec (.startDemo f) s = .next (s.replied f 0x60 (.refused .conflict []))) ∧
        (s.mc.mode = .run → ¬busy →
          (8 ≤ s.awu.queue.length → s.plan.device.policy = .keepOldest →
            exec (.startDemo f) s = .next (s.replied f 0x60 (.refused .tableFull []))) ∧
          ((s.awu.queue.length < 8 ∨ s.plan.device.policy = .keepNewest) →
            ∀ q, q = (if 8 ≤ s.awu.queue.length then s.awu.queue.tail else s.awu.queue) ++ [⟨b.toNat, 0, 0⟩] →
            (∃ w : State, exec (.startDemo f) s = .next (w.answeredWith f 0x60 (.accepted [byte q.length]))) ∧
            (s.Quiet → s.awu.running ≠ none ∨ (s.awu.queue ≠ [] ∧ s.awu.queue.length < 8) →
              ∃ w : State, exec (.startDemo f) s = .next (w.answeredWith f 0x60 (.accepted [byte q.length])) ∧
                FollowUp { s.openFrame f with awu := { s.awu with queue := q } } w) ∧
            (s.awu.running = none → s.awu.queue = [] ∨ 8 ≤ s.awu.queue.length → s.due.settled = true →
              ∀ tried : State, tried = State.attemptStart { s.openFrame f with awu := { s.awu with queue := q } } →
                tried.due.turnEnds = [] → tried.scanIdle → tried.turnIdle →
                ∃ w : State, exec (.startDemo f) s = .next (w.answeredWith f 0x60 (.accepted [byte q.length])) ∧
                  FollowUp tried w)))))) ∧
  (∀ (f : Frame) (st : Nat) (s : State) (b : Byte), s.listening → Carries f 0x61 st [b] →
    (st ≠ 0 → exec (.stopDemo f) s = .next (s.replied f 0x61 (.refused .notPermitted []))) ∧
    (st = 0 → (b.toNat = 0 ∨ 16 < b.toNat) → exec (.stopDemo f) s = .next (s.replied f 0x61 (.refused .range []))) ∧
    (st = 0 → 1 ≤ b.toNat → b.toNat ≤ 16 →
      (s.plan.demos.get? b.toNat = none → exec (.stopDemo f) s = .next (s.replied f 0x61 (.refused .noSuch []))) ∧
      (s.plan.demos.get? b.toNat ≠ none → s.awu.running.map Running.demo ≠ some b.toNat →
        ((∀ v ∈ s.awu.queue, v.demo ≠ b.toNat) →
          exec (.stopDemo f) s = .next (s.replied f 0x61 (.refused .noSuch []))) ∧
        (∀ v ∈ s.awu.queue, v.demo = b.toNat →
          (∃ w : State, exec (.stopDemo f) s = .next (w.answeredWith f 0x61 (.done []))) ∧
          (s.Quiet →
            s.mc.mode ≠ .run ∨ s.awu.running ≠ none ∨ s.awu.queue = [v] ∨
              (∃ u rest, s.awu.queue = u :: rest ∧ u.demo ≠ b.toNat) →
            ∃ w : State, exec (.stopDemo f) s = .next (w.answeredWith f 0x61 (.done [])) ∧
              FollowUp { s.openFrame f with awu := { s.awu with
                queue := s.awu.queue.filter (fun u => decide (u.demo ≠ b.toNat)) } } w))))) ∧
  (∀ (s : State) (panel button : Nat) (b : ButtonRec) (ignored : Prop),
    (ignored ↔ s.mc.mode ≠ .run ∨ s.console panelLock = true ∨ (∃ v ∈ s.awu.queue, v.demo = b.demo) ∨
      s.awu.running.map Running.demo = some b.demo ∨ Tab.getD 0 s.awu.cooldown panel ≠ 0 ∨
      (8 ≤ s.awu.queue.length ∧ s.plan.device.policy = .keepOldest)) →
    (ignored → s.press panel button b = s) ∧
    (¬ignored → s.press panel button b = { s with
      awu := { s.awu with
        queue := (if 8 ≤ s.awu.queue.length then s.awu.queue.tail else s.awu.queue) ++ [⟨b.demo, panel, button⟩] },
      due := { s.due with
        attempt := s.due.attempt ||
          decide ((s.awu.queue = [] ∧ s.awu.running = none) ∨ 8 ≤ s.awu.queue.length) } })) ∧
  ∀ (s : State),
    (s.mc.mode ≠ .run ∨ s.awu.running ≠ none ∨ s.awu.queue = [] → s.attemptStart = s) ∧
    (∀ v rest d, RegisterLaw s → s.mc.mode = .run → s.awu.running = none → s.awu.queue = v :: rest →
      s.plan.demos.get? v.demo = some d →
      ((∀ k x, s.train? k = some x → x.number = d.train →
          ¬(x.owner = .awu ∧ x.auto = true ∧ x.granted = 0)) → s.attemptStart = s) ∧
      (∀ k x t a, s.train? k = some x → x.number = d.train → x.owner = .awu → x.auto = true → x.granted = 0 →
        (match d.kind with
          | .run route _ => s.askRoute ⟨route, some d.train, 40, 14, false⟩
          | .turn road e => s.askTurn ⟨some d.train, road, e, 40, 14, false⟩) = (t, a) →
        ((∃ r p, a = .refused r p) → s.attemptStart = s) ∧
        ((∃ p, a = .accepted p) → ∀ u : State,
          u = (match d.kind with
            | .run _ g => t.updTrain k (fun y => { y with requested := g })
            | .turn _ _ => t) →
          s.attemptStart = { u with
            awu := { u.awu with queue := rest, running := some ⟨v.demo, d.train, v.panel, v.button, d.limit * 10⟩ },
            clp := u.clp.record .demoStarted v.demo 0 })))

/-- R149, R151, R152: a running demo ends by STOP DEMO, or as its time runs out at its last tick (log entry 4): its train
is asked for grade 0 and loses its dwell, its panel cools down, DEMO_ENDED is noticed with the reason, and, for any reason
but COMPLETE, no CLEARED route stays assigned to the train, and a TURN demo's request that waits leaves the turn queue.
Without a running demo at its last tick a timeout changes nothing (log entry 35). -/
def Obligations.DemosEnd : Prop :=
  (∀ (order : List Block) (s : State),
    (s.awu.running = none ∨ ∃ r, s.awu.running = some r ∧ 1 < r.remaining) →
      exec (.demoTimeout order) s = .next { s with order := order }) ∧
  (∀ (f : Frame) (order : List Block) (s : State) (r : Running) (detail : Nat) (base after target : State),
    RegisterLaw s → s.Quiet → s.awu.running = some r → (s.mc.mode ≠ .run ∨ s.awu.queue = []) →
    (∀ j q k x, s.route? j = some q → q.state = .cleared → q.train = some k → s.train? k = some x →
      x.number ≠ r.train) →
    (∀ (i : Nat) y, s.tc.queue[i]? = some y → y.train = some r.train → s.tc.served = some (i + 1)) →
    ((base = s.openFrame f ∧ detail = 3) ∨ (base = { s with order := order } ∧ detail = 2)) →
    after = { base with
      clp := s.clp.record .demoEnded r.demo detail,
      awu := { s.awu with
        running := none,
        cooldown := if r.panel = 0 then s.awu.cooldown
          else Tab.putD 0 s.awu.cooldown r.panel (s.plan.device.cooldown * 10) } } →
    ((∃ k x, s.train? k = some x ∧ x.number = r.train ∧
        target = State.putTrain { after with awu := { after.awu with dwells := s.awu.dwells.erase k } } k
          { x with requested := 0, dwell := none }) ∨
      ((∀ k x, s.train? k = some x → x.number ≠ r.train) ∧ target = after)) →
    (detail = 3 → s.listening → ∀ b : Byte, Carries f 0x61 0 [b] → b.toNat = r.demo → 1 ≤ r.demo → r.demo ≤ 16 →
      s.plan.demos.get? r.demo ≠ none →
      ∃ w : State, exec (.stopDemo f) s = .next (w.answeredWith f 0x61 (.done [])) ∧ FollowUp target w) ∧
    (detail = 2 → r.remaining ≤ 1 → ∃ w : State, exec (.demoTimeout order) s = .next w ∧ FollowUp target w)) ∧
  (∀ (s : State) (r : Running) (slot : Nat) (x : Train) (why : DemoEnd), RouteLaw s → RegisterLaw s →
    s.awu.running = some r → s.train? slot = some x → x.number = r.train → why ≠ .complete →
    ∀ k q, (s.endDemo why).route? k = some q → q.train = some slot → q.state ≠ .cleared) ∧
  ∀ (f : Frame) (order : List Block) (s : State) (r : Running) (d : DemoRec) (road : Nat) (e : EndChoice)
    (pre post : List TurnReq) (y : TurnReq), RegisterLaw s → s.awu.running = some r → s.plan.demos.get? r.demo = some d →
    d.kind = .turn road e → s.tc.queue = pre ++ y :: post → y.train = some r.train → s.tc.served ≠ some (pre.length + 1) →
    (∀ z ∈ pre ++ post, z.train ≠ some r.train) →
    (s.endDemo .complete).tc = s.tc ∧
    (∀ why, why ≠ .complete → (s.endDemo why).tc.queue = pre ++ post) ∧
    (s.due.settled = true → (s.mc.mode ≠ .run ∨ s.awu.queue = []) →
      (r.remaining ≤ 1 → ∃ t, exec (.demoTimeout order) s = .next t ∧ ∀ z ∈ t.tc.queue, z.train ≠ some r.train) ∧
      (s.listening → ∀ b : Byte, Carries f 0x61 0 [b] → b.toNat = r.demo → 1 ≤ r.demo → r.demo ≤ 16 →
        ∃ t, exec (.stopDemo f) s = .next t ∧ ∀ z ∈ t.tc.queue, z.train ≠ some r.train))

/-- R143, R149, R153, R154: READ TURNTABLE, READ BOARD and READ PANEL from every station in every mode; the layouts are the
model's (log entry 15). The views of the boards: empty in SETUP and QUIET, frozen by board hold, and otherwise the first
four of the lines that trains give: a train at a platform, one that approaches, with its arrival time over half its head
section and the reserved sections between, or one that is held, in that order, arrivals by time, each by slot; a view that
changes is noticed BOARD_CHANGED. The details of the walk that makes a line, from the train's last ENTERED section on
through the CLEARED and OCCUPIED routes assigned to it, and that a LOST train has no start route, are the model's reading
(log entries 25 and 54). -/
def Obligations.TurntableBoardAndPanelReads : Prop :=
  (∀ (f : Frame) (st : Nat) (s : State), s.listening → Carries f 0x53 st [] →
    exec (.readTurntable f) s = .next (s.replied f 0x53 (.done (
      [match s.tc.state with
        | .unindexed => 0#8 | .homing => 1#8 | .locked => 2#8 | .unlocking => 3#8 | .moving => 4#8 | .locking => 5#8
        | .halted => 6#8 | .faulted => 7#8,
       match s.tc.phase with | none => 255#8 | some .release => 0#8 | some .seek => 1#8 | some .engage => 2#8,
       byte (s.tc.index.getD 255), byte (s.tc.pos.getD 255)] ++
      (match s.tc.move with
        | none => [255#8, 255#8, 255#8, 255#8]
        | some m =>
          [byte m.target, match m.endAt with | .a => 0#8 | .b => 1#8,
            match m.dir with | .clockwise => 0#8 | .anticlockwise => 1#8, byte m.steps]) ++
      [byte (s.tc.served.getD 0), byte (s.tc.burst.getD 255), if s.tc.preempt then 1#8 else 0#8,
        byte s.tc.queue.length] ++
      s.tc.queue.flatMap (fun y =>
        two (y.train.getD 0) ++
        [byte y.road, match y.endAt with | .a => 0#8 | .b => 1#8 | .either => 2#8, byte y.station, byte y.clamped,
          byte y.effective, if y.follow then 1#8 else 0#8]))))) ∧
  (∀ (f : Frame) (st : Nat) (s : State) (b : Byte), s.listening →
    (Carries f 0x62 st [b] →
      ((b.toNat = 0 ∨ 8 < b.toNat) → exec (.readBoard f) s = .next (s.replied f 0x62 (.refused .range []))) ∧
      (1 ≤ b.toNat → b.toNat ≤ 8 →
        (s.plan.boards.get? b.toNat = none →
          exec (.readBoard f) s = .next (s.replied f 0x62 (.refused .noSuch []))) ∧
        (s.plan.boards.get? b.toNat ≠ none →
          exec (.readBoard f) s = .next (s.replied f 0x62 (.done (
            [byte (s.view b.toNat).length] ++
            (s.view b.toNat).flatMap (fun l =>
              two l.number ++
              [match l.status with | .atPlatform => 0#8 | .approaching => 1#8 | .held => 2#8, byte l.sect] ++
              two (l.time.getD 65535)) ++
            [if (s.awu.line1.accepted = true ∧ s.plan.device.console1 = 3) ∨
                (s.awu.line2.accepted = true ∧ s.plan.device.console2 = 3) ∨
                (s.awu.line3.accepted = true ∧ s.plan.device.console3 = 3) then 1#8 else 0#8])))))) ∧
    (Carries f 0x63 st [b] →
      ((b.toNat = 0 ∨ 6 < b.toNat) → exec (.readPanel f) s = .next (s.replied f 0x63 (.refused .range []))) ∧
      (1 ≤ b.toNat → b.toNat ≤ 6 →
        exec (.readPanel f) s = .next (s.replied f 0x63 (.done (
          [4#8] ++ [1, 2, 3, 4].flatMap (fun i =>
            match s.plan.buttons.get? (b.toNat * 256 + i) with
            | none => [0#8, 0#8, 0#8, 0#8]
            | some r =>
              [1#8, byte r.demo,
                match s.lamp (b.toNat * 256 + i) with | .off => 0#8 | .steady => 1#8 | .flash => 2#8,
                if r.demo ∈ s.awu.queue.map Visitor.demo ∨ s.awu.running.map Running.demo = some r.demo then 1#8
                else 0#8]) ++
          two (Tab.getD 0 s.awu.cooldown b.toNat) ++
          (match s.awu.running with
            | some r => [2#8, byte r.demo] ++ two r.remaining
            | none => [if s.awu.queue = [] then 0#8 else 1#8, 0#8, 0#8, 0#8]) ++
          [byte s.awu.queue.length] ++
          s.awu.queue.flatMap (fun v => [byte v.demo, byte v.panel, byte v.button]))))))) ∧
  ∀ (s : State), s.awu.views.Wf → s.plan.boards.Wf → s.tr.trains.Wf →
    ((s.mc.mode = .quiet ∨ s.mc.mode = .setup) → ∀ b, s.plan.boards.get? b ≠ none → s.refreshBoards.view b = []) ∧
    ((s.mc.mode = .run ∨ s.mc.mode = .stop) → s.console boardHold = true → s.refreshBoards = s) ∧
    ((s.mc.mode = .run ∨ s.mc.mode = .stop) → s.console boardHold = false →
      ∀ b r, s.plan.boards.get? b = some r →
        (s.refreshBoards.view b).length ≤ 4 ∧
        (s.refreshBoards.view b).Pairwise (fun l m =>
          (l.status = .held → m.status = .held) ∧ (m.status = .atPlatform → l.status = .atPlatform) ∧
          (l.status = .approaching → m.status = .approaching → l.time.getD 0 ≤ m.time.getD 0)) ∧
        ∀ l ∈ s.refreshBoards.view b, l.sect ∈ r.sections ∧
          ∃ k x, s.train? k = some x ∧ l.number = x.number ∧ (l.status = .atPlatform ↔ x.head ∈ r.sections) ∧
            (l.status = .held → x.granted = 0) ∧ (l.status = .approaching → x.granted ≠ 0)) ∧
    ((s.mc.mode = .run ∨ s.mc.mode = .stop) → s.console boardHold = false → RouteLaw s → SpanLaw s → PlanForm s.plan →
      s.plan.check = none → ∀ b r, s.plan.boards.get? b = some r →
        ∃ lines : List (Nat × BoardLine), s.refreshBoards.view b = lines.map Prod.snd ∧ lines.length ≤ 4 ∧
          lines.Pairwise standsBefore ∧
          (∀ y ∈ lines, ∃ x, s.train? y.1 = some x ∧ s.givesLine r.sections y.1 x y.2) ∧
          ∀ k x l, s.train? k = some x → s.givesLine r.sections k x l →
            (k, l) ∈ lines ∨ (lines.length = 4 ∧ ∀ y ∈ lines, standsBefore y (k, l))) ∧
    (∀ b v, (v = s.view b → s.showView b v = s) ∧
      (v ≠ s.view b → (s.showView b v).view b = v ∧ (∀ c, c ≠ b → (s.showView b v).view c = s.view c) ∧
        (s.showView b v).clp = s.clp.record .boardChanged b 0)) ∧
    ((∀ b, s.plan.boards.get? b ≠ none → s.refreshBoards.view b = s.view b) → s.refreshBoards.clp = s.clp) ∧
    ∀ b, s.plan.boards.get? b ≠ none → s.refreshBoards.view b ≠ s.view b →
      noticed s.refreshBoards.clp.notices .boardChanged b = true ∨ s.refreshBoards.clp.noticeLost = true

/-- R146, R147, R149: the ends of a dwell and of a panel's cooldown, each at its last tick (log entry 4): the train is asked
for its saved grade and the route is requested as its cab or as station 40. A dwell does not end outside RUN and QUIET;
without a timer at its last tick nothing happens (log entry 35). -/
def Obligations.DwellAndCooldown : Prop :=
  (∀ (slot : Nat) (order : List Block) (s : State),
    ((s.train? slot).bind Train.dwell = none ∨ s.working = false ∨
        (∃ n, (s.train? slot).bind Train.dwell = some n ∧ 1 < n) →
      exec (.dwellEnd slot order) s = .next { s with order := order }) ∧
    (∀ x n r base station, s.train? slot = some x → x.dwell = some n → n ≤ 1 → s.working = true →
      s.awu.dwells.get? slot = some r → s.tr.trains.Wf → s.Still →
      station = (match x.owner with | .cab c _ => c | _ => 40) →
      base = State.putTrain { s with order := order, awu := { s.awu with dwells := s.awu.dwells.erase slot } } slot
        { x with requested := r.grade, dwell := none } →
      ∃ w : State, exec (.dwellEnd slot order) s = .next w ∧
        FollowUp (base.askRoute ⟨r.route, some x.number, station, s.plan.floor station, true⟩).1 w)) ∧
  ∀ (panel : Nat) (s : State),
    (Tab.getD 0 s.awu.cooldown panel ≠ 1 → exec (.cooldownExpiry panel) s = .next s) ∧
    (Tab.getD 0 s.awu.cooldown panel = 1 → s.awu.cooldown.Wf →
      ∃ cooldown, exec (.cooldownExpiry panel) s = .next { s with awu := { s.awu with cooldown := cooldown } } ∧
        ∀ j, Tab.getD 0 cooldown j = if j = panel then 0 else Tab.getD 0 s.awu.cooldown j)

/-! ### The field chain and tracking -/

/-- R25, R26, R28 to R31, R33: the completion of a scan: the chain check and its states, the debounce of each input bit
(held where the scan is discarded), the outputs latched, and the lengths and the image the next scan starts with. A chain
that fails is noticed FIELD_FAULT and stops a working layout; a scan that is not used, or brings nothing new, changes
nothing else. A bit takes a new value on the second scan to show it set, or on the scan of the clear debounce count to show
it clear. Bits that never came read 0 (log entry 8). A settled point with a detect input outside the chain is UNDETECTED
where its pair shows no position (log entry 57). R35 to R38: what a used scan changed is taken by TR, the IU, the TC or the
AWU; where one of them alone has news, the scan does what that block does with its report, with the hand-offs, and nothing
else; the TC arbitrates within its own event, before what it hands on is taken (R134, R139); that a start attempt handed on
reads the grades before they fall is the model's choice (log entry 66). -/
def Obligations.ScanCompletion : Prop :=
  (∀ (fdi : List Bool) (order : List Block) (s : State) (good : Bool) (pattern : List Bool),
    pattern = (match s.fs.check with
      | .a => [true, false, true, false, false, true, false, true]
      | .b => [false, true, false, true, true, false, true, false]) →
    (good = true ↔ ∀ i, i < 8 → fdi.getD (s.fs.inLen + i) false = pattern.getD i false) →
    ∃ t : State, exec (.scanCompletion fdi order) s = .next t ∧
      t.fs.check = (match s.fs.check with | .a => .b | .b => .a) ∧
      (t.fs.chain, t.fs.recovery, t.fs.fieldFault) = (match s.fs.chain, good with
        | .good, true => (.good, s.fs.recovery, s.fs.fieldFault)
        | .good, false => (.suspect, s.fs.recovery, s.fs.fieldFault)
        | .suspect, true => (.good, s.fs.recovery, s.fs.fieldFault)
        | .suspect, false => (.fault, 0, true)
        | .fault, true =>
          if s.fs.recovery < 7 then (.fault, s.fs.recovery + 1, s.fs.fieldFault) else (.good, 0, s.fs.fieldFault)
        | .fault, false => (.fault, 0, s.fs.fieldFault)) ∧
      t.fs.inLen = s.plan.device.inputLength ∧ t.fs.outLen = s.plan.device.outputLength ∧ t.fs.sent = t.fs.image ∧
      (∀ b, Tab.getD false t.fs.latched b =
        if b < s.fs.outLen then Tab.getD false s.fs.sent b else Tab.getD false s.fs.latched b) ∧
      (s.fs.inputs.Wf → ∀ n, n < s.fs.inLen → n < s.plan.device.inputLength →
        ∀ b raw threshold, b = Tab.getD {} s.fs.inputs n → raw = fdi.getD n false →
          threshold = (if b.count ≠ 0 then b.threshold else if raw then 2 else s.plan.device.clearDebounce) →
          Tab.getD {} t.fs.inputs n =
            if good = false ∨ s.fs.chain = .fault then b
            else if raw = b.value then { b with count := 0 }
            else if b.count + 1 < threshold then { b with count := b.count + 1, threshold := threshold }
            else { value := raw, count := 0, threshold := threshold }) ∧
      (s.fs.chain = .suspect → good = false → s.working = true →
        t.mc = { s.mc with mode := .stop, remembered := some s.mc.mode }) ∧
      (s.fs.chain = .suspect → good = false →
        (noticed t.clp.notices .fieldFault 0 = true ∨ t.clp.noticeLost = true) ∧
        (s.working = false → s.Quiet → t.clp = s.clp.record .fieldFault 0 0)) ∧
      (s.Quiet → ¬(s.fs.chain = .suspect ∧ good = false) →
        (good = false ∨ s.fs.chain = .fault ∨
          ∀ n, n < s.fs.inLen → fdi.getD n false = (Tab.getD {} s.fs.inputs n).value) →
        FollowUp { s with order := order, fs := t.fs, iu := { s.iu with points := t.iu.points } } t ∧
        (s.iu.points.Wf → s.plan.points.Wf → ∀ p, t.point p = match s.plan.points.get? p with
          | none => s.point p
          | some r =>
            if (s.plan.device.inputLength ≤ r.normalDetect ∨ s.plan.device.inputLength ≤ r.reverseDetect) ∧
                ((s.point p).state = .normal ∨ (s.point p).state = .reverse) ∧
                t.input r.normalDetect = t.input r.reverseDetect then
              { s.point p with state := .undetected }
            else s.point p))) ∧
  (∀ (fdi : List Bool) (order : List Block) (s u v : State) (pattern : List Bool) (news : Nat → Bool)
     (noSection noPoint noTable noPress : Prop),
    pattern = (match s.fs.check with
      | .a => [true, false, true, false, false, true, false, true]
      | .b => [false, true, false, true, true, false, true, false]) →
    (∀ i, i < 8 → fdi.getD (s.fs.inLen + i) false = pattern.getD i false) → s.fs.chain ≠ .fault →
    s.due.settled = true → s.due.arrivals = [] → v.due.settled = true → v.due.arrivals = [] →
    u = { s with
      order := order,
      fs := FS.debounce { s.fs.latch with check := s.fs.check.other, chain := .good } s.plan.device.clearDebounce fdi } →
    (∀ n, news n = (decide (n < s.fs.inLen) &&
      decide ((Tab.getD {} s.fs.inputs n).value ≠ (Tab.getD {} u.fs.inputs n).value))) →
    (noSection ↔ ∀ r ∈ s.plan.sections.rows, news r.2.detector = false) →
    (noPoint ↔ ∀ r ∈ s.plan.points.rows, news r.2.normalDetect = false ∧ news r.2.reverseDetect = false) →
    (noTable ↔ s.plan.turntable.present = false ∨ (news s.plan.turntable.indexBit = false ∧
      news s.plan.turntable.homeBit = false ∧ news s.plan.turntable.lockBit = false)) →
    (noPress ↔ ∀ r ∈ s.plan.buttons.rows, news r.2.input = false ∨ u.input r.2.input = false) →
    ((noPoint ∧ noTable ∧ noPress ∧
        v = u.takeReport
          ((s.plan.sections.rows.filter (fun r => news r.2.detector && u.occupied r.1)).map Prod.fst)
          ((s.plan.sections.rows.filter (fun r => news r.2.detector && !u.occupied r.1)).map Prod.fst)) ∨
      (noSection ∧ noTable ∧ noPress ∧ ∃ p, s.plan.points.rows.filter
          (fun r => news r.2.normalDetect || news r.2.reverseDetect) = [p] ∧ v = (u.detection p.1).handOn) ∨
      (noSection ∧ noPoint ∧ noPress ∧ ¬noTable ∧
        v = (u.sensors (news s.plan.turntable.indexBit && u.input s.plan.turntable.indexBit)
          (news s.plan.turntable.homeBit && u.input s.plan.turntable.homeBit)
          (news s.plan.turntable.lockBit && u.input s.plan.turntable.lockBit)
          (news s.plan.turntable.lockBit && !u.input s.plan.turntable.lockBit)).tcTakes.handOn) ∨
      (noSection ∧ noPoint ∧ noTable ∧ ∃ b, s.plan.buttons.rows.filter
          (fun r => news r.2.input && u.input r.2.input) = [b] ∧ v = (u.press (b.1 / 256) (b.1 % 256) b.2).handOn)) →
    exec (.scanCompletion fdi order) s = .next (v.takeLengths.finish s.ss.urgent).startScan) ∧
  (∀ s : State, s.tcTakes = State.arbitrate { s with due := { s.due with arbitrate := false } }) ∧
  ∀ (b : InBit) (clearCount : Nat) (raw : Bool) (n : Nat), b.count = 0 → raw ≠ b.value →
    n = (if raw then 2 else clearCount) → 1 ≤ n →
    ∀ k, ((List.replicate k raw).foldl (fun x r => x.debounce clearCount r) b).value = if k < n then b.value else raw

/-- R60, R62, R64 to R66, R68, R70 to R72: what TR does with one section. Occupied, in the span of a train that is not
LOST: nothing; of a LOST one: the train is ACTIVE again, or STRAY is noticed where the section has a candidate. With no
candidate or with several: a stray mark and STRAY, but nothing in SETUP (R73). With one candidate: that train's new head,
in the direction of entry, with the overrun flag set and OVERRUN noticed where the section was not reserved for it. A
seventh section drops the tail, a tail departure where the tail is clear. A span that clears loses its clear sections at
the tail down to the last; a span of one clear section makes an ACTIVE or HELD train LOST; that the arbitration is handed
on for it whatever the turn queue holds, for a recovery where a turn request names the train, and for the bridge joining or
leaving a span, is the model's choice (log entries 5, 23 and 49). R98: a head entry marks the section ENTERED in the route
that reserves it, and a route entered at its first section becomes OCCUPIED and the train's own. R99: a section left gives
up its reservation and the locks of its points, and the last one retires its route. R103: a section left retires each
CANCELLING route that it leaves without a train in approach. R145, R146: the triggers that a head arrival sets off, by
ascending id, and what each does. A report of one section does what TR does with that section, then hands on to the TC and
the AWU (log entries 3 and 53); that the IU hears of an occupied section after TR has decided it, and that the retry scan
of each follows at once, is read from R61, R80 and R110 (log entry 26). -/
def Obligations.TrackingFollowsTheReport : Prop :=
  ∀ (s : State) (sec : Nat), RegisterLaw s →
    (∀ k x, s.train? k = some x → sec ∈ x.span → (∀ j y, s.train? j = some y → sec ∈ y.span → j = k) →
      x.state ≠ .lost → s.attribute s sec = s) ∧
    (s.spanOf sec = none → (s.candidates s sec).length ≠ 1 →
      s.attribute s sec = if s.mc.mode = .setup then s
        else { s.putStray sec true with clp := s.clp.record .stray sec 0 }) ∧
    (∀ k d x, s.spanOf sec = none → s.candidates s sec = [(k, d)] → s.train? k = some x → s.occupied sec = true →
      x.span.length ≤ 6 →
      ∃ y pre, (s.attribute s sec).train? k = some y ∧ y.number = x.number ∧ y.dir = d ∧
        pre ++ y.span = x.span ++ [sec] ∧ y.span.length ≤ 6 ∧ y.span.getLast? = some sec ∧
        ((s.reservedFor k sec d).isNone = true → y.overrun = true) ∧
        ((s.reservedFor k sec d).isSome = true → y.overrun = x.overrun) ∧
        ∀ z ∈ pre.tail, s.occupied z = false) ∧
    (∀ k x, s.train? k = some x → x.span ≠ [] → x.span.length ≤ 7 →
      ∃ y pre, (s.trim k).train? k = some y ∧ y.number = x.number ∧ pre ++ y.span = x.span ∧ y.span ≠ [] ∧
        (∀ z ∈ pre, s.occupied z = false) ∧ (1 < y.span.length → ∀ z, y.span.head? = some z → s.occupied z = true)) ∧
    (∀ k x, s.train? k = some x → x.span = [sec] → s.occupied sec = false →
      ((x.state = .active ∨ x.state = .held) →
        s.trim k = { s.putTrain k { x with state := .lost } with
          clp := s.clp.record .trainLost x.number 0, due := { s.due with arbitrate := true } }) ∧
      ((x.state = .turning ∨ x.state = .lost) → s.trim k = s)) ∧
    (s.plan.check = none → PlanForm s.plan →
      ∀ k d, (k, d) ∈ s.candidates s sec ↔ ∃ x, s.train? k = some x ∧ s.leadsTo x sec d) ∧
    (∀ k x, s.train? k = some x → sec ∈ x.span → (∀ j y, s.train? j = some y → sec ∈ y.span → j = k) → x.state = .lost →
      ((∀ j y d, s.train? j = some y → ¬s.leadsTo y sec d) →
        s.attribute s sec = { s.putTrain k { x with state := .active } with due := { s.due with
          arbitrate := (s.due.arbitrate || s.tc.queue.any (fun e => decide (e.train = some x.number))) } }) ∧
      ((∃ j y d, s.train? j = some y ∧ s.leadsTo y sec d) →
        s.attribute s sec = { s with clp := s.clp.record .stray sec 0 })) ∧
    (∀ k d x u, s.spanOf sec = none → s.candidates s sec = [(k, d)] → s.train? k = some x → s.stray sec = false →
      s.reservedFor k sec d = none →
      u = { s.putTrain k { x with span := x.span ++ [sec], dir := d, overrun := true } with
        clp := s.clp.record .overrun x.number 0,
        due := { s.due with arbitrate :=
          (s.due.arbitrate || decide ((s.plan.sections.get? sec).map SectionRec.kind = some SectionKind.bridge)) } } →
      s.attribute s sec = ((u.dropTail k).trim k).scanNow.headArrival k sec) ∧
    (∀ k x, s.train? k = some x →
      (x.span.length < 7 → s.dropTail k = s) ∧
      ∀ z rest u, x.span = z :: rest → rest.length = 6 →
        u = { s.putTrain k { x with span := rest } with due := { s.due with arbitrate :=
          (s.due.arbitrate || decide ((s.plan.sections.get? z).map SectionRec.kind = some SectionKind.bridge)) } } →
        (s.occupied z = true → s.dropTail k = u) ∧ (s.occupied z = false → s.dropTail k = (u.sectionLeft z).scanNow)) ∧
    (∀ v, s.due.arrivals = [] →
      (v = ((s.attribute s sec).scanNow.sectionOccupied sec).scanNow →
        s.takeReport [sec] [] = (if v.awuFirst = true then v else v.handOn).takeArrivals.handOn) ∧
      (v = (match s.spanOf sec with
          | none => ((s.clearStray sec).sectionLeft sec).scanNow
          | some k => (s.trim k).scanNow) →
        s.takeReport [] [sec] = (if v.awuFirst = true then v else v.handOn).takeArrivals.handOn)) ∧
    (∀ k d x slot r e, s.spanOf sec = none → s.candidates s sec = [(k, d)] → s.train? k = some x → s.occupied sec = true →
      x.span ≠ [] → x.span.length ≤ 5 → (∀ z, x.span.head? = some z → s.occupied z = true) → s.stray sec = false →
      s.due.scan = false → s.mark sec = .route slot → s.route? slot = some r → s.routeRec r = some e →
      (∀ i : Nat, x.route = some slot → r.state = .occupied → e.sections.Nodup → e.sections[i]? = some sec →
        r.marks[i]? = some SectionMark.reserved →
          (s.attribute s sec).route? slot = some { r with marks := r.marks.set i .entered } ∧
          (s.attribute s sec).train? k = some { x with span := x.span ++ [sec], dir := d }) ∧
      ((r.state = .cleared ∨ r.state = .cancelling) → e.sections.head? = some sec →
        (r.train = none ∨ r.train = some k) → (s.plan.signals.get? e.entry).map SignalRec.dir = some d →
          (s.attribute s sec).route? slot = some
            { r with train := some k, state := .occupied, approach := none, marks := r.marks.set 0 .entered } ∧
          (s.attribute s sec).train? k = some { x with span := x.span ++ [sec], dir := d, route := some slot })) ∧
    (∀ slot r e (i : Nat), s.iu.routes.Wf → s.iu.marks.Wf → s.iu.points.Wf → s.mark sec = .route slot →
      s.route? slot = some r → s.routeRec r = some e → e.sections.Nodup → (e.points.map Prod.fst).Nodup →
      e.sections[i]? = some sec → r.marks[i]? = some SectionMark.entered →
      ((∃ j : Nat, ∃ m, j ≠ i ∧ r.marks[j]? = some m ∧ m ≠ SectionMark.released) →
        (s.releaseEntered sec).route? slot = some { r with marks := r.marks.set i .released } ∧
        (∀ y, (s.releaseEntered sec).mark y = if y = sec then .free else s.mark y) ∧
        ∀ p, (((∃ q, (p, q) ∈ e.points) ∧ (s.plan.points.get? p).map PointRec.sect = some sec) →
            (s.releaseEntered sec).point p = { s.point p with
              locks := (s.point p).locks - 1, demand := if (s.point p).locks ≤ 1 then none else (s.point p).demand }) ∧
          (¬((∃ q, (p, q) ∈ e.points) ∧ (s.plan.points.get? p).map PointRec.sect = some sec) →
            (s.releaseEntered sec).point p = s.point p)) ∧
      ((∀ (j : Nat) m, j ≠ i → r.marks[j]? = some m → m = SectionMark.released) →
        (s.releaseEntered sec).route? slot = none ∧ (∀ y, (s.releaseEntered sec).mark y =
          if (s.mark y).slot = some slot then .free else s.mark y) ∧
        (s.releaseEntered sec).clp = s.clp.record .routeDone r.route 0)) ∧
    (s.iu.routes.Wf → ∀ k r, (s.sectionLeft sec).route? k = some r → r.state = .cancelling →
      ∃ e g, s.routeRec r = some e ∧ s.plan.signals.get? e.entry = some g ∧ g.approach ≠ 0 ∧
        (s.occupied g.approach = true ∨ s.inSpan g.approach = true)) ∧
    (∀ k x, s.train? k = some x → s.plan.triggers.Wf →
      (∃ l, s.headArrival k sec = { s with due := { s.due with arrivals := s.due.arrivals ++ l } } ∧
        l.Pairwise (fun a b => a.trigger < b.trigger) ∧
        ∀ a, a ∈ l ↔ a.slot = k ∧ ∃ g, s.plan.triggers.get? a.trigger = some g ∧ g.sect = sec ∧ a.action = g.action ∧
          x.auto = true ∧ x.cls ∈ g.classes ∧
          (g.dir = .either ∨ (g.dir = .east ∧ x.dir = .east) ∨ (g.dir = .west ∧ x.dir = .west))) ∧
      ∀ id, s.act k id .notice = { s with clp := s.clp.record .trigger id 0 } ∧
        (∀ g, s.act k id (.setSpeed g) = s.putTrain k { x with requested := g }) ∧
        (∀ n r, (s.act k id (.dwell n r)).train? k = some { x with dwell := some n, requested := 0 } ∧
          (s.act k id (.dwell n r)).awu.dwells.get? k =
            some ⟨((s.awu.dwells.get? k).map DwellRec.grade).getD x.requested, r⟩) ∧
        (∀ r station, station = (match x.owner with | .cab c _ => c | _ => 40) →
          s.act k id (.requestRoute r) = (s.askRoute ⟨r, some x.number, station, s.plan.floor station, true⟩).1) ∧
        (∀ q, s.awu.running = some q → q.train = x.number → s.act k id .endDemo = s.endDemo .complete) ∧
        ((∀ q, s.awu.running = some q → q.train ≠ x.number) → s.act k id .endDemo = s)) ∧
    ∀ a, s.due.arrivals = [a] → s.takeArrivals =
      (State.act { s with due := { s.due with arrivals := [] } } a.slot a.trigger a.action).handOn

/-! ### Time and the drive port -/

/-- R54, R78, R103, R122, R131, R138, R147, R149, R151, R155, R156: a layout tick. It is counted; the console lines are
sampled; a line that rises with the emergency stop function stops a working layout, one with panel lock or demo abort
empties the visitor queue, demo abort ends the running demo, and lamp test lights every button lamp; keep-alives count
down, and so does the approach timer of a CANCELLING route while its approach section is occupied or in a span. While
nothing waits that the tick could start and nothing ends a demo or a dwell, every other timer counts down by one as well,
and a CANCELLING route whose approach is found clear or whose timer runs out is retired with ROUTE_FAILED. Where besides no
timer runs out and no route waits for its approach to clear, every granted grade rises to its target by at most the class
step, a FLASH lamp that stays FLASH changes its output, and the boards take their views (in the standard order of the
blocks, log entry 3, the views of the state the tick found). Rising and flashing are also stated of the operations by
themselves: grades rise in slot order. -/
def Obligations.LayoutTick : Prop :=
  (∀ (raw : ConsoleLevels) (order : List Block) (s : State) (after : ConsoleLine → Bool → ConsoleLine),
    (∀ l r, after l r = { accepted := if r = l.sample1 then r else l.accepted, sample1 := r, sample2 := l.sample1 }) →
    ∃ t : State, exec (.layoutTick raw order) s = .next t ∧ t.mc.ticks = s.mc.ticks + 1 ∧
      t.awu.line1 = after s.awu.line1 raw.line1 ∧ t.awu.line2 = after s.awu.line2 raw.line2 ∧
      t.awu.line3 = after s.awu.line3 raw.line3 ∧
      (s.working = true →
        ((s.plan.device.console1 = 1 ∧ s.awu.line1.accepted = false ∧ t.awu.line1.accepted = true) ∨
          (s.plan.device.console2 = 1 ∧ s.awu.line2.accepted = false ∧ t.awu.line2.accepted = true) ∨
          (s.plan.device.console3 = 1 ∧ s.awu.line3.accepted = false ∧ t.awu.line3.accepted = true)) →
        t.mc.mode = .stop ∧ t.mc.remembered = some s.mc.mode) ∧
      (∀ code, (code = 2 ∨ code = 5) →
        ((s.plan.device.console1 = code ∧ s.awu.line1.accepted = false ∧ t.awu.line1.accepted = true) ∨
          (s.plan.device.console2 = code ∧ s.awu.line2.accepted = false ∧ t.awu.line2.accepted = true) ∨
          (s.plan.device.console3 = code ∧ s.awu.line3.accepted = false ∧ t.awu.line3.accepted = true)) →
        t.awu.queue = [] ∧ (code = 5 → t.awu.running = none)) ∧
      (((s.plan.device.console1 = 4 ∧ t.awu.line1.accepted = true) ∨
          (s.plan.device.console2 = 4 ∧ t.awu.line2.accepted = true) ∨
          (s.plan.device.console3 = 4 ∧ t.awu.line3.accepted = true)) →
        ∀ k b, s.plan.buttons.get? k = some b → t.lamp k = .steady) ∧
      (s.tr.keepAlive.Wf → ∀ c, t.keepAliveOf c = match s.keepAliveOf c with
        | .counting n => if 1 < n then .counting (n - 1) else .expired
        | k => k) ∧
      (s.iu.routes.Wf → ∀ k r d g n, s.route? k = some r → r.state = .cancelling → r.approach = some n →
        s.routeRec r = some d → s.plan.signals.get? d.entry = some g → g.approach ≠ 0 →
        s.occupied g.approach = true ∨ s.inSpan g.approach = true → 1 < n →
          t.route? k = some { r with approach := some (n - 1) }) ∧
      (s.due.settled = true → s.turnIdle → s.iu.stack = [] → s.awu.queue = [] →
        (∀ c ∈ [s.plan.device.console1, s.plan.device.console2, s.plan.device.console3], c ≠ 1 ∧ c ≠ 5) →
        (∀ r, s.awu.running = some r → 1 < r.remaining) →
        (∀ k x n, s.train? k = some x → x.dwell = some n → 1 < n) →
        t.mc.mode = s.mc.mode ∧
        (s.iu.routes.Wf → ∀ k r, s.route? k = some r → r.state = .cancelling →
          ((∃ n, r.approach = some n ∧ n ≤ 1) ∨
            (∃ d g, s.routeRec r = some d ∧ s.plan.signals.get? d.entry = some g ∧
              (g.approach = 0 ∨ (s.occupied g.approach = false ∧ s.inSpan g.approach = false)))) →
          t.route? k = none ∧ (noticed t.clp.notices .routeFailed r.route = true ∨ t.clp.noticeLost = true)) ∧
        (∀ n, s.tc.timer = some n → 1 < n → t.tc.timer = some (n - 1)) ∧
        (∀ r, s.awu.running = some r → t.awu.running = some { r with remaining := r.remaining - 1 }) ∧
        (s.awu.cooldown.Wf → ∀ panel, Tab.getD 0 t.awu.cooldown panel = Tab.getD 0 s.awu.cooldown panel - 1) ∧
        (s.iu.points.Wf → ∀ p,
          (∀ n, (s.point p).throw = some n → 1 < n → (t.point p).throw = some (n - 1)) ∧
          ((s.point p).throw = none ∨ (∃ n, (s.point p).throw = some n ∧ 1 < n) →
            (t.point p).pulse = match (s.point p).pulse with
              | none => none
              | some (q, n) => if 1 < n then some (q, n - 1) else none)) ∧
        (s.tr.trains.Wf → s.awu.dwells.Wf → ∀ k x n, s.train? k = some x → x.dwell = some n →
          s.awu.dwells.get? k ≠ none →
          (t.train? k).bind Train.dwell = some (if s.working = true then n - 1 else n)) ∧
        (s.tr.trains.Wf → (∀ p n, (s.point p).throw = some n → 1 < n) → (∀ n, s.tc.timer = some n → 1 < n) →
          (∀ c n, s.keepAliveOf c = .counting n → 1 < n) → (∀ k r, s.route? k = some r → r.state ≠ .cancelling) →
          (∀ k x, s.train? k = some x → (t.train? k).map Train.granted =
            some (min (s.targetOf k x) (x.granted + (s.plan.classes.get x.cls).accel))) ∧
          (∀ k b, s.fs.image.Wf → s.plan.buttons.Wf → s.plan.buttons.get? k = some b → s.lamp k = .flash →
            s.lampOf b = .flash → t.awu.line1.accepted = s.awu.line1.accepted →
            t.awu.line2.accepted = s.awu.line2.accepted → t.awu.line3.accepted = s.awu.line3.accepted →
            (∀ j c, s.plan.buttons.get? j = some c → c.lamp = b.lamp → j = k) →
            (∀ g ∈ s.plan.signals.rows, b.lamp ∉ g.2.lampBits) →
            (∀ r ∈ s.plan.points.rows, r.2.normalDrive ≠ b.lamp ∧ r.2.reverseDrive ≠ b.lamp) →
            t.lamp k = .flash ∧ t.out b.lamp = !s.out b.lamp) ∧
          (s.awu.views.Wf → s.plan.boards.Wf → ∀ k b, s.plan.boards.get? k = some b →
            ((s.mc.mode = .setup ∨ s.mc.mode = .quiet) → t.view k = []) ∧
            ((s.mc.mode = .run ∨ s.mc.mode = .stop) →
              (t.console boardHold = true → t.view k = s.view k) ∧
              (t.console boardHold = false → order = [] → t.view k = s.boardView b)) ∧
            (t.view k ≠ s.view k →
              noticed t.clp.notices .boardChanged k = true ∨ t.clp.noticeLost = true))))) ∧
  (∀ (s : State), s.tr.trains.Wf → ∀ (target : Nat → Nat), (∀ k, target k = (s.speed k).target) →
    (∀ k x, s.train? k = some x → s.rampAll.train? k = some { x with
      granted :=
        if x.granted < target k then min (target k) (x.granted + (s.plan.classes.get x.cls).accel) else x.granted }) ∧
    s.rampAll.ss.urgent = s.ss.urgent ++ s.tr.trains.keys.filter (fun k =>
      decide (k ∉ s.ss.urgent) && (s.train? k).any (fun x => decide (x.granted < target k)))) ∧
  ∀ (s : State) (k : Nat) (b : ButtonRec), s.fs.image.Wf → s.plan.buttons.Wf → s.plan.buttons.get? k = some b →
    s.lamp k = .flash → (∀ j c, s.plan.buttons.get? j = some c → c.lamp = b.lamp → j = k) →
    s.flashLamps.out b.lamp = !s.out b.lamp

/-- R123 to R126, R175: ORDER_COMPLETION: the port goes on with the broadcast, else with the head of the urgent list, else
with the next refresh, else it is idle; and the five characters of an order. That nothing happens where no order is at the
port is the model's choice (log entry 35). -/
def Obligations.OrderCompletion : Prop :=
  (∀ (s : State) (order : Nat → Train → DriveOrder),
    (∀ k x, order k x = ⟨x.number, x.granted, x.sense, (s.speed k).emergency⟩) →
    (s.ss.port = none → exec .orderCompletion s = .next s) ∧
    (s.ss.port ≠ none →
      (s.ss.broadcast = true → exec .orderCompletion s =
        .next { s with ss := { s.ss with broadcast := false, port := some ⟨0, 0, .forward, true⟩ } }) ∧
      (s.ss.broadcast = false →
        (∀ k rest x, s.ss.urgent = k :: rest → s.train? k = some x → exec .orderCompletion s =
          .next { s with ss := { s.ss with
            urgent := (k :: rest).filter (fun j => decide (j ≠ k)), port := some (order k x) } }) ∧
        (s.ss.urgent = [] → s.tr.trains.Wf →
          (s.tr.trains.rows = [] → exec .orderCompletion s = .next { s with ss := { s.ss with port := none } }) ∧
          (∀ k x, s.train? k = some x →
            ((s.ss.refresh < k ∧ ∀ j y, s.train? j = some y → s.ss.refresh < j → k ≤ j) ∨
              (∀ j y, s.train? j = some y → j ≤ s.ss.refresh ∧ k ≤ j)) →
            exec .orderCompletion s =
              .next { s with ss := { s.ss with refresh := k, port := some (order k x) } }))))) ∧
  (∀ (o : DriveOrder), o.number ≤ 9999 → o.grade ≤ 63 →
    ∃ hi lo body check : Byte, o.characters = [0x7E#8, hi, lo, body, check] ∧ pair hi lo = o.number ∧
      body.toNat = o.grade + (if o.sense = .backward then 64 else 0) + (if o.emergency then 128 else 0) ∧
      check = 0x7E#8 ^^^ hi ^^^ lo ^^^ body) ∧
  DriveOrder.characters ⟨0, 0, .forward, true⟩ = [0x7E#8, 0x00#8, 0x00#8, 0x80#8, 0xFE#8]
end

