-- ==== Sys2Proof/Laws/State.lean ====
section
/-! SUPPORT. One lemma per field and update of State: what an update leaves as it was, and what it writes. -/
namespace Sys2Proof.Machine.State

/-! ### setOut -/

@[simp] theorem setOut_pm (s : State) (b : Nat) (v : Bool) : (s.setOut b v).pm = s.pm := rfl
@[simp] theorem setOut_fs_inLen (s : State) (b : Nat) (v : Bool) : (s.setOut b v).fs.inLen = s.fs.inLen := rfl
@[simp] theorem setOut_fs_outLen (s : State) (b : Nat) (v : Bool) : (s.setOut b v).fs.outLen = s.fs.outLen := rfl
@[simp] theorem setOut_fs_inputs (s : State) (b : Nat) (v : Bool) : (s.setOut b v).fs.inputs = s.fs.inputs := rfl
@[simp] theorem setOut_fs_check (s : State) (b : Nat) (v : Bool) : (s.setOut b v).fs.check = s.fs.check := rfl
@[simp] theorem setOut_fs_chain (s : State) (b : Nat) (v : Bool) : (s.setOut b v).fs.chain = s.fs.chain := rfl
@[simp] theorem setOut_fs_recovery (s : State) (b : Nat) (v : Bool) : (s.setOut b v).fs.recovery = s.fs.recovery := rfl
@[simp] theorem setOut_fs_fieldFault (s : State) (b : Nat) (v : Bool) : (s.setOut b v).fs.fieldFault = s.fs.fieldFault := rfl
@[simp] theorem setOut_fs_sent (s : State) (b : Nat) (v : Bool) : (s.setOut b v).fs.sent = s.fs.sent := rfl
@[simp] theorem setOut_fs_latched (s : State) (b : Nat) (v : Bool) : (s.setOut b v).fs.latched = s.fs.latched := rfl
@[simp] theorem setOut_tr (s : State) (b : Nat) (v : Bool) : (s.setOut b v).tr = s.tr := rfl
@[simp] theorem setOut_iu (s : State) (b : Nat) (v : Bool) : (s.setOut b v).iu = s.iu := rfl
@[simp] theorem setOut_ss (s : State) (b : Nat) (v : Bool) : (s.setOut b v).ss = s.ss := rfl
@[simp] theorem setOut_tc (s : State) (b : Nat) (v : Bool) : (s.setOut b v).tc = s.tc := rfl
@[simp] theorem setOut_awu (s : State) (b : Nat) (v : Bool) : (s.setOut b v).awu = s.awu := rfl
@[simp] theorem setOut_mc (s : State) (b : Nat) (v : Bool) : (s.setOut b v).mc = s.mc := rfl
@[simp] theorem setOut_clp (s : State) (b : Nat) (v : Bool) : (s.setOut b v).clp = s.clp := rfl
@[simp] theorem setOut_pending (s : State) (b : Nat) (v : Bool) : (s.setOut b v).pending = s.pending := rfl
@[simp] theorem setOut_order (s : State) (b : Nat) (v : Bool) : (s.setOut b v).order = s.order := rfl
@[simp] theorem setOut_due (s : State) (b : Nat) (v : Bool) : (s.setOut b v).due = s.due := rfl
@[simp] theorem setOut_linkOut (s : State) (b : Nat) (v : Bool) : (s.setOut b v).linkOut = s.linkOut := rfl
@[simp] theorem setOut_freeCount (s : State) (b : Nat) (v : Bool) : (s.setOut b v).freeCount = s.freeCount := rfl

/-! ### putTrain -/

@[simp] theorem putTrain_pm (s : State) (k : Nat) (t : Train) : (s.putTrain k t).pm = s.pm := rfl
@[simp] theorem putTrain_fs (s : State) (k : Nat) (t : Train) : (s.putTrain k t).fs = s.fs := rfl
@[simp] theorem putTrain_tr_handles (s : State) (k : Nat) (t : Train) : (s.putTrain k t).tr.handles = s.tr.handles := rfl
@[simp] theorem putTrain_tr_keepAlive (s : State) (k : Nat) (t : Train) : (s.putTrain k t).tr.keepAlive = s.tr.keepAlive := rfl
@[simp] theorem putTrain_tr_cursor (s : State) (k : Nat) (t : Train) : (s.putTrain k t).tr.cursor = s.tr.cursor := rfl
@[simp] theorem putTrain_tr_vacated (s : State) (k : Nat) (t : Train) : (s.putTrain k t).tr.vacated = s.tr.vacated := rfl
@[simp] theorem putTrain_tr_repeatField (s : State) (k : Nat) (t : Train) : (s.putTrain k t).tr.repeatField = s.tr.repeatField := rfl
@[simp] theorem putTrain_tr_stray (s : State) (k : Nat) (t : Train) : (s.putTrain k t).tr.stray = s.tr.stray := rfl
@[simp] theorem putTrain_iu (s : State) (k : Nat) (t : Train) : (s.putTrain k t).iu = s.iu := rfl
@[simp] theorem putTrain_ss (s : State) (k : Nat) (t : Train) : (s.putTrain k t).ss = s.ss := rfl
@[simp] theorem putTrain_tc (s : State) (k : Nat) (t : Train) : (s.putTrain k t).tc = s.tc := rfl
@[simp] theorem putTrain_awu (s : State) (k : Nat) (t : Train) : (s.putTrain k t).awu = s.awu := rfl
@[simp] theorem putTrain_mc (s : State) (k : Nat) (t : Train) : (s.putTrain k t).mc = s.mc := rfl
@[simp] theorem putTrain_clp (s : State) (k : Nat) (t : Train) : (s.putTrain k t).clp = s.clp := rfl
@[simp] theorem putTrain_pending (s : State) (k : Nat) (t : Train) : (s.putTrain k t).pending = s.pending := rfl
@[simp] theorem putTrain_order (s : State) (k : Nat) (t : Train) : (s.putTrain k t).order = s.order := rfl
@[simp] theorem putTrain_due (s : State) (k : Nat) (t : Train) : (s.putTrain k t).due = s.due := rfl
@[simp] theorem putTrain_linkOut (s : State) (k : Nat) (t : Train) : (s.putTrain k t).linkOut = s.linkOut := rfl
@[simp] theorem putTrain_freeCount (s : State) (k : Nat) (t : Train) : (s.putTrain k t).freeCount = s.freeCount := rfl

/-! ### putRoute -/

@[simp] theorem putRoute_pm (s : State) (k : Nat) (r : ActiveRoute) : (s.putRoute k r).pm = s.pm := rfl
@[simp] theorem putRoute_fs (s : State) (k : Nat) (r : ActiveRoute) : (s.putRoute k r).fs = s.fs := rfl
@[simp] theorem putRoute_tr (s : State) (k : Nat) (r : ActiveRoute) : (s.putRoute k r).tr = s.tr := rfl
@[simp] theorem putRoute_iu_marks (s : State) (k : Nat) (r : ActiveRoute) : (s.putRoute k r).iu.marks = s.iu.marks := rfl
@[simp] theorem putRoute_iu_points (s : State) (k : Nat) (r : ActiveRoute) : (s.putRoute k r).iu.points = s.iu.points := rfl
@[simp] theorem putRoute_iu_signals (s : State) (k : Nat) (r : ActiveRoute) : (s.putRoute k r).iu.signals = s.iu.signals := rfl
@[simp] theorem putRoute_iu_stack (s : State) (k : Nat) (r : ActiveRoute) : (s.putRoute k r).iu.stack = s.iu.stack := rfl
@[simp] theorem putRoute_ss (s : State) (k : Nat) (r : ActiveRoute) : (s.putRoute k r).ss = s.ss := rfl
@[simp] theorem putRoute_tc (s : State) (k : Nat) (r : ActiveRoute) : (s.putRoute k r).tc = s.tc := rfl
@[simp] theorem putRoute_awu (s : State) (k : Nat) (r : ActiveRoute) : (s.putRoute k r).awu = s.awu := rfl
@[simp] theorem putRoute_mc (s : State) (k : Nat) (r : ActiveRoute) : (s.putRoute k r).mc = s.mc := rfl
@[simp] theorem putRoute_clp (s : State) (k : Nat) (r : ActiveRoute) : (s.putRoute k r).clp = s.clp := rfl
@[simp] theorem putRoute_pending (s : State) (k : Nat) (r : ActiveRoute) : (s.putRoute k r).pending = s.pending := rfl
@[simp] theorem putRoute_order (s : State) (k : Nat) (r : ActiveRoute) : (s.putRoute k r).order = s.order := rfl
@[simp] theorem putRoute_due (s : State) (k : Nat) (r : ActiveRoute) : (s.putRoute k r).due = s.due := rfl
@[simp] theorem putRoute_linkOut (s : State) (k : Nat) (r : ActiveRoute) : (s.putRoute k r).linkOut = s.linkOut := rfl
@[simp] theorem putRoute_freeCount (s : State) (k : Nat) (r : ActiveRoute) : (s.putRoute k r).freeCount = s.freeCount := rfl

/-! ### putPoint -/

@[simp] theorem putPoint_pm (s : State) (p : Nat) (x : Point) : (s.putPoint p x).pm = s.pm := rfl
@[simp] theorem putPoint_fs (s : State) (p : Nat) (x : Point) : (s.putPoint p x).fs = s.fs := rfl
@[simp] theorem putPoint_tr (s : State) (p : Nat) (x : Point) : (s.putPoint p x).tr = s.tr := rfl
@[simp] theorem putPoint_iu_routes (s : State) (p : Nat) (x : Point) : (s.putPoint p x).iu.routes = s.iu.routes := rfl
@[simp] theorem putPoint_iu_marks (s : State) (p : Nat) (x : Point) : (s.putPoint p x).iu.marks = s.iu.marks := rfl
@[simp] theorem putPoint_iu_signals (s : State) (p : Nat) (x : Point) : (s.putPoint p x).iu.signals = s.iu.signals := rfl
@[simp] theorem putPoint_iu_stack (s : State) (p : Nat) (x : Point) : (s.putPoint p x).iu.stack = s.iu.stack := rfl
@[simp] theorem putPoint_ss (s : State) (p : Nat) (x : Point) : (s.putPoint p x).ss = s.ss := rfl
@[simp] theorem putPoint_tc (s : State) (p : Nat) (x : Point) : (s.putPoint p x).tc = s.tc := rfl
@[simp] theorem putPoint_awu (s : State) (p : Nat) (x : Point) : (s.putPoint p x).awu = s.awu := rfl
@[simp] theorem putPoint_mc (s : State) (p : Nat) (x : Point) : (s.putPoint p x).mc = s.mc := rfl
@[simp] theorem putPoint_clp (s : State) (p : Nat) (x : Point) : (s.putPoint p x).clp = s.clp := rfl
@[simp] theorem putPoint_pending (s : State) (p : Nat) (x : Point) : (s.putPoint p x).pending = s.pending := rfl
@[simp] theorem putPoint_order (s : State) (p : Nat) (x : Point) : (s.putPoint p x).order = s.order := rfl
@[simp] theorem putPoint_due (s : State) (p : Nat) (x : Point) : (s.putPoint p x).due = s.due := rfl
@[simp] theorem putPoint_linkOut (s : State) (p : Nat) (x : Point) : (s.putPoint p x).linkOut = s.linkOut := rfl
@[simp] theorem putPoint_freeCount (s : State) (p : Nat) (x : Point) : (s.putPoint p x).freeCount = s.freeCount := rfl

/-! ### putMark -/

@[simp] theorem putMark_pm (s : State) (n : Nat) (m : Mark) : (s.putMark n m).pm = s.pm := rfl
@[simp] theorem putMark_fs (s : State) (n : Nat) (m : Mark) : (s.putMark n m).fs = s.fs := rfl
@[simp] theorem putMark_tr (s : State) (n : Nat) (m : Mark) : (s.putMark n m).tr = s.tr := rfl
@[simp] theorem putMark_iu_routes (s : State) (n : Nat) (m : Mark) : (s.putMark n m).iu.routes = s.iu.routes := rfl
@[simp] theorem putMark_iu_points (s : State) (n : Nat) (m : Mark) : (s.putMark n m).iu.points = s.iu.points := rfl
@[simp] theorem putMark_iu_signals (s : State) (n : Nat) (m : Mark) : (s.putMark n m).iu.signals = s.iu.signals := rfl
@[simp] theorem putMark_iu_stack (s : State) (n : Nat) (m : Mark) : (s.putMark n m).iu.stack = s.iu.stack := rfl
@[simp] theorem putMark_ss (s : State) (n : Nat) (m : Mark) : (s.putMark n m).ss = s.ss := rfl
@[simp] theorem putMark_tc (s : State) (n : Nat) (m : Mark) : (s.putMark n m).tc = s.tc := rfl
@[simp] theorem putMark_awu (s : State) (n : Nat) (m : Mark) : (s.putMark n m).awu = s.awu := rfl
@[simp] theorem putMark_mc (s : State) (n : Nat) (m : Mark) : (s.putMark n m).mc = s.mc := rfl
@[simp] theorem putMark_clp (s : State) (n : Nat) (m : Mark) : (s.putMark n m).clp = s.clp := rfl
@[simp] theorem putMark_pending (s : State) (n : Nat) (m : Mark) : (s.putMark n m).pending = s.pending := rfl
@[simp] theorem putMark_order (s : State) (n : Nat) (m : Mark) : (s.putMark n m).order = s.order := rfl
@[simp] theorem putMark_due (s : State) (n : Nat) (m : Mark) : (s.putMark n m).due = s.due := rfl
@[simp] theorem putMark_linkOut (s : State) (n : Nat) (m : Mark) : (s.putMark n m).linkOut = s.linkOut := rfl
@[simp] theorem putMark_freeCount (s : State) (n : Nat) (m : Mark) : (s.putMark n m).freeCount = s.freeCount := rfl

/-! ### putStray -/

@[simp] theorem putStray_pm (s : State) (n : Nat) (v : Bool) : (s.putStray n v).pm = s.pm := rfl
@[simp] theorem putStray_fs (s : State) (n : Nat) (v : Bool) : (s.putStray n v).fs = s.fs := rfl
@[simp] theorem putStray_tr_trains (s : State) (n : Nat) (v : Bool) : (s.putStray n v).tr.trains = s.tr.trains := rfl
@[simp] theorem putStray_tr_handles (s : State) (n : Nat) (v : Bool) : (s.putStray n v).tr.handles = s.tr.handles := rfl
@[simp] theorem putStray_tr_keepAlive (s : State) (n : Nat) (v : Bool) : (s.putStray n v).tr.keepAlive = s.tr.keepAlive := rfl
@[simp] theorem putStray_tr_cursor (s : State) (n : Nat) (v : Bool) : (s.putStray n v).tr.cursor = s.tr.cursor := rfl
@[simp] theorem putStray_tr_vacated (s : State) (n : Nat) (v : Bool) : (s.putStray n v).tr.vacated = s.tr.vacated := rfl
@[simp] theorem putStray_tr_repeatField (s : State) (n : Nat) (v : Bool) : (s.putStray n v).tr.repeatField = s.tr.repeatField := rfl
@[simp] theorem putStray_iu (s : State) (n : Nat) (v : Bool) : (s.putStray n v).iu = s.iu := rfl
@[simp] theorem putStray_ss (s : State) (n : Nat) (v : Bool) : (s.putStray n v).ss = s.ss := rfl
@[simp] theorem putStray_tc (s : State) (n : Nat) (v : Bool) : (s.putStray n v).tc = s.tc := rfl
@[simp] theorem putStray_awu (s : State) (n : Nat) (v : Bool) : (s.putStray n v).awu = s.awu := rfl
@[simp] theorem putStray_mc (s : State) (n : Nat) (v : Bool) : (s.putStray n v).mc = s.mc := rfl
@[simp] theorem putStray_clp (s : State) (n : Nat) (v : Bool) : (s.putStray n v).clp = s.clp := rfl
@[simp] theorem putStray_pending (s : State) (n : Nat) (v : Bool) : (s.putStray n v).pending = s.pending := rfl
@[simp] theorem putStray_order (s : State) (n : Nat) (v : Bool) : (s.putStray n v).order = s.order := rfl
@[simp] theorem putStray_due (s : State) (n : Nat) (v : Bool) : (s.putStray n v).due = s.due := rfl
@[simp] theorem putStray_linkOut (s : State) (n : Nat) (v : Bool) : (s.putStray n v).linkOut = s.linkOut := rfl
@[simp] theorem putStray_freeCount (s : State) (n : Nat) (v : Bool) : (s.putStray n v).freeCount = s.freeCount := rfl

/-! ### putSpeed -/

@[simp] theorem putSpeed_pm (s : State) (k : Nat) (r : SpeedRec) : (s.putSpeed k r).pm = s.pm := rfl
@[simp] theorem putSpeed_fs (s : State) (k : Nat) (r : SpeedRec) : (s.putSpeed k r).fs = s.fs := rfl
@[simp] theorem putSpeed_tr (s : State) (k : Nat) (r : SpeedRec) : (s.putSpeed k r).tr = s.tr := rfl
@[simp] theorem putSpeed_iu (s : State) (k : Nat) (r : SpeedRec) : (s.putSpeed k r).iu = s.iu := rfl
@[simp] theorem putSpeed_ss_urgent (s : State) (k : Nat) (r : SpeedRec) : (s.putSpeed k r).ss.urgent = s.ss.urgent := rfl
@[simp] theorem putSpeed_ss_refresh (s : State) (k : Nat) (r : SpeedRec) : (s.putSpeed k r).ss.refresh = s.ss.refresh := rfl
@[simp] theorem putSpeed_ss_broadcast (s : State) (k : Nat) (r : SpeedRec) : (s.putSpeed k r).ss.broadcast = s.ss.broadcast := rfl
@[simp] theorem putSpeed_ss_port (s : State) (k : Nat) (r : SpeedRec) : (s.putSpeed k r).ss.port = s.ss.port := rfl
@[simp] theorem putSpeed_tc (s : State) (k : Nat) (r : SpeedRec) : (s.putSpeed k r).tc = s.tc := rfl
@[simp] theorem putSpeed_awu (s : State) (k : Nat) (r : SpeedRec) : (s.putSpeed k r).awu = s.awu := rfl
@[simp] theorem putSpeed_mc (s : State) (k : Nat) (r : SpeedRec) : (s.putSpeed k r).mc = s.mc := rfl
@[simp] theorem putSpeed_clp (s : State) (k : Nat) (r : SpeedRec) : (s.putSpeed k r).clp = s.clp := rfl
@[simp] theorem putSpeed_pending (s : State) (k : Nat) (r : SpeedRec) : (s.putSpeed k r).pending = s.pending := rfl
@[simp] theorem putSpeed_order (s : State) (k : Nat) (r : SpeedRec) : (s.putSpeed k r).order = s.order := rfl
@[simp] theorem putSpeed_due (s : State) (k : Nat) (r : SpeedRec) : (s.putSpeed k r).due = s.due := rfl
@[simp] theorem putSpeed_linkOut (s : State) (k : Nat) (r : SpeedRec) : (s.putSpeed k r).linkOut = s.linkOut := rfl
@[simp] theorem putSpeed_freeCount (s : State) (k : Nat) (r : SpeedRec) : (s.putSpeed k r).freeCount = s.freeCount := rfl

/-! ### putHandles -/

@[simp] theorem putHandles_pm (s : State) (c : Nat) (h : Handles) : (s.putHandles c h).pm = s.pm := rfl
@[simp] theorem putHandles_fs (s : State) (c : Nat) (h : Handles) : (s.putHandles c h).fs = s.fs := rfl
@[simp] theorem putHandles_tr_trains (s : State) (c : Nat) (h : Handles) : (s.putHandles c h).tr.trains = s.tr.trains := rfl
@[simp] theorem putHandles_tr_keepAlive (s : State) (c : Nat) (h : Handles) : (s.putHandles c h).tr.keepAlive = s.tr.keepAlive := rfl
@[simp] theorem putHandles_tr_cursor (s : State) (c : Nat) (h : Handles) : (s.putHandles c h).tr.cursor = s.tr.cursor := rfl
@[simp] theorem putHandles_tr_vacated (s : State) (c : Nat) (h : Handles) : (s.putHandles c h).tr.vacated = s.tr.vacated := rfl
@[simp] theorem putHandles_tr_repeatField (s : State) (c : Nat) (h : Handles) : (s.putHandles c h).tr.repeatField = s.tr.repeatField := rfl
@[simp] theorem putHandles_tr_stray (s : State) (c : Nat) (h : Handles) : (s.putHandles c h).tr.stray = s.tr.stray := rfl
@[simp] theorem putHandles_iu (s : State) (c : Nat) (h : Handles) : (s.putHandles c h).iu = s.iu := rfl
@[simp] theorem putHandles_ss (s : State) (c : Nat) (h : Handles) : (s.putHandles c h).ss = s.ss := rfl
@[simp] theorem putHandles_tc (s : State) (c : Nat) (h : Handles) : (s.putHandles c h).tc = s.tc := rfl
@[simp] theorem putHandles_awu (s : State) (c : Nat) (h : Handles) : (s.putHandles c h).awu = s.awu := rfl
@[simp] theorem putHandles_mc (s : State) (c : Nat) (h : Handles) : (s.putHandles c h).mc = s.mc := rfl
@[simp] theorem putHandles_clp (s : State) (c : Nat) (h : Handles) : (s.putHandles c h).clp = s.clp := rfl
@[simp] theorem putHandles_pending (s : State) (c : Nat) (h : Handles) : (s.putHandles c h).pending = s.pending := rfl
@[simp] theorem putHandles_order (s : State) (c : Nat) (h : Handles) : (s.putHandles c h).order = s.order := rfl
@[simp] theorem putHandles_due (s : State) (c : Nat) (h : Handles) : (s.putHandles c h).due = s.due := rfl
@[simp] theorem putHandles_linkOut (s : State) (c : Nat) (h : Handles) : (s.putHandles c h).linkOut = s.linkOut := rfl
@[simp] theorem putHandles_freeCount (s : State) (c : Nat) (h : Handles) : (s.putHandles c h).freeCount = s.freeCount := rfl

/-! ### putKeepAlive -/

@[simp] theorem putKeepAlive_pm (s : State) (c : Nat) (k : KeepAlive) : (s.putKeepAlive c k).pm = s.pm := rfl
@[simp] theorem putKeepAlive_fs (s : State) (c : Nat) (k : KeepAlive) : (s.putKeepAlive c k).fs = s.fs := rfl
@[simp] theorem putKeepAlive_tr_trains (s : State) (c : Nat) (k : KeepAlive) : (s.putKeepAlive c k).tr.trains = s.tr.trains := rfl
@[simp] theorem putKeepAlive_tr_handles (s : State) (c : Nat) (k : KeepAlive) : (s.putKeepAlive c k).tr.handles = s.tr.handles := rfl
@[simp] theorem putKeepAlive_tr_cursor (s : State) (c : Nat) (k : KeepAlive) : (s.putKeepAlive c k).tr.cursor = s.tr.cursor := rfl
@[simp] theorem putKeepAlive_tr_vacated (s : State) (c : Nat) (k : KeepAlive) : (s.putKeepAlive c k).tr.vacated = s.tr.vacated := rfl
@[simp] theorem putKeepAlive_tr_repeatField (s : State) (c : Nat) (k : KeepAlive) : (s.putKeepAlive c k).tr.repeatField = s.tr.repeatField := rfl
@[simp] theorem putKeepAlive_tr_stray (s : State) (c : Nat) (k : KeepAlive) : (s.putKeepAlive c k).tr.stray = s.tr.stray := rfl
@[simp] theorem putKeepAlive_iu (s : State) (c : Nat) (k : KeepAlive) : (s.putKeepAlive c k).iu = s.iu := rfl
@[simp] theorem putKeepAlive_ss (s : State) (c : Nat) (k : KeepAlive) : (s.putKeepAlive c k).ss = s.ss := rfl
@[simp] theorem putKeepAlive_tc (s : State) (c : Nat) (k : KeepAlive) : (s.putKeepAlive c k).tc = s.tc := rfl
@[simp] theorem putKeepAlive_awu (s : State) (c : Nat) (k : KeepAlive) : (s.putKeepAlive c k).awu = s.awu := rfl
@[simp] theorem putKeepAlive_mc (s : State) (c : Nat) (k : KeepAlive) : (s.putKeepAlive c k).mc = s.mc := rfl
@[simp] theorem putKeepAlive_clp (s : State) (c : Nat) (k : KeepAlive) : (s.putKeepAlive c k).clp = s.clp := rfl
@[simp] theorem putKeepAlive_pending (s : State) (c : Nat) (k : KeepAlive) : (s.putKeepAlive c k).pending = s.pending := rfl
@[simp] theorem putKeepAlive_order (s : State) (c : Nat) (k : KeepAlive) : (s.putKeepAlive c k).order = s.order := rfl
@[simp] theorem putKeepAlive_due (s : State) (c : Nat) (k : KeepAlive) : (s.putKeepAlive c k).due = s.due := rfl
@[simp] theorem putKeepAlive_linkOut (s : State) (c : Nat) (k : KeepAlive) : (s.putKeepAlive c k).linkOut = s.linkOut := rfl
@[simp] theorem putKeepAlive_freeCount (s : State) (c : Nat) (k : KeepAlive) : (s.putKeepAlive c k).freeCount = s.freeCount := rfl

/-! ### setTc -/

@[simp] theorem setTc_pm (s : State) (x : TC) : (s.setTc x).pm = s.pm := rfl
@[simp] theorem setTc_fs (s : State) (x : TC) : (s.setTc x).fs = s.fs := rfl
@[simp] theorem setTc_tr (s : State) (x : TC) : (s.setTc x).tr = s.tr := rfl
@[simp] theorem setTc_iu (s : State) (x : TC) : (s.setTc x).iu = s.iu := rfl
@[simp] theorem setTc_ss (s : State) (x : TC) : (s.setTc x).ss = s.ss := rfl
@[simp] theorem setTc_awu (s : State) (x : TC) : (s.setTc x).awu = s.awu := rfl
@[simp] theorem setTc_mc (s : State) (x : TC) : (s.setTc x).mc = s.mc := rfl
@[simp] theorem setTc_clp (s : State) (x : TC) : (s.setTc x).clp = s.clp := rfl
@[simp] theorem setTc_pending (s : State) (x : TC) : (s.setTc x).pending = s.pending := rfl
@[simp] theorem setTc_order (s : State) (x : TC) : (s.setTc x).order = s.order := rfl
@[simp] theorem setTc_due (s : State) (x : TC) : (s.setTc x).due = s.due := rfl
@[simp] theorem setTc_linkOut (s : State) (x : TC) : (s.setTc x).linkOut = s.linkOut := rfl
@[simp] theorem setTc_freeCount (s : State) (x : TC) : (s.setTc x).freeCount = s.freeCount := rfl

/-! ### wantScan -/

@[simp] theorem wantScan_pm (s : State) : (s.wantScan).pm = s.pm := rfl
@[simp] theorem wantScan_fs (s : State) : (s.wantScan).fs = s.fs := rfl
@[simp] theorem wantScan_tr (s : State) : (s.wantScan).tr = s.tr := rfl
@[simp] theorem wantScan_iu (s : State) : (s.wantScan).iu = s.iu := rfl
@[simp] theorem wantScan_ss (s : State) : (s.wantScan).ss = s.ss := rfl
@[simp] theorem wantScan_tc (s : State) : (s.wantScan).tc = s.tc := rfl
@[simp] theorem wantScan_awu (s : State) : (s.wantScan).awu = s.awu := rfl
@[simp] theorem wantScan_mc (s : State) : (s.wantScan).mc = s.mc := rfl
@[simp] theorem wantScan_clp (s : State) : (s.wantScan).clp = s.clp := rfl
@[simp] theorem wantScan_pending (s : State) : (s.wantScan).pending = s.pending := rfl
@[simp] theorem wantScan_order (s : State) : (s.wantScan).order = s.order := rfl
@[simp] theorem wantScan_due_attempt (s : State) : (s.wantScan).due.attempt = s.due.attempt := rfl
@[simp] theorem wantScan_due_arbitrate (s : State) : (s.wantScan).due.arbitrate = s.due.arbitrate := rfl
@[simp] theorem wantScan_due_turnEnds (s : State) : (s.wantScan).due.turnEnds = s.due.turnEnds := rfl
@[simp] theorem wantScan_due_newestGranted (s : State) : (s.wantScan).due.newestGranted = s.due.newestGranted := rfl
@[simp] theorem wantScan_linkOut (s : State) : (s.wantScan).linkOut = s.linkOut := rfl
@[simp] theorem wantScan_freeCount (s : State) : (s.wantScan).freeCount = s.freeCount := rfl

/-! ### wantAttempt -/

@[simp] theorem wantAttempt_pm (s : State) : (s.wantAttempt).pm = s.pm := rfl
@[simp] theorem wantAttempt_fs (s : State) : (s.wantAttempt).fs = s.fs := rfl
@[simp] theorem wantAttempt_tr (s : State) : (s.wantAttempt).tr = s.tr := rfl
@[simp] theorem wantAttempt_iu (s : State) : (s.wantAttempt).iu = s.iu := rfl
@[simp] theorem wantAttempt_ss (s : State) : (s.wantAttempt).ss = s.ss := rfl
@[simp] theorem wantAttempt_tc (s : State) : (s.wantAttempt).tc = s.tc := rfl
@[simp] theorem wantAttempt_awu (s : State) : (s.wantAttempt).awu = s.awu := rfl
@[simp] theorem wantAttempt_mc (s : State) : (s.wantAttempt).mc = s.mc := rfl
@[simp] theorem wantAttempt_clp (s : State) : (s.wantAttempt).clp = s.clp := rfl
@[simp] theorem wantAttempt_pending (s : State) : (s.wantAttempt).pending = s.pending := rfl
@[simp] theorem wantAttempt_order (s : State) : (s.wantAttempt).order = s.order := rfl
@[simp] theorem wantAttempt_due_scan (s : State) : (s.wantAttempt).due.scan = s.due.scan := rfl
@[simp] theorem wantAttempt_due_arbitrate (s : State) : (s.wantAttempt).due.arbitrate = s.due.arbitrate := rfl
@[simp] theorem wantAttempt_due_turnEnds (s : State) : (s.wantAttempt).due.turnEnds = s.due.turnEnds := rfl
@[simp] theorem wantAttempt_due_newestGranted (s : State) : (s.wantAttempt).due.newestGranted = s.due.newestGranted := rfl
@[simp] theorem wantAttempt_linkOut (s : State) : (s.wantAttempt).linkOut = s.linkOut := rfl
@[simp] theorem wantAttempt_freeCount (s : State) : (s.wantAttempt).freeCount = s.freeCount := rfl

/-! ### wantArbitrate -/

@[simp] theorem wantArbitrate_pm (s : State) : (s.wantArbitrate).pm = s.pm := rfl
@[simp] theorem wantArbitrate_fs (s : State) : (s.wantArbitrate).fs = s.fs := rfl
@[simp] theorem wantArbitrate_tr (s : State) : (s.wantArbitrate).tr = s.tr := rfl
@[simp] theorem wantArbitrate_iu (s : State) : (s.wantArbitrate).iu = s.iu := rfl
@[simp] theorem wantArbitrate_ss (s : State) : (s.wantArbitrate).ss = s.ss := rfl
@[simp] theorem wantArbitrate_tc (s : State) : (s.wantArbitrate).tc = s.tc := rfl
@[simp] theorem wantArbitrate_awu (s : State) : (s.wantArbitrate).awu = s.awu := rfl
@[simp] theorem wantArbitrate_mc (s : State) : (s.wantArbitrate).mc = s.mc := rfl
@[simp] theorem wantArbitrate_clp (s : State) : (s.wantArbitrate).clp = s.clp := rfl
@[simp] theorem wantArbitrate_pending (s : State) : (s.wantArbitrate).pending = s.pending := rfl
@[simp] theorem wantArbitrate_order (s : State) : (s.wantArbitrate).order = s.order := rfl
@[simp] theorem wantArbitrate_due_scan (s : State) : (s.wantArbitrate).due.scan = s.due.scan := rfl
@[simp] theorem wantArbitrate_due_attempt (s : State) : (s.wantArbitrate).due.attempt = s.due.attempt := rfl
@[simp] theorem wantArbitrate_due_turnEnds (s : State) : (s.wantArbitrate).due.turnEnds = s.due.turnEnds := rfl
@[simp] theorem wantArbitrate_due_newestGranted (s : State) : (s.wantArbitrate).due.newestGranted = s.due.newestGranted := rfl
@[simp] theorem wantArbitrate_linkOut (s : State) : (s.wantArbitrate).linkOut = s.linkOut := rfl
@[simp] theorem wantArbitrate_freeCount (s : State) : (s.wantArbitrate).freeCount = s.freeCount := rfl

/-! ### handRelease -/

@[simp] theorem handRelease_pm (s : State) : (s.handRelease).pm = s.pm := rfl
@[simp] theorem handRelease_fs (s : State) : (s.handRelease).fs = s.fs := rfl
@[simp] theorem handRelease_tr (s : State) : (s.handRelease).tr = s.tr := rfl
@[simp] theorem handRelease_iu (s : State) : (s.handRelease).iu = s.iu := rfl
@[simp] theorem handRelease_ss (s : State) : (s.handRelease).ss = s.ss := rfl
@[simp] theorem handRelease_tc (s : State) : (s.handRelease).tc = s.tc := rfl
@[simp] theorem handRelease_awu (s : State) : (s.handRelease).awu = s.awu := rfl
@[simp] theorem handRelease_mc (s : State) : (s.handRelease).mc = s.mc := rfl
@[simp] theorem handRelease_clp (s : State) : (s.handRelease).clp = s.clp := rfl
@[simp] theorem handRelease_pending (s : State) : (s.handRelease).pending = s.pending := rfl
@[simp] theorem handRelease_order (s : State) : (s.handRelease).order = s.order := rfl
@[simp] theorem handRelease_due_turnEnds (s : State) : (s.handRelease).due.turnEnds = s.due.turnEnds := rfl
@[simp] theorem handRelease_due_newestGranted (s : State) : (s.handRelease).due.newestGranted = s.due.newestGranted := rfl
@[simp] theorem handRelease_linkOut (s : State) : (s.handRelease).linkOut = s.linkOut := rfl
@[simp] theorem handRelease_freeCount (s : State) : (s.handRelease).freeCount = s.freeCount := rfl

/-! ### putPlan -/

@[simp] theorem putPlan_pm_store (s : State) (p : Plan) : (s.putPlan p).pm.store = s.pm.store := rfl
@[simp] theorem putPlan_pm_saving (s : State) (p : Plan) : (s.putPlan p).pm.saving = s.pm.saving := rfl
@[simp] theorem putPlan_fs (s : State) (p : Plan) : (s.putPlan p).fs = s.fs := rfl
@[simp] theorem putPlan_tr (s : State) (p : Plan) : (s.putPlan p).tr = s.tr := rfl
@[simp] theorem putPlan_iu (s : State) (p : Plan) : (s.putPlan p).iu = s.iu := rfl
@[simp] theorem putPlan_ss (s : State) (p : Plan) : (s.putPlan p).ss = s.ss := rfl
@[simp] theorem putPlan_tc (s : State) (p : Plan) : (s.putPlan p).tc = s.tc := rfl
@[simp] theorem putPlan_awu (s : State) (p : Plan) : (s.putPlan p).awu = s.awu := rfl
@[simp] theorem putPlan_mc (s : State) (p : Plan) : (s.putPlan p).mc = s.mc := rfl
@[simp] theorem putPlan_clp (s : State) (p : Plan) : (s.putPlan p).clp = s.clp := rfl
@[simp] theorem putPlan_pending (s : State) (p : Plan) : (s.putPlan p).pending = s.pending := rfl
@[simp] theorem putPlan_order (s : State) (p : Plan) : (s.putPlan p).order = s.order := rfl
@[simp] theorem putPlan_due (s : State) (p : Plan) : (s.putPlan p).due = s.due := rfl
@[simp] theorem putPlan_linkOut (s : State) (p : Plan) : (s.putPlan p).linkOut = s.linkOut := rfl
@[simp] theorem putPlan_freeCount (s : State) (p : Plan) : (s.putPlan p).freeCount = s.freeCount := rfl

/-! ### hold -/

@[simp] theorem hold_pm (s : State) (c : Nat) (a : Answer) : (s.hold c a).pm = s.pm := rfl
@[simp] theorem hold_fs (s : State) (c : Nat) (a : Answer) : (s.hold c a).fs = s.fs := rfl
@[simp] theorem hold_tr (s : State) (c : Nat) (a : Answer) : (s.hold c a).tr = s.tr := rfl
@[simp] theorem hold_iu (s : State) (c : Nat) (a : Answer) : (s.hold c a).iu = s.iu := rfl
@[simp] theorem hold_ss (s : State) (c : Nat) (a : Answer) : (s.hold c a).ss = s.ss := rfl
@[simp] theorem hold_tc (s : State) (c : Nat) (a : Answer) : (s.hold c a).tc = s.tc := rfl
@[simp] theorem hold_awu (s : State) (c : Nat) (a : Answer) : (s.hold c a).awu = s.awu := rfl
@[simp] theorem hold_mc (s : State) (c : Nat) (a : Answer) : (s.hold c a).mc = s.mc := rfl
@[simp] theorem hold_clp_dropped (s : State) (c : Nat) (a : Answer) : (s.hold c a).clp.dropped = s.clp.dropped := rfl
@[simp] theorem hold_clp_mask (s : State) (c : Nat) (a : Answer) : (s.hold c a).clp.mask = s.clp.mask := rfl
@[simp] theorem hold_pending (s : State) (c : Nat) (a : Answer) : (s.hold c a).pending = s.pending := rfl
@[simp] theorem hold_order (s : State) (c : Nat) (a : Answer) : (s.hold c a).order = s.order := rfl
@[simp] theorem hold_due (s : State) (c : Nat) (a : Answer) : (s.hold c a).due = s.due := rfl
@[simp] theorem hold_linkOut (s : State) (c : Nat) (a : Answer) : (s.hold c a).linkOut = s.linkOut := rfl
@[simp] theorem hold_freeCount (s : State) (c : Nat) (a : Answer) : (s.hold c a).freeCount = s.freeCount := rfl

/-! ### openFrame -/

@[simp] theorem openFrame_pm (s : State) (f : Frame) : (s.openFrame f).pm = s.pm := rfl
@[simp] theorem openFrame_fs (s : State) (f : Frame) : (s.openFrame f).fs = s.fs := rfl
@[simp] theorem openFrame_tr (s : State) (f : Frame) : (s.openFrame f).tr = s.tr := rfl
@[simp] theorem openFrame_iu (s : State) (f : Frame) : (s.openFrame f).iu = s.iu := rfl
@[simp] theorem openFrame_ss (s : State) (f : Frame) : (s.openFrame f).ss = s.ss := rfl
@[simp] theorem openFrame_tc (s : State) (f : Frame) : (s.openFrame f).tc = s.tc := rfl
@[simp] theorem openFrame_awu (s : State) (f : Frame) : (s.openFrame f).awu = s.awu := rfl
@[simp] theorem openFrame_mc (s : State) (f : Frame) : (s.openFrame f).mc = s.mc := rfl
@[simp] theorem openFrame_clp (s : State) (f : Frame) : (s.openFrame f).clp = s.clp := rfl
@[simp] theorem openFrame_pending (s : State) (f : Frame) : (s.openFrame f).pending = s.pending := rfl
@[simp] theorem openFrame_due (s : State) (f : Frame) : (s.openFrame f).due = s.due := rfl
@[simp] theorem openFrame_freeCount (s : State) (f : Frame) : (s.openFrame f).freeCount = s.freeCount := rfl
/-! ### What each update writes -/

@[simp] theorem setTc_tc (s : State) (x : TC) : (s.setTc x).tc = x := rfl
@[simp] theorem hold_holder (s : State) (c : Nat) (a : Answer) : (s.hold c a).clp.holder = some ⟨c, a⟩ := rfl
@[simp] theorem hold_notices (s : State) (c : Nat) (a : Answer) : (s.hold c a).clp.notices = s.clp.notices := rfl
@[simp] theorem hold_selection (s : State) (c : Nat) (a : Answer) : (s.hold c a).clp.selection = s.clp.selection := rfl
@[simp] theorem hold_noticeLost (s : State) (c : Nat) (a : Answer) : (s.hold c a).clp.noticeLost = s.clp.noticeLost := rfl
@[simp] theorem putPlan_plan (s : State) (p : Plan) : (s.putPlan p).plan = p := rfl
@[simp] theorem putPlan_valid (s : State) (p : Plan) : (s.putPlan p).pm.valid = false := rfl
@[simp] theorem openFrame_order (s : State) (f : Frame) : (s.openFrame f).order = f.order := rfl
@[simp] theorem openFrame_linkOut (s : State) (f : Frame) : (s.openFrame f).linkOut = s.statusThenZeros f.clocked := rfl
@[simp] theorem wantScan_scan (s : State) : s.wantScan.due.scan = true := rfl
@[simp] theorem wantAttempt_attempt (s : State) : s.wantAttempt.due.attempt = true := rfl
@[simp] theorem wantArbitrate_arbitrate (s : State) : s.wantArbitrate.due.arbitrate = true := rfl

/-! ### Notices -/

@[simp] theorem noticeWith_pm (s : State) (c : Cause) (n d : Nat) : (s.noticeWith c n d).pm = s.pm := rfl
@[simp] theorem noticeWith_fs (s : State) (c : Cause) (n d : Nat) : (s.noticeWith c n d).fs = s.fs := rfl
@[simp] theorem noticeWith_tr (s : State) (c : Cause) (n d : Nat) : (s.noticeWith c n d).tr = s.tr := rfl
@[simp] theorem noticeWith_iu (s : State) (c : Cause) (n d : Nat) : (s.noticeWith c n d).iu = s.iu := rfl
@[simp] theorem noticeWith_ss (s : State) (c : Cause) (n d : Nat) : (s.noticeWith c n d).ss = s.ss := rfl
@[simp] theorem noticeWith_tc (s : State) (c : Cause) (n d : Nat) : (s.noticeWith c n d).tc = s.tc := rfl
@[simp] theorem noticeWith_awu (s : State) (c : Cause) (n d : Nat) : (s.noticeWith c n d).awu = s.awu := rfl
@[simp] theorem noticeWith_mc (s : State) (c : Cause) (n d : Nat) : (s.noticeWith c n d).mc = s.mc := rfl
@[simp] theorem noticeWith_pending (s : State) (c : Cause) (n d : Nat) : (s.noticeWith c n d).pending = s.pending := rfl
@[simp] theorem noticeWith_order (s : State) (c : Cause) (n d : Nat) : (s.noticeWith c n d).order = s.order := rfl
@[simp] theorem noticeWith_due (s : State) (c : Cause) (n d : Nat) : (s.noticeWith c n d).due = s.due := rfl
@[simp] theorem noticeWith_linkOut (s : State) (c : Cause) (n d : Nat) : (s.noticeWith c n d).linkOut = s.linkOut := rfl
@[simp] theorem noticeWith_freeCount (s : State) (c : Cause) (n d : Nat) : (s.noticeWith c n d).freeCount = s.freeCount := rfl
theorem noticeWith_clp (s : State) (c : Cause) (n d : Nat) : (s.noticeWith c n d).clp = s.clp.record c n d := rfl
@[simp] theorem notice_pm (s : State) (c : Cause) (n : Nat) : (s.notice c n).pm = s.pm := rfl
@[simp] theorem notice_fs (s : State) (c : Cause) (n : Nat) : (s.notice c n).fs = s.fs := rfl
@[simp] theorem notice_tr (s : State) (c : Cause) (n : Nat) : (s.notice c n).tr = s.tr := rfl
@[simp] theorem notice_iu (s : State) (c : Cause) (n : Nat) : (s.notice c n).iu = s.iu := rfl
@[simp] theorem notice_ss (s : State) (c : Cause) (n : Nat) : (s.notice c n).ss = s.ss := rfl
@[simp] theorem notice_tc (s : State) (c : Cause) (n : Nat) : (s.notice c n).tc = s.tc := rfl
@[simp] theorem notice_awu (s : State) (c : Cause) (n : Nat) : (s.notice c n).awu = s.awu := rfl
@[simp] theorem notice_mc (s : State) (c : Cause) (n : Nat) : (s.notice c n).mc = s.mc := rfl
@[simp] theorem notice_pending (s : State) (c : Cause) (n : Nat) : (s.notice c n).pending = s.pending := rfl
@[simp] theorem notice_order (s : State) (c : Cause) (n : Nat) : (s.notice c n).order = s.order := rfl
@[simp] theorem notice_due (s : State) (c : Cause) (n : Nat) : (s.notice c n).due = s.due := rfl
@[simp] theorem notice_linkOut (s : State) (c : Cause) (n : Nat) : (s.notice c n).linkOut = s.linkOut := rfl
@[simp] theorem notice_freeCount (s : State) (c : Cause) (n : Nat) : (s.notice c n).freeCount = s.freeCount := rfl
theorem notice_clp (s : State) (c : Cause) (n : Nat) : (s.notice c n).clp = s.clp.record c n 0 := rfl

/-- R167: recording a notice leaves the reply holder, DROPPED_REQUEST and the mask as they are. -/
theorem record_frame (p : CLP) (c : Cause) (n d : Nat) :
    (p.record c n d).holder = p.holder ∧ (p.record c n d).dropped = p.dropped ∧ (p.record c n d).mask = p.mask := by
  unfold CLP.record
  split
  · simp
  · split
    · simp
    · split <;> simp

@[simp] theorem noticeWith_holder (s : State) (c : Cause) (n d : Nat) :
    (s.noticeWith c n d).clp.holder = s.clp.holder := (record_frame s.clp c n d).1
@[simp] theorem noticeWith_dropped (s : State) (c : Cause) (n d : Nat) :
    (s.noticeWith c n d).clp.dropped = s.clp.dropped := (record_frame s.clp c n d).2.1
@[simp] theorem noticeWith_mask (s : State) (c : Cause) (n d : Nat) :
    (s.noticeWith c n d).clp.mask = s.clp.mask := (record_frame s.clp c n d).2.2
@[simp] theorem notice_holder (s : State) (c : Cause) (n : Nat) : (s.notice c n).clp.holder = s.clp.holder :=
  (record_frame s.clp c n 0).1
@[simp] theorem notice_dropped (s : State) (c : Cause) (n : Nat) : (s.notice c n).clp.dropped = s.clp.dropped :=
  (record_frame s.clp c n 0).2.1
@[simp] theorem notice_mask (s : State) (c : Cause) (n : Nat) : (s.notice c n).clp.mask = s.clp.mask :=
  (record_frame s.clp c n 0).2.2

end Sys2Proof.Machine.State
end

