-- ==== Sys2Proof/Laws/Tables.lean ====
section
/-! SUPPORT. Sparse tables: a read after a write, the other keys, and the canonical form that every operation keeps. -/
namespace Sys2Proof.Machine

variable {α : Type}

/-! ### Reads after writes -/

theorem rowsGet_put_same (l : List (Nat × α)) (k : Nat) (x : α) : rowsGet (rowsPut l k x) k = some x := by
  induction l with
  | nil => simp [rowsPut, rowsGet]
  | cons r t ih =>
    obtain ⟨i, y⟩ := r
    simp only [rowsPut]
    split
    · simp [rowsGet]
    · split
      · simp [rowsGet]
      · rename_i h; simp [rowsGet, h, ih]

theorem rowsGet_put_ne (l : List (Nat × α)) (k j : Nat) (x : α) (h : j ≠ k) :
    rowsGet (rowsPut l k x) j = rowsGet l j := by
  induction l with
  | nil => simp [rowsPut, rowsGet, Ne.symm h]
  | cons r t ih =>
    obtain ⟨i, y⟩ := r
    simp only [rowsPut]
    split
    · simp [rowsGet, Ne.symm h]
    · split
      · rename_i hik; subst hik; simp [rowsGet, Ne.symm h]
      · simp only [rowsGet, ih]

theorem rowsGet_erase_ne (l : List (Nat × α)) (k j : Nat) (h : j ≠ k) :
    rowsGet (rowsErase l k) j = rowsGet l j := by
  induction l with
  | nil => simp [rowsErase]
  | cons r t ih =>
    obtain ⟨i, y⟩ := r
    simp only [rowsErase]
    split
    · rename_i hik; subst hik; simp [rowsGet, Ne.symm h]
    · simp only [rowsGet, ih]

theorem rowsGet_none_of_lt (l : List (Nat × α)) (k : Nat) (h : ∀ r ∈ l, k < r.1) : rowsGet l k = none := by
  induction l with
  | nil => rfl
  | cons r t ih =>
    obtain ⟨i, y⟩ := r
    have hi : k < i := h (i, y) (by simp)
    simp [rowsGet, show i ≠ k by omega, ih (fun r hr => h r (by simp [hr]))]

theorem rowsGet_erase_same (l : List (Nat × α)) (k : Nat) (h : (l.map Prod.fst).Pairwise (· < ·)) :
    rowsGet (rowsErase l k) k = none := by
  induction l with
  | nil => rfl
  | cons r t ih =>
    obtain ⟨i, y⟩ := r
    simp only [List.map_cons, List.pairwise_cons] at h
    simp only [rowsErase]
    split
    · rename_i hik; subst hik
      exact rowsGet_none_of_lt t i (fun r hr => h.1 r.1 (List.mem_map_of_mem hr))
    · rename_i hik; simp [rowsGet, hik, ih h.2]

theorem rowsGet_mem (l : List (Nat × α)) (k : Nat) (x : α) (h : rowsGet l k = some x) : (k, x) ∈ l := by
  induction l with
  | nil => simp [rowsGet] at h
  | cons r t ih =>
    obtain ⟨i, y⟩ := r
    simp only [rowsGet] at h
    split at h
    · rename_i hik; cases h; subst hik; simp
    · simp [ih h]

@[simp] theorem Tab.get?_put_same (t : Tab α) (k : Nat) (x : α) : (t.put k x).get? k = some x :=
  rowsGet_put_same t.rows k x

theorem Tab.get?_put_ne (t : Tab α) {k j : Nat} (x : α) (h : j ≠ k) : (t.put k x).get? j = t.get? j :=
  rowsGet_put_ne t.rows k j x h

theorem Tab.get?_erase_ne (t : Tab α) {k j : Nat} (h : j ≠ k) : (t.erase k).get? j = t.get? j :=
  rowsGet_erase_ne t.rows k j h

theorem Tab.get?_erase_same (t : Tab α) (k : Nat) (h : t.Wf) : (t.erase k).get? k = none :=
  rowsGet_erase_same t.rows k h

theorem Tab.getD_putD_ne [DecidableEq α] (d : α) (t : Tab α) {k j : Nat} (x : α) (h : j ≠ k) :
    (t.putD d k x).getD d j = t.getD d j := by
  unfold Tab.putD
  split
  · simp [Tab.getD, Tab.erase, rowsGet_erase_ne _ _ _ h]
  · simp [Tab.getD, Tab.put, rowsGet_put_ne _ _ _ _ h]

theorem Tab.getD_putD_same [DecidableEq α] (d : α) (t : Tab α) (k : Nat) (x : α) (h : t.Wf) :
    (t.putD d k x).getD d k = x := by
  unfold Tab.putD
  split
  · rename_i hx; simp [Tab.getD, Tab.erase, rowsGet_erase_same _ _ h, hx]
  · simp [Tab.getD, Tab.put, rowsGet_put_same]

/-! ### The canonical form -/

theorem rowsPut_mem (l : List (Nat × α)) (k : Nat) (x : α) (r : Nat × α) (h : r ∈ rowsPut l k x) :
    r = (k, x) ∨ r ∈ l := by
  induction l with
  | nil => simpa [rowsPut] using h
  | cons q t ih =>
    obtain ⟨i, y⟩ := q
    simp only [rowsPut] at h
    repeat' split at h
    all_goals simp only [List.mem_cons] at h ⊢
    · exact h
    · exact h.imp_right .inr
    · exact (h.imp_right ih).elim (fun e => .inr (.inl e)) (fun e => e.imp_right .inr)

theorem rowsErase_sublist (l : List (Nat × α)) (k : Nat) : (rowsErase l k).Sublist l := by
  induction l with
  | nil => simp [rowsErase]
  | cons r t ih =>
    obtain ⟨i, y⟩ := r
    simp only [rowsErase]
    split
    · exact List.sublist_cons_self _ _
    · exact ih.cons_cons _

theorem rowsPut_wf (l : List (Nat × α)) (k : Nat) (x : α) (h : (l.map Prod.fst).Pairwise (· < ·)) :
    ((rowsPut l k x).map Prod.fst).Pairwise (· < ·) := by
  induction l with
  | nil => simp [rowsPut]
  | cons r t ih =>
    obtain ⟨i, y⟩ := r
    have h' := h
    simp only [List.map_cons, List.pairwise_cons] at h
    simp only [rowsPut]
    split
    · rename_i hk
      simp only [List.map_cons, List.pairwise_cons]
      refine ⟨?_, h⟩
      intro a ha
      rcases List.mem_cons.mp ha with rfl | ha
      · exact hk
      · exact lt_trans hk (h.1 a ha)
    · split
      · rename_i hik; subst hik; simpa using h'
      · simp only [List.map_cons, List.pairwise_cons]
        refine ⟨?_, ih h.2⟩
        intro a ha
        obtain ⟨q, hq, rfl⟩ := List.mem_map.mp ha
        rcases rowsPut_mem t k x q hq with rfl | hq
        · simp only; omega
        · exact h.1 q.1 (List.mem_map_of_mem hq)

theorem Tab.put_wf (t : Tab α) (k : Nat) (x : α) (h : t.Wf) : (t.put k x).Wf := rowsPut_wf t.rows k x h

theorem Tab.erase_wf (t : Tab α) (k : Nat) (h : t.Wf) : (t.erase k).Wf :=
  List.Pairwise.sublist ((rowsErase_sublist t.rows k).map Prod.fst) h

theorem Tab.putD_wfD [DecidableEq α] (d : α) (t : Tab α) (k : Nat) (x : α) (h : t.WfD d) : (t.putD d k x).WfD d := by
  unfold Tab.putD
  split
  · exact ⟨t.erase_wf k h.1, fun r hr => h.2 r ((rowsErase_sublist t.rows k).subset hr)⟩
  · rename_i hx
    refine ⟨t.put_wf k x h.1, fun r hr => ?_⟩
    rcases rowsPut_mem t.rows k x r hr with rfl | hr
    · exact hx
    · exact h.2 r hr

theorem Tab.empty_wf : (⟨[]⟩ : Tab α).Wf := List.Pairwise.nil

/-! ### Keys -/

/-- Writing a row that is present leaves the keys as they are. -/
theorem rowsPut_keys (l : List (Nat × α)) (k : Nat) (x y : α) (h : rowsGet l k = some y) (hw : (l.map Prod.fst).Pairwise (· < ·)) :
    (rowsPut l k x).map Prod.fst = l.map Prod.fst := by
  induction l with
  | nil => simp [rowsGet] at h
  | cons r t ih =>
    obtain ⟨i, z⟩ := r
    simp only [List.map_cons, List.pairwise_cons] at hw
    simp only [rowsGet] at h
    simp only [rowsPut]
    split at h
    · rename_i hik; subst hik; simp
    · rename_i hik
      have hmem := rowsGet_mem t k y h
      have hlt : i < k := hw.1 k (List.mem_map_of_mem (f := Prod.fst) hmem)
      simp [show ¬ k < i by omega, hik, ih h hw.2]

theorem Tab.put_keys (t : Tab α) (k : Nat) (x y : α) (h : t.get? k = some y) (hw : t.Wf) : (t.put k x).keys = t.keys :=
  rowsPut_keys t.rows k x y h hw

/-- The lowest free key lies in the range asked for and is absent, and every key of the range below it is present. -/
theorem lowestFree_spec (t : Tab α) (k n m : Nat) (h : lowestFree t k n = some m) :
    k ≤ m ∧ m < k + n ∧ t.get? m = none ∧ ∀ j, k ≤ j → j < m → (t.get? j).isSome = true := by
  induction n generalizing k with
  | zero => simp [lowestFree] at h
  | succ n ih =>
    simp only [lowestFree] at h
    split at h
    · rename_i hk
      cases h
      exact ⟨le_refl _, by omega, by simpa using hk, fun j h1 h2 => by omega⟩
    · rename_i hk
      obtain ⟨h1, h2, h3, h4⟩ := ih (k + 1) h
      refine ⟨by omega, by omega, h3, fun j hj1 hj2 => ?_⟩
      by_cases hjk : j = k
      · subst hjk; simpa [Option.isSome_iff_ne_none] using hk
      · exact h4 j (by omega) hj2

end Sys2Proof.Machine
end

