-- ==== Sys2Proof/Laws/Within.lean ====
section
/-! SUPPORT. The three relations that say what an operation inside an event leaves alone and which laws it keeps, from the
narrowest to the widest: `Rail` for the Interlocking Unit and the Turntable Controller, `Inner` for whatever the end of an
event runs, `Within` for every part of an event. -/
namespace Sys2Proof.Machine

/-- What every part of an event leaves alone, and the laws it keeps. -/
structure Within (s t : State) : Prop where
  pm : t.pm = s.pm
  pending : t.pending = s.pending
  order : t.order = s.order
  linkOut : t.linkOut = s.linkOut
  setup : t.mc.mode = .setup → s.mc.mode = .setup
  signals : s.iu.signals.Wf → t.iu.signals.Wf
  handles : t.tr.handles = s.tr.handles
  holder : t.clp.holder = s.clp.holder
  dropped : t.clp.dropped = s.clp.dropped
  mask : t.clp.mask = s.clp.mask
  who : ∀ k, (t.train? k).map (fun x => (x.number, x.owner)) = (s.train? k).map (fun x => (x.number, x.owner))
  rising : s.tr.trains.Wf → t.tr.trains.Wf
  notices : NoticeLaw s.clp → NoticeLaw t.clp
  routes : RouteLaw s → RouteLaw t
  turns : TurnLaw s → TurnLaw t
  visitors : VisitorLaw s → VisitorLaw t
  modes : ModeLaw s → ModeLaw t

/-- What the hand-offs and recomputations at the end of an event leave alone. -/
structure Inner (s t : State) : Prop extends Within s t where
  mc : t.mc = s.mc
  freeCount : t.freeCount = s.freeCount
  fs : t.fs = { s.fs with image := t.fs.image }
  tr : t.tr = { s.tr with trains := t.tr.trains }
  identity : ∀ k, (t.train? k).map Train.identity = (s.train? k).map Train.identity
  line1 : t.awu.line1 = s.awu.line1
  line2 : t.awu.line2 = s.awu.line2
  line3 : t.awu.line3 = s.awu.line3

/-- What the Interlocking Unit and the Turntable Controller leave alone. -/
structure Rail (s t : State) : Prop extends Inner s t where
  awu : t.awu = s.awu

/-! ### Reflexivity, composition, folds -/

theorem Within.refl (s : State) : Within s s :=
  ⟨rfl, rfl, rfl, rfl, id, id, rfl, rfl, rfl, rfl, fun _ => rfl, id, id, id, id, id, id⟩

theorem Within.trans {s t u : State} (h : Within s t) (k : Within t u) : Within s u where
  pm := k.pm.trans h.pm
  pending := k.pending.trans h.pending
  order := k.order.trans h.order
  linkOut := k.linkOut.trans h.linkOut
  setup := fun x => h.setup (k.setup x)
  signals := fun x => k.signals (h.signals x)
  handles := k.handles.trans h.handles
  holder := k.holder.trans h.holder
  dropped := k.dropped.trans h.dropped
  mask := k.mask.trans h.mask
  who := fun x => (k.who x).trans (h.who x)
  rising := fun x => k.rising (h.rising x)
  notices := fun x => k.notices (h.notices x)
  routes := fun x => k.routes (h.routes x)
  turns := fun x => k.turns (h.turns x)
  visitors := fun x => k.visitors (h.visitors x)
  modes := fun x => k.modes (h.modes x)

theorem Inner.refl (s : State) : Inner s s :=
  { Within.refl s with
    mc := rfl, freeCount := rfl, fs := rfl, tr := rfl, identity := fun _ => rfl, line1 := rfl, line2 := rfl, line3 := rfl }

theorem Inner.trans {s t u : State} (h : Inner s t) (k : Inner t u) : Inner s u :=
  { h.toWithin.trans k.toWithin with
    mc := k.mc.trans h.mc
    freeCount := k.freeCount.trans h.freeCount
    fs := by rw [k.fs, h.fs]
    tr := by rw [k.tr, h.tr]
    identity := fun x => (k.identity x).trans (h.identity x)
    line1 := k.line1.trans h.line1
    line2 := k.line2.trans h.line2
    line3 := k.line3.trans h.line3 }

theorem Rail.refl (s : State) : Rail s s := { Inner.refl s with awu := rfl }

theorem Rail.trans {s t u : State} (h : Rail s t) (k : Rail t u) : Rail s u :=
  { h.toInner.trans k.toInner with awu := k.awu.trans h.awu }

theorem Within.foldl {α : Type} {f : State → α → State} (h : ∀ s x, Within s (f s x)) (l : List α) (s : State) :
    Within s (l.foldl f s) := by
  induction l generalizing s with
  | nil => exact .refl s
  | cons x l ih => exact (h s x).trans (ih _)

theorem Inner.foldl {α : Type} {f : State → α → State} (h : ∀ s x, Inner s (f s x)) (l : List α) (s : State) :
    Inner s (l.foldl f s) := by
  induction l generalizing s with
  | nil => exact .refl s
  | cons x l ih => exact (h s x).trans (ih _)

theorem Rail.foldl {α : Type} {f : State → α → State} (h : ∀ s x, Rail s (f s x)) (l : List α) (s : State) :
    Rail s (l.foldl f s) := by
  induction l generalizing s with
  | nil => exact .refl s
  | cons x l ih => exact (h s x).trans (ih _)

theorem Within.ite {s t u : State} {c : Prop} [Decidable c] (h : Within s t) (k : Within s u) : Within s (if c then t else u) := by
  split
  · exact h
  · exact k

theorem Inner.ite {s t u : State} {c : Prop} [Decidable c] (h : Inner s t) (k : Inner s u) : Inner s (if c then t else u) := by
  split
  · exact h
  · exact k

theorem Rail.ite {s t u : State} {c : Prop} [Decidable c] (h : Rail s t) (k : Rail s u) : Rail s (if c then t else u) := by
  split
  · exact h
  · exact k

/-! ### Laws that read only some fields -/

theorem RouteLaw.congr {s t : State} (routes : t.iu.routes = s.iu.routes) (stack : t.iu.stack = s.iu.stack)
    (pm : t.pm.plan = s.pm.plan) (mode : t.mc.mode = .setup → s.mc.mode = .setup) (h : RouteLaw s) : RouteLaw t where
  rising := routes ▸ h.rising
  slots := routes ▸ h.slots
  entries := by
    have e : t.entrySignal = s.entrySignal := by
      have r : t.routeRec = s.routeRec := by funext x; simp only [State.routeRec, State.plan, pm]
      funext k
      simp only [State.entrySignal, State.route?, routes, r]
    rw [e]; exact h.entries
  few := stack ▸ h.few
  once := stack ▸ h.once
  levels := by simpa only [stack, State.plan, pm] using h.levels
  setup := fun m => by rw [routes, stack]; exact h.setup (mode m)

theorem TurnLaw.congr {s t : State} (queue : t.tc.queue = s.tc.queue) (pm : t.pm.plan = s.pm.plan)
    (mode : t.mc.mode = .setup → s.mc.mode = .setup) (h : TurnLaw s) : TurnLaw t where
  few := queue ▸ h.few
  levels := by simpa only [queue, State.plan, pm] using h.levels
  setup := fun m => by rw [queue]; exact h.setup (mode m)

theorem VisitorLaw.congr {s t : State} (queue : t.awu.queue = s.awu.queue) (running : t.awu.running = s.awu.running)
    (h : VisitorLaw s) : VisitorLaw t where
  few := queue ▸ h.few
  once := queue ▸ h.once
  running := by rw [queue, running]; exact h.running

/-! ### Updates that touch none of the lawful tables -/

/-- An update of points, marks, output bits, speeds, hand-offs and the turntable's own fields. -/
theorem Rail.of_fields {s t : State} (pm : t.pm = s.pm) (pending : t.pending = s.pending) (order : t.order = s.order)
    (linkOut : t.linkOut = s.linkOut) (mc : t.mc = s.mc) (freeCount : t.freeCount = s.freeCount)
    (fs : t.fs = { s.fs with image := t.fs.image }) (tr : t.tr = s.tr) (signals : t.iu.signals = s.iu.signals)
    (routes : t.iu.routes = s.iu.routes) (stack : t.iu.stack = s.iu.stack) (queue : t.tc.queue = s.tc.queue)
    (awu : t.awu = s.awu) (clp : t.clp = s.clp) : Rail s t where
  pm := pm
  pending := pending
  order := order
  linkOut := linkOut
  setup := by rw [mc]; exact id
  signals := by rw [signals]; exact id
  handles := by rw [tr]
  holder := by rw [clp]
  dropped := by rw [clp]
  mask := by rw [clp]
  who := fun k => by simp only [State.train?, tr]
  rising := by rw [tr]; exact id
  notices := by rw [clp]; exact id
  routes := RouteLaw.congr routes stack (by rw [pm]) (by rw [mc]; exact id)
  turns := TurnLaw.congr queue (by rw [pm]) (by rw [mc]; exact id)
  visitors := VisitorLaw.congr (by rw [awu]) (by rw [awu])
  modes := by unfold ModeLaw; rw [mc]; exact id
  mc := mc
  freeCount := freeCount
  fs := fs
  tr := by rw [tr]
  identity := fun k => by simp only [State.train?, tr]
  line1 := by rw [awu]
  line2 := by rw [awu]
  line3 := by rw [awu]
  awu := awu

theorem setOut_rail (s : State) (b : Nat) (v : Bool) : Rail s (s.setOut b v) := by apply Rail.of_fields <;> rfl
theorem putPoint_rail (s : State) (p : Nat) (x : Point) : Rail s (s.putPoint p x) := by apply Rail.of_fields <;> rfl
theorem putMark_rail (s : State) (x : Nat) (m : Mark) : Rail s (s.putMark x m) := by apply Rail.of_fields <;> rfl
theorem putSpeed_rail (s : State) (k : Nat) (r : SpeedRec) : Rail s (s.putSpeed k r) := by apply Rail.of_fields <;> rfl
theorem putDue_rail (s : State) (d : Due) : Rail s { s with due := d } := by apply Rail.of_fields <;> rfl
theorem putSs_rail (s : State) (x : SS) : Rail s { s with ss := x } := by apply Rail.of_fields <;> rfl
theorem wantScan_rail (s : State) : Rail s s.wantScan := putDue_rail s _
theorem wantAttempt_rail (s : State) : Rail s s.wantAttempt := putDue_rail s _
theorem wantArbitrate_rail (s : State) : Rail s s.wantArbitrate := putDue_rail s _
theorem handRelease_rail (s : State) : Rail s s.handRelease := putDue_rail s _

/-- An update of the turntable's own fields. -/
theorem setTc_rail (s : State) (x : TC) (h : x.queue = s.tc.queue) : Rail s (s.setTc x) :=
  Rail.of_fields rfl rfl rfl rfl rfl rfl rfl rfl rfl rfl rfl h rfl rfl

/-- The turn queue rewritten with its levels kept in law. -/
theorem setTc_queue_rail (s : State) (x : TC) (h : TurnLaw s → TurnLaw (s.setTc x)) : Rail s (s.setTc x) :=
  { Rail.refl s with turns := h, routes := RouteLaw.congr rfl rfl rfl id, visitors := VisitorLaw.congr rfl rfl }

/-! ### Train records -/

theorem putTrain_train? (s : State) (k j : Nat) (x : Train) :
    (s.putTrain k x).train? j = if j = k then some x else s.train? j := by
  unfold State.train? State.putTrain
  by_cases h : j = k
  · subst h; simp
  · simp [h, Tab.get?_put_ne _ _ h]

/-- A train's record rewritten with its identity kept. -/
theorem putTrain_rail (s : State) (k : Nat) (x y : Train) (h : s.train? k = some y)
    (e : x.identity = y.identity) : Rail s (s.putTrain k x) :=
  { Rail.refl s with
    tr := rfl
    rising := fun w => Tab.put_wf _ _ _ w
    who := fun j => by
      rw [putTrain_train?]
      split
      · subst j
        simp only [Train.identity, Prod.mk.injEq] at e
        simp [h, e.1, e.2.2.2.1]
      · rfl
    identity := fun j => by
      rw [putTrain_train?]
      split
      · subst j; simp [h, e]
      · rfl
    routes := RouteLaw.congr rfl rfl rfl id
    turns := TurnLaw.congr rfl rfl id
    visitors := VisitorLaw.congr rfl rfl }

theorem updTrain_rail (s : State) (k : Nat) (g : Train → Train) (h : ∀ x, (g x).identity = x.identity) :
    Rail s (s.updTrain k g) := by
  unfold State.updTrain
  split
  · exact .refl s
  · next y e => exact putTrain_rail s k (g y) y e (h y)

/-! ### Notices -/

theorem evict_spec (rank : Nat) (l : List Notice) :
    (evict rank l).1.Sublist l ∧ ((evict rank l).2 ≠ none → (evict rank l).1.length + 1 = l.length) ∧
      ((∃ n ∈ l, n.cause.rank = rank) → (evict rank l).2 ≠ none) := by
  induction l with
  | nil => simp [evict]
  | cons n l ih =>
    unfold evict
    by_cases h : n.cause.rank = rank
    · simp [h]
    · simp only [h, if_false]
      refine ⟨ih.1.cons_cons n, ?_, ?_⟩
      · intro e; simp [ih.2.1 e]
      · rintro ⟨m, hm, hr⟩
        rcases List.mem_cons.1 hm with rfl | hm
        · exact absurd hr h
        · exact ih.2.2 ⟨m, hm, hr⟩

theorem foldl_max_mem (l : List Notice) (r : Nat) :
    l.foldl (fun r n => max r n.cause.rank) r = r ∨
      ∃ n ∈ l, n.cause.rank = l.foldl (fun r n => max r n.cause.rank) r := by
  induction l generalizing r with
  | nil => exact .inl rfl
  | cons n l ih =>
    simp only [List.foldl_cons]
    rcases ih (max r n.cause.rank) with h | ⟨m, hm, e⟩
    · rw [h]
      rcases Nat.le_total r n.cause.rank with k | k
      · exact .inr ⟨n, by simp, by omega⟩
      · exact .inl (by omega)
    · exact .inr ⟨m, by simp [hm], e⟩

/-- The lowest class present is the class of an entry, unless it is SAFETY's number. -/
theorem lowestRank_mem (l : List Notice) (h : 0 < lowestRank l) : ∃ n ∈ l, n.cause.rank = lowestRank l := by
  rcases foldl_max_mem l 0 with e | e
  · unfold lowestRank at h; omega
  · exact e

theorem noticed_false {l : List Notice} {c : Cause} {n : Nat} (h : noticed l c n = false) :
    ∀ x ∈ l, ¬(x.cause = c ∧ x.subject = n) := by
  intro x hx e
  have : noticed l c n = true := List.any_eq_true.2 ⟨x, hx, by simp [e.1, e.2]⟩
  rw [h] at this; contradiction

theorem raiseNotice_same (c : Cause) (n d : Nat) (x : Notice) :
    (raiseNotice c n d x).cause = x.cause ∧ (raiseNotice c n d x).subject = x.subject := by
  unfold raiseNotice; split <;> simp

/-- R167: recording a notice keeps the law of the table. -/
theorem record_law (p : CLP) (c : Cause) (n d : Nat) (h : NoticeLaw p) : NoticeLaw (p.record c n d) := by
  have back (l : List Notice) (w : l.Sublist p.notices) (k : l.length < 32) (m : ∀ x ∈ l, ¬(x.cause = c ∧ x.subject = n)) :
      (l ++ [(⟨c, n, 1, d⟩ : Notice)]).length ≤ 32 ∧
      (l ++ [(⟨c, n, 1, d⟩ : Notice)]).Pairwise (fun a b => ¬(a.cause = b.cause ∧ a.subject = b.subject)) ∧
      ∀ x ∈ l ++ [(⟨c, n, 1, d⟩ : Notice)], 1 ≤ x.count ∧ x.count ≤ 15 := by
    refine ⟨by simp; omega, ?_, ?_⟩
    · rw [List.pairwise_append]
      exact ⟨h.once.sublist w, by simp, fun a ha b hb => by simp at hb; subst hb; exact m a ha⟩
    · intro x hx
      rcases List.mem_append.1 hx with hx | hx
      · exact h.counts x (w.subset hx)
      · simp at hx; subst hx; simp
  unfold CLP.record
  split
  · refine ⟨by simpa using h.few, ?_, ?_, ?_⟩
    · rw [List.pairwise_map]
      refine h.once.imp fun {a b} k => ?_
      rw [(raiseNotice_same c n d a).1, (raiseNotice_same c n d b).1, (raiseNotice_same c n d a).2,
        (raiseNotice_same c n d b).2]
      exact k
    · intro x hx
      obtain ⟨y, hy, rfl⟩ := List.mem_map.1 hx
      have := h.counts y hy
      unfold raiseNotice sat15
      split
      · show 1 ≤ min (y.count + 1) 15 ∧ min (y.count + 1) 15 ≤ 15
        omega
      · exact this
    · intro x hx
      cases e : p.selection with
      | none => simp [raiseSelection, e] at hx
      | some y =>
        have := h.raises y e
        simp only [raiseSelection, e, Option.some.injEq] at hx
        subst hx
        split
        · simp [sat15]
        · exact this
  · next free =>
    have m := noticed_false (by simpa using free)
    split
    · next k =>
      obtain ⟨a, b, e⟩ := back p.notices (List.Sublist.refl _) k m
      exact ⟨a, b, e, h.raises⟩
    · split
      · next k =>
        have pos : 0 < lowestRank p.notices := by omega
        obtain ⟨w, len, gone⟩ := evict_spec (lowestRank p.notices) p.notices
        have short := len (gone (lowestRank_mem p.notices pos))
        have few := h.few
        obtain ⟨a, b, e⟩ := back _ w (by omega) (fun x hx => m x (w.subset hx))
        refine ⟨a, b, e, ?_⟩
        intro x hx
        cases es : p.selection with
        | none => simp [deselect, es] at hx
        | some y =>
          have := h.raises y es
          cases eg : (evict (lowestRank p.notices) p.notices).2 with
          | none => simp [deselect, es, eg] at hx; subst hx; exact this
          | some z =>
            simp only [deselect, es, eg, Option.some.injEq] at hx
            subst hx
            split <;> exact this
      · exact ⟨h.few, h.once, h.counts, h.raises⟩

theorem noticeWith_rail (s : State) (c : Cause) (n d : Nat) : Rail s (s.noticeWith c n d) :=
  { Rail.refl s with
    holder := (State.record_frame s.clp c n d).1
    dropped := (State.record_frame s.clp c n d).2.1
    mask := (State.record_frame s.clp c n d).2.2
    notices := record_law s.clp c n d
    routes := RouteLaw.congr rfl rfl rfl id
    turns := TurnLaw.congr rfl rfl id
    visitors := VisitorLaw.congr rfl rfl }

theorem notice_rail (s : State) (c : Cause) (n : Nat) : Rail s (s.notice c n) := noticeWith_rail s c n 0

end Sys2Proof.Machine
end

