-- ==== Sys2Proof/Laws/Rails.lean ====
section
/-! SUPPORT. What each operation of the Interlocking Unit leaves alone: one `Rail` lemma per operation. -/
namespace Sys2Proof.Machine

/-! ### The shared look-ups of trains -/

theorem loseTrain_rail (s : State) (k : Nat) : Rail s (s.loseTrain k) := by
  unfold State.loseTrain
  split
  · exact .refl s
  · next x e => exact ((putTrain_rail s k _ x e (by rfl)).trans (notice_rail _ _ _)).trans (wantArbitrate_rail _)

theorem testSpan_rail (s : State) (k : Nat) : Rail s (s.testSpan k) := by
  unfold State.testSpan
  split
  · exact .refl s
  · split
    · exact loseTrain_rail s k
    · exact .refl s

/-! ### Active routes -/

theorem putRoute_route? (s : State) (k j : Nat) (r : ActiveRoute) :
    (s.putRoute k r).route? j = if j = k then some r else s.route? j := by
  unfold State.route? State.putRoute
  by_cases h : j = k
  · subst h; simp
  · simp [h, Tab.get?_put_ne _ _ h]

theorem putRoute_entrySignal (s : State) (k j : Nat) (r : ActiveRoute) :
    (s.putRoute k r).entrySignal j = if j = k then (s.routeRec r).map RouteRec.entry else s.entrySignal j := by
  unfold State.entrySignal
  rw [putRoute_route?]
  split <;> rfl

theorem keys_put {α : Type} (t : Tab α) (k : Nat) (x : α) (j : Nat) (h : j ∈ (t.put k x).keys) : j = k ∨ j ∈ t.keys := by
  obtain ⟨r, hr, rfl⟩ := List.mem_map.1 h
  rcases rowsPut_mem t.rows k x r hr with e | e
  · exact .inl (by rw [e])
  · exact .inr (List.mem_map_of_mem e)

theorem mem_keys_of_get? {α : Type} (t : Tab α) (k : Nat) (x : α) (h : t.get? k = some x) : k ∈ t.keys :=
  List.mem_map.2 ⟨(k, x), rowsGet_mem t.rows k x h, rfl⟩

/-- An active record rewritten with its route id kept. -/
theorem putRoute_rail (s : State) (k : Nat) (r q : ActiveRoute) (h : s.route? k = some q) (e : r.route = q.route) :
    Rail s (s.putRoute k r) :=
  { Rail.refl s with
    turns := TurnLaw.congr rfl rfl id
    visitors := VisitorLaw.congr rfl rfl
    routes := fun w =>
      { rising := Tab.put_wf _ _ _ w.rising
        slots := fun j hj => by
          rcases keys_put _ _ _ _ hj with rfl | hj
          · exact w.slots j (mem_keys_of_get? _ _ _ h)
          · exact w.slots j hj
        entries := by
          have same : ∀ j, (s.putRoute k r).entrySignal j = s.entrySignal j := by
            intro j
            rw [putRoute_entrySignal]
            split
            · subst j; simp [State.entrySignal, h, State.routeRec, e]
            · rfl
          intro j i x hj hi
          rw [same] at hj hi
          exact w.entries j i x hj hi
        few := w.few
        once := w.once
        levels := w.levels
        setup := fun m => by
          have := (w.setup m).1
          have hk := mem_keys_of_get? _ _ _ h
          simp [Tab.keys, this] at hk } }

/-- R75: a new active record in an empty slot, for a route whose entry signal has none. -/
theorem putNewRoute_rail (s : State) (k : Nat) (r : ActiveRoute) (d : RouteRec) (range : 1 ≤ k ∧ k ≤ 32)
    (plan : s.plan.routes.get? r.route = some d) (free : s.activeAt d.entry = none)
    (mode : RouteLaw s → s.mc.mode ≠ .setup) : Rail s (s.putRoute k r) :=
  { Rail.refl s with
    turns := TurnLaw.congr rfl rfl id
    visitors := VisitorLaw.congr rfl rfl
    routes := fun w =>
      { rising := Tab.put_wf _ _ _ w.rising
        slots := fun j hj => by
          rcases keys_put _ _ _ _ hj with rfl | hj
          · exact range
          · exact w.slots j hj
        entries := by
          have away : ∀ j, s.entrySignal j ≠ some d.entry := by
            intro j e
            unfold State.entrySignal at e
            cases q : s.route? j with
            | none => simp [q] at e
            | some q' =>
              simp only [q, Option.bind_some] at e
              have hm := rowsGet_mem _ _ _ q
              unfold State.activeAt at free
              rw [Option.map_eq_none_iff, List.find?_eq_none] at free
              exact free _ hm (by simpa using e)
          intro j i x hj hi
          rw [putRoute_entrySignal] at hj hi
          have new : (s.routeRec r).map RouteRec.entry = some d.entry := by simp [State.routeRec, plan]
          split at hj <;> split at hi
          · omega
          · rw [new] at hj; exact absurd (hi.trans hj.symm) (away i)
          · rw [new] at hi; exact absurd (hj.trans hi.symm) (away j)
          · exact w.entries j i x hj hi
        few := w.few
        once := w.once
        levels := w.levels
        setup := fun m => absurd m (mode w) } }

theorem keys_erase {α : Type} (t : Tab α) (k j : Nat) (h : j ∈ (t.erase k).keys) : j ∈ t.keys :=
  ((rowsErase_sublist t.rows k).map Prod.fst).subset h

/-- R100: an active record leaves the table. -/
theorem eraseRoute_rail (s : State) (k : Nat) :
    Rail s { s with iu := { s.iu with routes := s.iu.routes.erase k } } :=
  { Rail.refl s with
    turns := TurnLaw.congr rfl rfl id
    visitors := VisitorLaw.congr rfl rfl
    routes := fun w =>
      { rising := Tab.erase_wf _ _ w.rising
        slots := fun j hj => w.slots j (keys_erase _ _ _ hj)
        entries := by
          have sub : ∀ j x, State.entrySignal { s with iu := { s.iu with routes := s.iu.routes.erase k } } j = some x →
              s.entrySignal j = some x := by
            intro j x hj
            by_cases e : j = k
            · subst e
              simp [State.entrySignal, State.route?, Tab.get?_erase_same _ _ w.rising] at hj
            · simp only [State.entrySignal, State.route?, Tab.get?_erase_ne _ e] at hj ⊢
              exact hj
          intro j i x hj hi
          exact w.entries j i x (sub j x hj) (sub i x hi)
        few := w.few
        once := w.once
        levels := w.levels
        setup := fun m => by
          have := (w.setup m).1
          exact ⟨by simp [Tab.erase, this, rowsErase], (w.setup m).2⟩ } }

/-- The route stack replaced, where the law of the routes carries over. -/
theorem putStack_rail (s : State) (l : List StackEntry)
    (h : RouteLaw s → RouteLaw { s with iu := { s.iu with stack := l } }) :
    Rail s { s with iu := { s.iu with stack := l } } :=
  { Rail.refl s with turns := TurnLaw.congr rfl rfl id, visitors := VisitorLaw.congr rfl rfl, routes := h }

/-- Another stack under the law of the routes. -/
theorem RouteLaw.withStack {s : State} (l : List StackEntry) (h : RouteLaw s) (few : l.length ≤ 16)
    (once : (l.map StackEntry.route).Nodup)
    (levels : ∀ e ∈ l, e.effective ≤ e.clamped ∧ s.plan.floor e.station ≤ e.clamped)
    (setup : s.mc.mode = .setup → l = []) : RouteLaw { s with iu := { s.iu with stack := l } } where
  rising := h.rising
  slots := h.slots
  entries := h.entries
  few := few
  once := once
  levels := levels
  setup := fun m => ⟨(h.setup m).1, setup m⟩

/-- A part of the stack is lawful where the stack is. -/
theorem putSubstack_rail (s : State) (l : List StackEntry) (w : l.Sublist s.iu.stack) :
    Rail s { s with iu := { s.iu with stack := l } } :=
  putStack_rail s l fun h => h.withStack l (w.length_le.trans h.few) (h.once.sublist (w.map _))
    (fun e he => h.levels e (w.subset he)) (fun m => List.sublist_nil.1 ((h.setup m).2 ▸ w))

/-! ### Points and throws -/

theorem command_rail (s : State) (p : Nat) (q : Pos) : Rail s (s.command p q) := by
  unfold State.command
  split
  · exact .refl s
  · dsimp only
    split
    · exact .refl s
    · refine Rail.trans ?_ (putPoint_rail _ _ _)
      refine Rail.trans ?_ (setOut_rail _ _ _)
      split
      · split
        · exact .refl s
        · exact setOut_rail _ _ _
      · exact .refl s

theorem endPulse_rail (s : State) (p : Nat) : Rail s (s.endPulse p) := by
  unfold State.endPulse
  dsimp only
  split
  · exact .refl s
  · split
    · exact putPoint_rail _ _ _
    · exact (putPoint_rail _ _ _).trans (setOut_rail _ _ _)

theorem clearRoute_rail (s : State) (k : Nat) : Rail s (s.clearRoute k) := by
  unfold State.clearRoute
  split
  · exact .refl s
  · next r e =>
    have base := (putRoute_rail s k { r with state := .cleared } r e (by rfl)).trans (notice_rail _ .routeSet r.route)
    dsimp only
    split
    · exact base
    · refine base.trans (updTrain_rail _ _ _ fun x => ?_)
      split <;> rfl

theorem throwEnded_rail (s : State) (p : Nat) : Rail s (s.throwEnded p) := by
  unfold State.throwEnded
  split
  · exact .refl s
  · split
    · exact .refl s
    · next r e =>
      dsimp only
      split
      · exact (putRoute_rail s _ _ r e (by rfl)).trans (clearRoute_rail _ _)
      · exact putRoute_rail s _ _ r e (by rfl)

theorem unlock_rail (s : State) (p : Nat) : Rail s (s.unlock p) := (putPoint_rail _ _ _).trans (handRelease_rail _)

theorem clearMarks_rail (s : State) (k : Nat) : Rail s (s.clearMarks k) :=
  Rail.foldl (fun s x => putMark_rail s x .free) _ s

theorem rowsGet_map {α β : Type} (f : α → β) (l : List (Nat × α)) (k : Nat) :
    rowsGet (l.map (fun r => (r.1, f r.2))) k = (rowsGet l k).map f := by
  induction l with
  | nil => rfl
  | cons r l ih => simp only [List.map_cons, rowsGet]; split <;> simp [ih]

/-- Train records rewritten in place with their identities kept. -/
theorem mapTrains_rail (s : State) (g : Train → Train) (h : ∀ x, (g x).identity = x.identity) :
    Rail s { s with tr := { s.tr with trains := ⟨s.tr.trains.rows.map (fun r => (r.1, g r.2))⟩ } } :=
  { Rail.refl s with
    tr := rfl
    turns := TurnLaw.congr rfl rfl id
    visitors := VisitorLaw.congr rfl rfl
    routes := RouteLaw.congr rfl rfl rfl id
    rising := fun w => by
      simp only [Tab.Wf, Tab.keys, List.map_map] at w ⊢
      exact w
    who := fun j => by
      simp only [State.train?, Tab.get?, rowsGet_map, Option.map_map]
      congr 1
      funext x
      have := h x
      simp only [Train.identity, Prod.mk.injEq] at this
      simp [this.1, this.2.2.2.1]
    identity := fun j => by
      simp only [State.train?, Tab.get?, rowsGet_map, Option.map_map]
      congr 1
      funext x
      exact h x }

theorem forgetRoute_rail (s : State) (k : Nat) : Rail s (s.forgetRoute k) := by
  refine mapTrains_rail s (fun x => if x.route = some k then { x with route := none } else x) fun x => ?_
  split <;> rfl

theorem retireRoute_rail (s : State) (k : Nat) (c : Cause) (d : Nat) : Rail s (s.retireRoute k c d) := by
  unfold State.retireRoute
  split
  · exact .refl s
  · dsimp only
    refine Rail.trans ?_ (handRelease_rail _)
    refine Rail.trans ?_ (noticeWith_rail _ _ _ _)
    refine Rail.trans ?_ (forgetRoute_rail _ _)
    refine Rail.trans ?_ (eraseRoute_rail _ _)
    refine (clearMarks_rail s k).trans ?_
    split
    · exact .refl _
    · exact Rail.foldl unlock_rail _ _

theorem releaseMark_rail (s : State) (k x : Nat) : Rail s (s.releaseMark k x) := by
  unfold State.releaseMark
  split
  · exact .refl s
  · next r e =>
    split
    · exact .refl s
    · split
      · exact .refl s
      · dsimp only
        refine Rail.trans ?_ (handRelease_rail _)
        refine Rail.trans ?_ (Rail.foldl (fun s (y : Nat × Pos) => unlock_rail s y.1) _ _)
        exact (putRoute_rail s k _ r e (by rfl)).trans (putMark_rail _ x .free)

theorem retireIfReleased_rail (s : State) (k : Nat) : Rail s (s.retireIfReleased k) := by
  unfold State.retireIfReleased
  split
  · exact .refl s
  · split
    · exact retireRoute_rail _ _ _ _
    · exact .refl s

theorem releaseEntered_rail (s : State) (x : Nat) : Rail s (s.releaseEntered x) := by
  unfold State.releaseEntered
  split
  · split
    · exact .refl s
    · split
      · exact (releaseMark_rail _ _ _).trans (retireIfReleased_rail _ _)
      · exact .refl s
  · exact .refl s

theorem approachTest_rail (s : State) : Rail s s.approachTest := by
  refine Rail.foldl (fun s k => ?_) _ s
  split
  · exact .refl s
  · split
    · exact retireRoute_rail _ _ _ _
    · exact .refl s

theorem sectionLeft_rail (s : State) (x : Nat) : Rail s (s.sectionLeft x) :=
  ((releaseEntered_rail s x).trans (wantScan_rail _)).trans (approachTest_rail _)

theorem strayCleared_rail (s : State) (x : Nat) : Rail s (s.strayCleared x) :=
  ((wantScan_rail s).trans (wantArbitrate_rail _)).trans (approachTest_rail _)

theorem failThrow_rail (s : State) (p : Nat) : Rail s (s.failThrow p) := by
  unfold State.failThrow
  dsimp only
  have base : Rail s (((s.endPulse p).putPoint p
      { (s.endPulse p).point p with state := .failed, fault := true, throw := none }).notice .pointFailed p) :=
    ((endPulse_rail s p).trans (putPoint_rail _ _ _)).trans (notice_rail _ _ _)
  split
  · exact base
  · exact base.trans (retireRoute_rail _ _ _ _)

theorem sectionOccupied_rail (s : State) (x : Nat) : Rail s (s.sectionOccupied x) := by
  refine Rail.foldl (fun s r => ?_) _ s
  split
  · exact failThrow_rail _ _
  · exact .refl s

theorem detection_rail (s : State) (p : Nat) : Rail s (s.detection p) := by
  unfold State.detection
  split
  · exact .refl s
  · dsimp only
    split
    · split
      · exact (putPoint_rail _ _ _).trans (notice_rail _ _ _)
      · exact .refl s
    · have last : ∀ (u : State) (c : Prop) [Decidable c], Rail s u → Rail s (if c then u.wantScan else u) := by
        intro u c _ h
        split
        · exact h.trans (wantScan_rail _)
        · exact h
      have mid : ∀ (u : State) (c : Prop) [Decidable c], Rail s u → Rail s (if c then u.throwEnded p else u) := by
        intro u c _ h
        split
        · exact h.trans (throwEnded_rail _ _)
        · exact h
      apply last
      apply mid
      split
      · exact (putPoint_rail _ _ _).trans (notice_rail _ _ _)
      · exact putPoint_rail _ _ _

theorem resetPoint_rail (s : State) (p : Nat) (k : Bool) : Rail s (s.resetPoint p k) := putPoint_rail _ _ _

/-! ### Activation and the stack -/

theorem lock_rail (s : State) (x : Nat × Pos) : Rail s (s.lock x) := putPoint_rail _ _ _

theorem activate_rail (s : State) (d : RouteRec) (k : Nat) (a : RouteAsk) (range : 1 ≤ k ∧ k ≤ 32)
    (plan : s.plan.routes.get? a.route = some d) (free : s.activeAt d.entry = none)
    (mode : RouteLaw s → s.mc.mode ≠ .setup) : Rail s (s.activate d k a) := by
  unfold State.activate
  dsimp only
  have last : ∀ (u : State) (c : Prop) [Decidable c], Rail s u → Rail s (if c then u.clearRoute k else u) := by
    intro u c _ h
    split
    · exact h.trans (clearRoute_rail _ _)
    · exact h
  apply last
  refine Rail.trans ?_ (wantArbitrate_rail _)
  refine Rail.trans ?_ (Rail.foldl (fun s (x : Nat × Pos) => command_rail s x.1 x.2) _ _)
  refine Rail.trans ?_ (Rail.foldl lock_rail _ _)
  refine Rail.trans ?_ (Rail.foldl (fun s x => putMark_rail s x _) _ _)
  refine Rail.trans ?_ (Rail.foldl (fun s x => putMark_rail s x _) _ _)
  exact putNewRoute_rail s k _ d range plan free mode

/-- R83: what it means that every route check passes. -/
theorem routeCheck_none {s : State} {a : RouteAsk} (h : s.routeCheck a = none) :
    ∃ d k, s.plan.routes.get? a.route = some d ∧ lowestFree s.iu.routes 1 Config.routeSlots = some k ∧
      s.activeAt d.entry = none ∧ (∀ x ∈ d.reach, s.sectionFree x = true) ∧
      (∀ x ∈ d.settings, s.placed x.1 x.2 = true ∨ s.movable x.1 = true) ∧ s.requirementFails d = none := by
  unfold State.routeCheck at h
  split at h
  · contradiction
  next d hd =>
  split at h
  · contradiction
  split at h
  · contradiction
  next hf =>
  split at h
  · contradiction
  next hs =>
  split at h
  · contradiction
  next hp =>
  split at h
  · contradiction
  next hr =>
  split at h
  · contradiction
  next hn =>
  cases hk : lowestFree s.iu.routes 1 Config.routeSlots with
  | none => simp [hk] at hn
  | some k =>
    refine ⟨d, k, hd, rfl, hf, ?_, ?_, hr⟩
    · intro x hx
      have := List.find?_eq_none.1 hs x hx
      simpa using this
    · intro x hx
      have := List.find?_eq_none.1 hp x hx
      cases hpl : s.placed x.1 x.2
      · exact .inr (by simpa [hpl] using this)
      · exact .inl rfl

theorem activateChecked_rail (s : State) (a : RouteAsk) (h : s.routeCheck a = none)
    (mode : RouteLaw s → s.mc.mode ≠ .setup) : Rail s (s.activateChecked a).1 := by
  obtain ⟨d, k, hd, hk, hf, -, -, -⟩ := routeCheck_none h
  unfold State.activateChecked
  rw [hd, hk]
  have := lowestFree_spec _ _ _ _ hk
  exact activate_rail s d k a ⟨this.1, by have := this.2.1; simp [Config.routeSlots] at this; omega⟩ hd hf mode

theorem clampLevel_floor (p : Plan) (station level : Nat) : p.floor station ≤ p.clampLevel station level :=
  Nat.le_max_right _ _

theorem offer_rail (s : State) (a : RouteAsk) (c i : Nat) (mode : s.mc.mode ≠ .setup) : Rail s (s.offer a c i).1 := by
  unfold State.offer
  split
  · exact .refl s
  · next new =>
    split
    · exact .refl s
    · next few =>
      refine putStack_rail s _ fun h => h.withStack _ ?_ ?_ ?_ (fun m => absurd m mode)
      · simp [Config.stackEntries] at few ⊢; omega
      · rw [List.map_append, List.nodup_append]
        refine ⟨h.once, by simp, ?_⟩
        rintro x hx y hy rfl
        simp at hy; subst hy
        obtain ⟨e, he, e'⟩ := List.mem_map.1 hx
        exact new (List.any_eq_true.2 ⟨e, he, by simp [e']⟩)
      · intro e he
        rcases List.mem_append.1 he with he | he
        · exact h.levels e he
        · simp at he; subst he; exact ⟨Nat.le_refl _, clampLevel_floor _ _ _⟩

theorem working_not_setup {s : State} (h : s.working = true) : s.mc.mode ≠ .setup := by
  unfold State.working at h
  intro e; simp [e] at h

theorem askRoute_rail (s : State) (a : RouteAsk) : Rail s (s.askRoute a).1 := by
  unfold State.askRoute
  split
  · exact .refl s
  · next w =>
    have mode := working_not_setup (s := s) (by simpa using w)
    split
    · exact .refl s
    · split
      · next h => exact activateChecked_rail s a h fun _ => mode
      · split
        · exact .refl s
        · split
          · exact offer_rail s a _ _ mode
          · split <;> exact .refl s

theorem nextTry_mem {untried : List Nat} {l : List StackEntry} {e : StackEntry} (h : nextTry untried l = some e) :
    e ∈ l := by
  have key : ∀ (m : List StackEntry) (b : Option StackEntry),
      m.foldl (fun best e =>
        match best with
        | none => some e
        | some b => if e.effective < b.effective then some e else some b) b = some e → e ∈ m ∨ b = some e := by
    intro m
    induction m with
    | nil => exact fun _ => .inr
    | cons x m ih =>
      refine fun b h => (ih _ h).elim (fun k => .inl (List.mem_cons_of_mem _ k)) fun k => ?_
      cases b with
      | none => simp at k; exact .inl (by simp [k])
      | some y =>
        simp only at k
        split at k
        · simp at k; exact .inl (by simp [k])
        · exact .inr k
  rcases key _ _ h with k | k
  · exact (List.mem_filter.1 k).1
  · contradiction

theorem ageOlder_route (u : List Nat) (l : List StackEntry) :
    (ageOlder u l).map StackEntry.route = l.map StackEntry.route := by
  unfold ageOlder
  rw [List.map_map]
  congr 1
  funext e
  simp only [Function.comp]
  split <;> rfl

/-- R112: a grant keeps the laws of the routes and of the stack. -/
theorem grantEntry_rail (s : State) (e : StackEntry) (u : List Nat) (he : e ∈ s.iu.stack)
    (h : s.routeCheck e.ask = none) : Rail s (s.grantEntry e u) := by
  have mode : RouteLaw s → s.mc.mode ≠ .setup := fun w m => by rw [(w.setup m).2] at he; contradiction
  have base := activateChecked_rail s e.ask h mode
  have cut : (s.iu.stack.takeWhile (fun x => !decide (x.route = e.route)) ++
      (s.iu.stack.dropWhile (fun x => !decide (x.route = e.route))).tail).Sublist s.iu.stack := by
    conv_rhs => rw [← List.takeWhile_append_dropWhile (p := fun x => !decide (x.route = e.route)) (l := s.iu.stack)]
    exact (List.Sublist.refl _).append (List.tail_sublist _)
  unfold State.grantEntry
  dsimp only
  exact
    { base with
      turns := fun w => TurnLaw.congr (s := (s.activateChecked e.ask).1) rfl rfl id (base.turns w)
      visitors := fun w => VisitorLaw.congr (s := (s.activateChecked e.ask).1) rfl rfl (base.visitors w)
      routes := fun w => by
        refine (base.routes w).withStack _ ?_ ?_ ?_ ?_
        · have := cut.length_le
          simp only [List.length_append, ageOlder, List.length_map] at this ⊢
          exact this.trans w.few
        · rw [List.map_append, ageOlder_route, ← List.map_append]
          exact w.once.sublist (cut.map _)
        · intro x hx
          have plan : (s.activateChecked e.ask).1.plan = s.plan := by simp only [State.plan, base.pm]
          rw [plan]
          rcases List.mem_append.1 hx with hx | hx
          · obtain ⟨y, hy, rfl⟩ := List.mem_map.1 hx
            have := w.levels y ((List.takeWhile_sublist _).subset hy)
            split
            · exact ⟨by simp; omega, this.2⟩
            · exact this
          · exact w.levels x (cut.subset (List.mem_append_right _ hx))
        · intro m
          rw [base.mc] at m
          exact absurd m (mode w) }

theorem retryLoop_rail (n : Nat) (u : List Nat) (s : State) : Rail s (retryLoop n u s) := by
  induction n generalizing u s with
  | zero => exact .refl s
  | succ n ih =>
    unfold retryLoop
    split
    · exact .refl s
    · next e he =>
      dsimp only
      split
      · next h => exact (grantEntry_rail s e _ (nextTry_mem he) h).trans (ih _ _)
      · exact ih _ _

theorem retryScan_rail (s : State) : Rail s s.retryScan := retryLoop_rail _ _ _

/-! ### Cancelling and entry -/

theorem releaseReserved_rail (s : State) (k : Nat) (keep : Option Nat) : Rail s (s.releaseReserved k keep) := by
  unfold State.releaseReserved
  split
  · exact .refl s
  · split
    · exact .refl s
    · exact (Rail.foldl (fun s x => releaseMark_rail s k x) _ _).trans (retireIfReleased_rail _ _)

theorem cancelActive_rail (s : State) (k : Nat) : Rail s (s.cancelActive k).1 := by
  unfold State.cancelActive
  split
  · exact .refl s
  · next r e =>
    split
    · exact retireRoute_rail _ _ _ _
    · split
      · exact retireRoute_rail _ _ _ _
      · exact putRoute_rail s k _ r e (by rfl)
    · exact .refl s
    · exact releaseReserved_rail _ _ _

theorem reverseRoutes_rail (s : State) (k : Nat) : Rail s (s.reverseRoutes k) := by
  refine Rail.foldl (fun s j => ?_) _ s
  split
  · exact .refl s
  · split
    · exact releaseReserved_rail _ _ _
    · exact .refl s

theorem approachExpired_rail (s : State) (k : Nat) : Rail s (s.approachExpired k) := by
  unfold State.approachExpired
  split
  · exact .refl s
  · split
    · exact retireRoute_rail _ _ _ _
    · exact .refl s

theorem headEntry_rail (s : State) (k x : Nat) (how : Reserved) : Rail s (s.headEntry k x how) := by
  unfold State.headEntry
  split
  · split
    · exact .refl s
    · next r e =>
      split
      · exact .refl s
      · exact putRoute_rail s _ _ r e (by rfl)
  · split
    · exact .refl s
    · next r e => exact (putRoute_rail s _ _ r e (by rfl)).trans (updTrain_rail _ _ _ fun _ => rfl)

theorem dropStacked_rail (s : State) (n : Nat) : Rail s (s.dropStacked n) := putSubstack_rail s _ List.filter_sublist

/-- R101: what cancelling a route leaves alone. -/
theorem cancelParts_rail (s : State) (n : Nat) (drops : Bool) (slot : Option Nat) :
    Rail s (s.cancelParts n drops slot).1 := by
  have base : Rail s (if drops = true then s.dropStacked n else s) := Rail.ite (dropStacked_rail s n) (.refl s)
  unfold State.cancelParts
  cases slot with
  | none => exact base
  | some k => exact base.trans (cancelActive_rail _ _)

end Sys2Proof.Machine
end

