-- ==== Sys2Proof/Laws/Turns.lean ====
section
/-! SUPPORT. What each operation of the Turntable Controller leaves alone: one `Rail` lemma per operation. -/
namespace Sys2Proof.Machine

theorem driveTable_rail (s : State) (a b c : Bool) : Rail s (s.driveTable a b c) := by
  unfold State.driveTable
  dsimp only
  split
  · exact ((setOut_rail _ _ _).trans (setOut_rail _ _ _)).trans (setOut_rail _ _ _)
  · exact .refl s

theorem driveTurning_rail (s : State) (d : Turning) : Rail s (s.driveTurning d) := driveTable_rail _ _ _ _

/-- Another turn queue under its law. -/
theorem TurnLaw.withQueue {s : State} (x : TC) (_ : TurnLaw s) (few : x.queue.length ≤ 6)
    (levels : ∀ e ∈ x.queue, e.effective ≤ e.clamped ∧ s.plan.floor e.station ≤ e.clamped)
    (setup : s.mc.mode = .setup → x.queue = []) : TurnLaw (s.setTc x) := ⟨few, levels, setup⟩

/-- A part of the turn queue is lawful where the queue is. -/
theorem setSubqueue_rail (s : State) (x : TC) (w : x.queue.Sublist s.tc.queue) : Rail s (s.setTc x) :=
  setTc_queue_rail s x fun h => h.withQueue x (w.length_le.trans h.few) (fun e he => h.levels e (w.subset he))
    (fun m => List.sublist_nil.1 (h.setup m ▸ w))

theorem removeTurn_rail (s : State) (i : Nat) : Rail s (s.removeTurn i) :=
  setSubqueue_rail s _ (List.eraseIdx_sublist _ _)

theorem handTurnEnd_rail (s : State) (e : TurnReq) (c : Bool) : Rail s (s.handTurnEnd e c) := putDue_rail s _

theorem handBack_rail (s : State) (e : TurnReq) : Rail s (s.handBack e) := by
  unfold State.handBack
  split
  · refine Rail.trans ?_ (wantArbitrate_rail _)
    refine Rail.trans ?_ (testSpan_rail _ _)
    refine Rail.trans (setTc_rail s _ (by rfl)) (updTrain_rail _ _ _ fun x => by rfl)
  · exact setTc_rail s _ (by rfl)

theorem endRequest_rail (s : State) (i : Nat) (e : TurnReq) : Rail s (s.endRequest i e) := by
  unfold State.endRequest
  dsimp only
  refine Rail.trans ?_ (wantArbitrate_rail _)
  refine Rail.trans ?_ (handTurnEnd_rail _ _ _)
  refine Rail.trans ?_ (notice_rail _ _ _)
  exact ((handBack_rail s e).trans (removeTurn_rail _ i)).trans (setTc_rail _ _ (by rfl))

theorem becomeLocked_rail (s : State) : Rail s s.becomeLocked := (setTc_rail s _ (by rfl)).trans (handRelease_rail _)

theorem faultTable_rail (s : State) (n : Nat) : Rail s (s.faultTable n) := by
  unfold State.faultTable
  dsimp only
  refine Rail.trans ?_ (wantArbitrate_rail _)
  refine Rail.trans ?_ (notice_rail _ _ _)
  refine Rail.trans ?_ (setTc_rail _ _ (by rfl))
  have base := (driveTable_rail s false false false).trans (setTc_rail (s.driveTable false false false)
    { (s.driveTable false false false).tc with state := .faulted, timer := none, phase := none, index := none } rfl)
  split
  · exact base
  · exact (((base.trans (handBack_rail _ _)).trans (removeTurn_rail _ _)).trans (setTc_rail _ _ (by rfl))).trans
      (handTurnEnd_rail _ _ _)

theorem ageTurns_rail (s : State) (i : Nat) : Rail s (s.ageTurns i) := by
  refine setTc_queue_rail s _ fun h => h.withQueue _ ?_ ?_ ?_
  · simpa using h.few
  · intro e he
    obtain ⟨x, hx, rfl⟩ := List.mem_map.1 he
    have hm : x.1 ∈ s.tc.queue := by
      have := List.mem_zipIdx' hx
      exact List.mem_of_getElem this.2.symm
    have := h.levels x.1 hm
    split
    · exact ⟨by simp; omega, this.2⟩
    · exact this
  · intro m
    simp [h.setup m]

theorem startMove_rail (s : State) (i : Nat) (e : TurnReq) (m : Move) : Rail s (s.startMove i e m) := by
  unfold State.startMove
  dsimp only
  refine Rail.trans ?_ (driveTable_rail _ _ _ _)
  split
  · exact setTc_rail s _ (by rfl)
  · exact (setTc_rail s _ (by rfl)).trans (updTrain_rail _ _ _ fun x => by rfl)

theorem openGrant_rail (s : State) (i : Nat) (e : TurnReq) : Rail s (s.openGrant i e) :=
  ((ageTurns_rail s i).trans (setTc_rail _ _ (by rfl))).trans (putDue_rail _ _)

theorem serveTurn_rail (s : State) (i : Nat) (e : TurnReq) : Rail s (s.serveTurn i e) := by
  unfold State.serveTurn
  split
  · split
    · exact .refl _
    · split
      · exact endRequest_rail _ _ _
      · exact startMove_rail _ _ _ _
  · exact .refl _

theorem grantTurn_rail (s : State) (i : Nat) (e : TurnReq) : Rail s (s.grantTurn i e) :=
  (openGrant_rail s i e).trans (serveTurn_rail _ i e)

theorem arbitrateLoop_rail (n : Nat) (s : State) : Rail s (arbitrateLoop n s) := by
  induction n generalizing s with
  | zero => exact .refl s
  | succ n ih =>
    unfold arbitrateLoop
    split
    · exact .refl s
    · split
      · split
        · exact (setTc_rail s _ (by rfl)).trans (ih _)
        · split
          · exact (setTc_rail s _ (by rfl)).trans (ih _)
          · split
            · exact (grantTurn_rail s _ _).trans (ih _)
            · exact setTc_rail s _ (by rfl)
      · split
        · exact setTc_rail s _ (by rfl)
        · exact (grantTurn_rail s _ _).trans (ih _)

theorem arbitrate_rail (s : State) : Rail s s.arbitrate := arbitrateLoop_rail _ _

/-- R132: what it means that every test of a TURN passes. -/
theorem turnRefusal_none {s : State} {a : TurnAsk} (h : s.turnRefusal a = none) :
    s.working = true ∧ 1 ≤ a.road ∧ a.road ≤ 20 ∧ (s.plan.roads.get? a.road).isSome = true ∧
      s.tc.queue.length < Config.turnEntries ∧ s.unknownTrain a.train = false ∧ s.waitsToTurn a.train = false := by
  unfold State.turnRefusal at h
  split at h
  · contradiction
  next h1 =>
  split at h
  · contradiction
  next h2 =>
  split at h
  · contradiction
  split at h
  · contradiction
  next h4 =>
  split at h
  · contradiction
  next h5 =>
  split at h
  · contradiction
  split at h
  · contradiction
  next h7 =>
  split at h
  · contradiction
  next h8 =>
  simp only [Bool.not_eq_true, Bool.not_eq_true', Bool.not_eq_false, Bool.and_eq_true, decide_eq_true_eq] at h1 h2 h5 h7
  exact ⟨by simpa using h1, h2.1.1, h2.1.2, by simpa [Option.isSome_iff_ne_none] using h4, by omega, h5, h7⟩

theorem askTurn_rail (s : State) (a : TurnAsk) : Rail s (s.askTurn a).1 := by
  unfold State.askTurn
  split
  · exact .refl s
  · next h =>
    obtain ⟨w, -, -, -, few, -, -⟩ := turnRefusal_none h
    dsimp only
    refine Rail.trans ?_ (arbitrate_rail _)
    refine Rail.trans ?_ (putDue_rail _ _)
    refine setTc_queue_rail s _ fun h => h.withQueue _ ?_ ?_ (fun m => absurd m (working_not_setup w))
    · simp [Config.turnEntries] at few ⊢; omega
    · intro e he
      rcases List.mem_append.1 he with he | he
      · exact h.levels e he
      · simp at he; subst he; exact ⟨Nat.le_refl _, clampLevel_floor _ _ _⟩

theorem seek_rail (s : State) : Rail s s.seek := (setTc_rail s _ (by rfl)).trans (driveTable_rail _ _ _ _)

theorem askHome_rail (s : State) (n : Nat) : Rail s (s.askHome n).1 := by
  unfold State.askHome
  split
  · exact .refl s
  · split
    · exact .refl s
    · split
      · exact .refl s
      · split
        · exact .refl s
        · split
          · exact .refl s
          · dsimp only
            have base : ∀ x : TC, x.queue = s.tc.queue → Rail s ((s.setTc x).driveTable false false true).wantArbitrate :=
              fun x h => ((setTc_rail s x h).trans (driveTable_rail _ _ _ _)).trans (wantArbitrate_rail _)
            exact Rail.ite (base _ (by rfl)) ((base _ (by rfl)).trans (seek_rail _))

theorem dropTurn_rail (s : State) (i : Nat) : Rail s (s.dropTurn i) := by
  unfold State.dropTurn
  dsimp only
  refine Rail.trans ?_ (wantArbitrate_rail _)
  split
  · exact (removeTurn_rail s i).trans (setTc_rail _ _ (by rfl))
  · exact removeTurn_rail s i

theorem dropTurnsOf_rail (s : State) (n : Nat) : Rail s (s.dropTurnsOf n) := by
  unfold State.dropTurnsOf
  split
  · exact .refl s
  · exact dropTurn_rail _ _

theorem countIndex_rail (s : State) : Rail s s.countIndex := by
  unfold State.countIndex
  dsimp only
  split
  · exact faultTable_rail _ _
  · exact setTc_rail s _ (by rfl)

theorem engage_rail (s : State) : Rail s s.engage := (setTc_rail s _ (by rfl)).trans (driveTable_rail _ _ _ _)

theorem stepIndex_rail (s : State) (m : Move) : Rail s (s.stepIndex m) := by
  unfold State.stepIndex
  dsimp only
  have base : ∀ x : TC, x.queue = s.tc.queue → Rail s (s.setTc x) := fun x h => setTc_rail s x h
  exact Rail.ite
    (Rail.ite (((base _ (by rfl)).trans (setTc_rail _ _ (by rfl))).trans (driveTable_rail _ _ _ _))
      ((base _ (by rfl)).trans (setTc_rail _ _ (by rfl)))) (base _ (by rfl))

theorem arrival_rail (s : State) (i h : Bool) : Rail s (s.arrival i h) := by
  unfold State.arrival
  split
  · split
    · split
      · exact engage_rail s
      · split
        · exact countIndex_rail s
        · exact .refl s
    · exact .refl s
  · split
    · exact .refl s
    · split
      · exact stepIndex_rail _ _
      · exact .refl s
  · split
    · exact .refl s
    · split
      · exact stepIndex_rail _ _
      · exact .refl s
  · exact .refl s

theorem lockConfirmed_rail (s : State) : Rail s s.lockConfirmed := by
  unfold State.lockConfirmed
  split
  · split
    · exact (becomeLocked_rail s).trans (notice_rail _ _ _)
    · exact .refl s
  · split
    · exact becomeLocked_rail s
    · exact (becomeLocked_rail s).trans (endRequest_rail _ _ _)
  · exact .refl s

theorem lockDropped_rail (s : State) : Rail s s.lockDropped := by
  unfold State.lockDropped
  split
  · split
    · exact seek_rail s
    · exact .refl s
  · split
    · exact setTc_rail s _ (by rfl)
    · split
      · exact .refl s
      · exact (setTc_rail s _ (by rfl)).trans (driveTurning_rail _ _)
  · exact faultTable_rail _ _
  · exact .refl s

theorem sensors_rail (s : State) (i h c d : Bool) : Rail s (s.sensors i h c d) := by
  unfold State.sensors
  dsimp only
  refine Rail.trans ?_ (wantArbitrate_rail _)
  have mid : Rail s (if c = true then (s.arrival i h).lockConfirmed else s.arrival i h) :=
    Rail.ite ((arrival_rail s i h).trans (lockConfirmed_rail _)) (arrival_rail s i h)
  exact Rail.ite (mid.trans (lockDropped_rail _)) mid

theorem tableTimeout_rail (s : State) : Rail s s.tableTimeout := by
  unfold State.tableTimeout
  split <;> first | exact faultTable_rail _ _ | exact .refl s

theorem tableTick_rail (s : State) : Rail s s.tableTick := by
  unfold State.tableTick
  refine Rail.trans ?_ (wantArbitrate_rail _)
  split
  · exact .refl s
  · split
    · exact tableTimeout_rail s
    · exact setTc_rail s _ (by rfl)

theorem tableStops_rail (s : State) : Rail s s.tableStops := by
  unfold State.tableStops
  split
  · exact (setTc_rail s _ (by rfl)).trans (driveTable_rail _ _ _ _)
  · exact .refl s
  · exact (setTc_rail s _ (by rfl)).trans (driveTable_rail _ _ _ _)
  · exact .refl s

theorem tableResumes_rail (s : State) : Rail s s.tableResumes := by
  unfold State.tableResumes
  split
  · dsimp only
    split
    · exact (setTc_rail s _ (by rfl)).trans (driveTable_rail _ _ _ _)
    · exact (setTc_rail s _ (by rfl)).trans (driveTurning_rail _ _)
  · exact arbitrate_rail s

end Sys2Proof.Machine
end

