-- ==== Sys2Proof/Laws/Finish.lean ====
section
/-! SUPPORT. What the Automatic Working Unit's operations and the end of an event leave alone: `Rail` or `Inner` lemmas, up to
`finish_inner`; then what the end of a quiet event may still change, `finish_followUp`. -/
namespace Sys2Proof.Machine

/-! ### Grades, dwells and triggers -/

theorem requestGrade_rail (s : State) (k g : Nat) : Rail s (s.requestGrade k g) :=
  updTrain_rail _ _ _ fun x => by rfl

theorem triggerRoute_rail (s : State) (k r : Nat) : Rail s (s.triggerRoute k r) := by
  unfold State.triggerRoute
  split
  · exact .refl s
  · exact askRoute_rail _ _

/-- An update of the Automatic Working Unit that keeps the law of the visitor queue and the console lines. -/
theorem putAwu_inner (s : State) (a : AWU) (l1 : a.line1 = s.awu.line1) (l2 : a.line2 = s.awu.line2)
    (l3 : a.line3 = s.awu.line3) (h : VisitorLaw s → VisitorLaw { s with awu := a }) : Inner s { s with awu := a } :=
  { Inner.refl s with
    line1 := l1
    line2 := l2
    line3 := l3
    visitors := h
    routes := RouteLaw.congr rfl rfl rfl id
    turns := TurnLaw.congr rfl rfl id }

/-- An update of the Automatic Working Unit outside the visitor queue and the console lines. -/
theorem putAwu_fields (s : State) (a : AWU) (l1 : a.line1 = s.awu.line1) (l2 : a.line2 = s.awu.line2)
    (l3 : a.line3 = s.awu.line3) (q : a.queue = s.awu.queue) (r : a.running = s.awu.running) :
    Inner s { s with awu := a } := putAwu_inner s a l1 l2 l3 (VisitorLaw.congr q r)

theorem putDwell_inner (s : State) (k : Nat) (d : Option (Nat × DwellRec)) : Inner s (s.putDwell k d) := by
  unfold State.putDwell
  have base : Inner s (s.updTrain k (fun t => { t with dwell := d.map Prod.fst })) :=
    (updTrain_rail _ _ _ fun x => by rfl).toInner
  exact base.trans (putAwu_fields _ _ (by rfl) (by rfl) (by rfl) (by rfl) (by rfl))

theorem startDwell_inner (s : State) (k n r : Nat) : Inner s (s.startDwell k n r) := by
  unfold State.startDwell
  split
  · exact .refl s
  · exact (putDwell_inner _ _ _).trans (requestGrade_rail _ _ _).toInner

theorem endDwell_inner (s : State) (k : Nat) : Inner s (s.endDwell k) := by
  unfold State.endDwell
  split
  · exact .refl s
  · exact ((requestGrade_rail _ _ _).toInner.trans (putDwell_inner _ _ _)).trans (triggerRoute_rail _ _ _).toInner

/-! ### Demonstrations -/

theorem cancelClearedOf_rail (s : State) (k n : Nat) : Rail s (s.cancelClearedOf k n) := by
  refine Rail.foldl (fun s j => ?_) _ s
  split
  · exact .refl s
  · exact Rail.ite (cancelParts_rail _ _ _ _) (.refl s)

theorem withdrawWaiting_rail (s : State) (n : Nat) : Rail s (s.withdrawWaiting n) := by
  unfold State.withdrawWaiting
  split
  · exact .refl s
  · split
    · exact .refl s
    · exact dropTurn_rail _ _

theorem startCooldown_inner (s : State) (p : Nat) : Inner s (s.startCooldown p) := by
  unfold State.startCooldown
  split
  · exact .refl s
  · exact putAwu_fields _ _ (by rfl) (by rfl) (by rfl) (by rfl) (by rfl)

theorem endDemo_inner (s : State) (why : DemoEnd) : Inner s (s.endDemo why) := by
  unfold State.endDemo
  split
  · exact .refl s
  · next d _ =>
    dsimp only
    refine Inner.trans ?_ (wantAttempt_rail _).toInner
    refine Inner.trans ?_ (putAwu_inner _ _ (by rfl) (by rfl) (by rfl) fun h => ⟨h.few, h.once, by simp⟩)
    refine Inner.trans ?_ (noticeWith_rail _ _ _ _).toInner
    refine Inner.trans ?_ (startCooldown_inner _ _)
    have first : Inner s (match s.slotOf d.train with
        | none => s
        | some slot => if why = DemoEnd.complete then (s.requestGrade slot 0).putDwell slot none
          else ((s.requestGrade slot 0).putDwell slot none).cancelClearedOf slot d.train) := by
      split
      · exact .refl s
      · have base : ∀ k, Inner s ((s.requestGrade k 0).putDwell k none) :=
          fun k => (requestGrade_rail _ _ _).toInner.trans (putDwell_inner _ _ _)
        exact Inner.ite (base _) ((base _).trans (cancelClearedOf_rail _ _ _).toInner)
    exact Inner.ite (first.trans (withdrawWaiting_rail _ _).toInner) first

theorem demoRequest_rail (s : State) (d : DemoRec) : Rail s (s.demoRequest d).1 := by
  unfold State.demoRequest
  split
  · exact askRoute_rail _ _
  · exact askTurn_rail _ _

/-- R150: a demo that starts leaves the queue in the event in which it starts. -/
theorem startDemo_inner (s : State) (v : Visitor) (l : List Visitor) (d : DemoRec) (k : Nat) (q : s.awu.queue = v :: l) :
    Inner s (s.startDemo v d k) := by
  unfold State.startDemo
  dsimp only
  refine Inner.trans ?_ (notice_rail _ _ _).toInner
  have base : Inner s { s with awu := { s.awu with
      queue := s.awu.queue.tail, running := some ⟨v.demo, d.train, v.panel, v.button, d.limit * 10⟩ } } := by
    refine putAwu_inner _ _ rfl rfl rfl fun h => ⟨?_, ?_, ?_⟩
    · have := h.few; simp [q] at this ⊢; omega
    · have := h.once; simp [q] at this ⊢; exact this.2
    · intro r hr x hx
      have := h.once
      simp only [Option.some.injEq] at hr
      subst hr
      simp [q] at this hx ⊢
      exact fun e => this.1 x hx e
  split
  · exact base.trans (requestGrade_rail _ _ _).toInner
  · exact base

theorem attemptStart_inner (s : State) : Inner s s.attemptStart := by
  unfold State.attemptStart
  split
  · exact .refl s
  · split
    · exact .refl s
    · next v l q =>
      split
      · exact .refl s
      · next d _ =>
        split
        · exact .refl s
        · split
          · exact .refl s
          · split
            · have base := demoRequest_rail s d
              dsimp only
              refine Inner.ite (base.toInner.trans (startDemo_inner _ v l d _ ?_)) (.refl s)
              rw [base.awu, q]
            · exact .refl s

theorem turnEnded_inner (s : State) (e : TurnEnd) : Inner s (s.turnEnded e) := by
  unfold State.turnEnded
  dsimp only
  exact Inner.trans (Inner.ite (endDemo_inner _ _) (.refl s)) (wantAttempt_rail _).toInner

theorem demoBusy_false {s : State} {demo : Nat} (h : s.demoBusy demo = false) :
    (∀ v ∈ s.awu.queue, v.demo ≠ demo) ∧ ∀ r, s.awu.running = some r → r.demo ≠ demo := by
  unfold State.demoBusy at h
  simp only [Bool.or_eq_false_iff, decide_eq_false_iff_not] at h
  refine ⟨fun v hv e => ?_, fun r hr e => h.2 (by simp [hr, e])⟩
  have := List.any_eq_false.1 h.1 v hv
  simp [e] at this

/-- R148: an admission keeps the law of the visitor queue. -/
theorem admitDemo_inner (s : State) (v : Visitor) (h : s.demoBusy v.demo = false) : Inner s (s.admitDemo v) := by
  obtain ⟨away, idle⟩ := demoBusy_false h
  unfold State.admitDemo
  dsimp only
  have sub : ∀ l : List Visitor, l.Sublist s.awu.queue → l.length < 8 →
      Inner s { s with awu := { s.awu with queue := l ++ [v] } } := by
    intro l w k
    refine putAwu_inner _ _ rfl rfl rfl fun h => ⟨?_, ?_, ?_⟩
    · simp; omega
    · simp only [List.map_append, List.map_cons, List.map_nil]
      rw [List.nodup_append]
      refine ⟨h.once.sublist (w.map _), by simp, ?_⟩
      rintro x hx y hy rfl
      obtain ⟨z, hz, rfl⟩ := List.mem_map.1 hx
      simp at hy
      exact away z (w.subset hz) hy
    · intro r hr x hx
      simp only [List.mem_append, List.mem_singleton] at hx
      rcases hx with hx | rfl
      · exact h.running r hr x (w.subset hx)
      · exact (idle r hr).symm
  have base : Inner s { s with awu := { s.awu with queue :=
      (if decide (Config.visitorEntries ≤ s.awu.queue.length) = true then s.awu.queue.tail else s.awu.queue) ++ [v] } } := by
    by_cases k : Config.visitorEntries ≤ s.awu.queue.length
    · by_cases few : s.awu.queue.length ≤ 8
      · simp only [k, decide_true, if_true]
        exact sub _ (List.tail_sublist _) (by simp [Config.visitorEntries] at k ⊢; omega)
      · exact putAwu_inner _ _ rfl rfl rfl fun h => absurd h.few few
    · simp only [k, decide_false, Bool.false_eq_true, if_false]
      exact sub _ (List.Sublist.refl _) (by simp [Config.visitorEntries] at k; omega)
  exact Inner.ite (base.trans (wantAttempt_rail _).toInner) base

theorem press_inner (s : State) (p b : Nat) (r : ButtonRec) : Inner s (s.press p b r) := by
  unfold State.press
  split
  · exact .refl s
  · next h =>
    split
    · exact .refl s
    · simp only [Bool.or_eq_true, not_or, Bool.not_eq_true] at h
      exact admitDemo_inner _ _ h.1.2

theorem dropVisitors_inner (s : State) (l : List Visitor) (w : l.Sublist s.awu.queue) :
    Inner s { s with awu := { s.awu with queue := l } } :=
  putAwu_inner _ _ rfl rfl rfl fun h =>
    ⟨w.length_le.trans h.few, h.once.sublist (w.map _), fun r hr v hv => h.running r hr v (w.subset hv)⟩

theorem emptyVisitors_inner (s : State) : Inner s s.emptyVisitors := dropVisitors_inner s [] (List.nil_sublist _)

/-! ### Hand-offs -/

theorem awuTakes_inner (s : State) : Inner s s.awuTakes := by
  unfold State.awuTakes
  split
  · exact (putDue_rail s _).toInner.trans (turnEnded_inner _ _)
  · exact (putDue_rail s _).toInner.trans (attemptStart_inner _)

theorem iuTakes_inner (s : State) : Inner s s.iuTakes := by
  unfold State.iuTakes
  dsimp only
  exact Inner.ite ((putDue_rail s _).toInner.trans (retryScan_rail _).toInner) (putDue_rail s _).toInner

theorem tcTakes_inner (s : State) : Inner s s.tcTakes := ((putDue_rail s _).trans (arbitrate_rail _)).toInner

theorem settle_inner (n : Nat) (s : State) : Inner s (settle n s) := by
  induction n generalizing s with
  | zero => exact .refl s
  | succ n ih =>
    unfold settle
    split
    · exact (iuTakes_inner s).trans (ih _)
    · split
      · exact (awuTakes_inner s).trans (ih _)
      · split
        · exact (tcTakes_inner s).trans (ih _)
        · exact .refl s

theorem handOn_inner (s : State) : Inner s s.handOn := settle_inner _ _

/-! ### Speeds, aspects, lamps and the port -/

theorem joinUrgent_rail (s : State) (k : Nat) : Rail s (s.joinUrgent k) := by
  unfold State.joinUrgent
  exact Rail.ite (.refl s) (putSs_rail s _)

/-- R121: a granted grade written over a record that the train holds. -/
theorem grant_rail (s : State) (k g : Nat) (x : Train) (h : s.train? k = some x) : Rail s (s.grant k x g) := by
  unfold State.grant
  have base := (putTrain_rail s k { x with granted := g } x h (by rfl)).trans (joinUrgent_rail _ k)
  exact Rail.ite (base.trans (wantArbitrate_rail _)) base

theorem recompute_rail (s : State) (k : Nat) : Rail s (s.recompute k) := by
  unfold State.recompute
  split
  · exact .refl s
  · next x h =>
    dsimp only
    refine Rail.ite ?_ (putSpeed_rail _ _ _)
    exact (putSpeed_rail _ _ _).trans (grant_rail _ _ _ _ h)

theorem recomputeAll_rail (s : State) : Rail s s.recomputeAll := Rail.foldl recompute_rail _ s

theorem ramp_rail (s : State) (k : Nat) : Rail s (s.ramp k) := by
  unfold State.ramp
  split
  · exact .refl s
  · next x h =>
    dsimp only
    refine Rail.ite ?_ (.refl s)
    exact (putSpeed_rail _ _ _).trans (grant_rail _ _ _ _ h)

theorem rampAll_rail (s : State) : Rail s s.rampAll := Rail.foldl ramp_rail _ s

theorem settleSpeeds_inner (n : Nat) (s : State) : Inner s (settleSpeeds n s) := by
  induction n generalizing s with
  | zero => exact .refl s
  | succ n ih =>
    unfold settleSpeeds
    dsimp only
    have base := (handOn_inner s).trans (recomputeAll_rail _).toInner
    exact Inner.ite base (base.trans (ih _))

theorem putD_wf {α : Type} [DecidableEq α] (d : α) (t : Tab α) (k : Nat) (x : α) (h : t.Wf) : (Tab.putD d t k x).Wf := by
  unfold Tab.putD
  split
  · exact Tab.erase_wf _ _ h
  · exact Tab.put_wf _ _ _ h

theorem setOut?_rail (s : State) (b : Option Nat) (v : Bool) : Rail s (s.setOut? b v) := by
  unfold State.setOut?
  split
  · exact .refl s
  · exact setOut_rail _ _ _

theorem showAspect_rail (s : State) (k : Nat) (g : SignalRec) (a : Aspect) : Rail s (s.showAspect k g a) := by
  unfold State.showAspect
  dsimp only
  refine Rail.trans ?_ (setOut?_rail _ _ _)
  refine Rail.trans ?_ (setOut?_rail _ _ _)
  refine Rail.trans ?_ (setOut?_rail _ _ _)
  refine Rail.trans ?_ (setOut?_rail _ _ _)
  refine Rail.trans ?_ (setOut_rail _ _ _)
  exact { Rail.refl s with
    signals := putD_wf _ _ _ _
    routes := RouteLaw.congr rfl rfl rfl id
    turns := TurnLaw.congr rfl rfl id
    visitors := VisitorLaw.congr rfl rfl }

theorem refreshAspects_rail (s : State) : Rail s s.refreshAspects :=
  Rail.foldl (fun s (g : Nat × SignalRec) => Rail.ite (.refl s) (showAspect_rail s g.1 g.2 _)) _ s

theorem stopSignals_rail (s : State) : Rail s s.stopSignals :=
  Rail.foldl (fun s (g : Nat × SignalRec) => showAspect_rail s g.1 g.2 _) _ s

theorem showLamp_inner (s : State) (k : Nat) (b : ButtonRec) (l : Lamp) : Inner s (s.showLamp k b l) :=
  (putAwu_fields s _ (by rfl) (by rfl) (by rfl) (by rfl) (by rfl)).trans (setOut_rail _ _ _).toInner

theorem refreshLamps_inner (s : State) : Inner s s.refreshLamps :=
  Inner.foldl (fun s (b : Nat × ButtonRec) => Inner.ite (.refl s) (showLamp_inner s b.1 b.2 _)) _ s

theorem flashLamps_rail (s : State) : Rail s s.flashLamps :=
  Rail.foldl (fun s _ => Rail.ite (setOut_rail _ _ _) (.refl s)) _ s

theorem startOrder_rail (s : State) (k : Nat) (r : Bool) : Rail s (s.startOrder k r) := by
  unfold State.startOrder
  split <;> exact putSs_rail s _

theorem kickPort_rail (s : State) : Rail s s.kickPort := by
  unfold State.kickPort
  split
  · exact .refl s
  · split
    · exact putSs_rail s _
    · split
      · exact startOrder_rail _ _ _
      · split
        · exact startOrder_rail _ _ _
        · exact .refl s

theorem closePort_rail (before : List Nat) (s : State) : Rail s (s.closePort before) :=
  (putSs_rail s _).trans (kickPort_rail _)

/-- What the end of a command's event leaves alone, whatever it hands on. -/
theorem finish_inner (s : State) (before : List Nat) : Inner s (s.finish before) :=
  (((settleSpeeds_inner _ s).trans (refreshAspects_rail _).toInner).trans (refreshLamps_inner _)).trans
    (closePort_rail before _).toInner

end Sys2Proof.Machine
end

