-- ==== Sys2Proof/Laws/Quiet.lean ====
section
/-! SUPPORT. What the end of an event still changes where nothing is handed on: `finish_followUp` for a quiet machine, and
`finish_followUp_idle` for one in SETUP or STOP. -/
namespace Sys2Proof.Machine

theorem FollowUp.refl (s : State) : FollowUp s s :=
  ⟨rfl, rfl, rfl, rfl, rfl, rfl, rfl, rfl, rfl, rfl, rfl, rfl, fun _ x h => ⟨x.granted, Nat.le_refl _, h⟩, fun _ => id⟩

theorem FollowUp.trans {s t u : State} (h : FollowUp s t) (k : FollowUp t u) : FollowUp s u where
  pm := k.pm.trans h.pm
  mc := k.mc.trans h.mc
  tc := k.tc.trans h.tc
  clp := k.clp.trans h.clp
  pending := k.pending.trans h.pending
  order := k.order.trans h.order
  linkOut := k.linkOut.trans h.linkOut
  freeCount := k.freeCount.trans h.freeCount
  fs := by rw [k.fs, h.fs]
  tr := by rw [k.tr, h.tr]
  iu := by rw [k.iu, h.iu]
  awu := by rw [k.awu, h.awu]
  present := fun i x hx => by
    obtain ⟨g, hg, hy⟩ := h.present i x hx
    obtain ⟨g', hg', hz⟩ := k.present i _ hy
    exact ⟨g', hg'.trans hg, hz⟩
  absent := fun i hx => k.absent i (h.absent i hx)

theorem FollowUp.foldl {α : Type} {f : State → α → State} (h : ∀ s x, FollowUp s (f s x)) (l : List α) (s : State) :
    FollowUp s (l.foldl f s) := by
  induction l generalizing s with
  | nil => exact .refl s
  | cons x l ih => exact (h s x).trans (ih _)

theorem FollowUp.ite {s t u : State} {c : Prop} [Decidable c] (h : FollowUp s t) (k : FollowUp s u) :
    FollowUp s (if c then t else u) := by
  split
  · exact h
  · exact k

/-- An update of output bits, signals, lamps, hand-offs and the Speed Supervisor. -/
theorem FollowUp.of_fields {s t : State} (pm : t.pm = s.pm) (mc : t.mc = s.mc) (tc : t.tc = s.tc) (clp : t.clp = s.clp)
    (pending : t.pending = s.pending) (order : t.order = s.order) (linkOut : t.linkOut = s.linkOut)
    (freeCount : t.freeCount = s.freeCount) (fs : t.fs = { s.fs with image := t.fs.image }) (tr : t.tr = s.tr)
    (iu : t.iu = { s.iu with signals := t.iu.signals }) (awu : t.awu = { s.awu with lamps := t.awu.lamps }) :
    FollowUp s t where
  pm := pm
  mc := mc
  tc := tc
  clp := clp
  pending := pending
  order := order
  linkOut := linkOut
  freeCount := freeCount
  fs := fs
  tr := by rw [tr]
  iu := iu
  awu := awu
  present := fun i x hx => ⟨x.granted, Nat.le_refl _, by simpa only [State.train?, tr] using hx⟩
  absent := fun i hx => by simpa only [State.train?, tr] using hx

theorem setOut_followUp (s : State) (b : Nat) (v : Bool) : FollowUp s (s.setOut b v) := by
  apply FollowUp.of_fields <;> rfl
theorem putDue_followUp (s : State) (d : Due) : FollowUp s { s with due := d } := by apply FollowUp.of_fields <;> rfl
theorem putSs_followUp (s : State) (x : SS) : FollowUp s { s with ss := x } := by apply FollowUp.of_fields <;> rfl
theorem putSpeed_followUp (s : State) (k : Nat) (r : SpeedRec) : FollowUp s (s.putSpeed k r) := by
  apply FollowUp.of_fields <;> rfl

/-- A granted grade brought down. -/
theorem putGrade_followUp (s : State) (k g : Nat) (x : Train) (h : s.train? k = some x) (fall : g ≤ x.granted) :
    FollowUp s (s.putTrain k { x with granted := g }) :=
  { FollowUp.refl s with
    tr := rfl
    present := fun i y hy => by
      by_cases e : i = k
      · subst e
        rw [h] at hy
        simp only [Option.some.injEq] at hy
        subst hy
        exact ⟨g, fall, by rw [putTrain_train?]; simp⟩
      · exact ⟨y.granted, Nat.le_refl _, by rw [putTrain_train?]; simp [e, hy]⟩
    absent := fun i hx => by
      rw [putTrain_train?]
      by_cases e : i = k
      · subst e; rw [h] at hx; contradiction
      · simp [e, hx] }

theorem joinUrgent_followUp (s : State) (k : Nat) : FollowUp s (s.joinUrgent k) :=
  FollowUp.ite (.refl s) (putSs_followUp s _)

theorem grant_followUp (s : State) (k g : Nat) (x : Train) (h : s.train? k = some x) (fall : g ≤ x.granted) :
    FollowUp s (s.grant k x g) := by
  unfold State.grant
  have base := (putGrade_followUp s k g x h fall).trans (joinUrgent_followUp _ k)
  exact FollowUp.ite (base.trans (putDue_followUp _ _)) base

theorem recompute_followUp (s : State) (k : Nat) : FollowUp s (s.recompute k) := by
  unfold State.recompute
  split
  · exact .refl s
  · next x h =>
    dsimp only
    split
    · next f => exact (putSpeed_followUp _ _ _).trans (grant_followUp _ _ _ _ h (by simp at f; omega))
    · exact putSpeed_followUp _ _ _

theorem recomputeAll_followUp (s : State) : FollowUp s s.recomputeAll := FollowUp.foldl recompute_followUp _ s

theorem setOut?_followUp (s : State) (b : Option Nat) (v : Bool) : FollowUp s (s.setOut? b v) := by
  unfold State.setOut?
  split
  · exact .refl s
  · exact setOut_followUp _ _ _

theorem showAspect_followUp (s : State) (k : Nat) (g : SignalRec) (a : Aspect) : FollowUp s (s.showAspect k g a) := by
  unfold State.showAspect
  dsimp only
  refine FollowUp.trans ?_ (setOut?_followUp _ _ _)
  refine FollowUp.trans ?_ (setOut?_followUp _ _ _)
  refine FollowUp.trans ?_ (setOut?_followUp _ _ _)
  refine FollowUp.trans ?_ (setOut?_followUp _ _ _)
  refine FollowUp.trans ?_ (setOut_followUp _ _ _)
  apply FollowUp.of_fields <;> rfl

theorem refreshAspects_followUp (s : State) : FollowUp s s.refreshAspects :=
  FollowUp.foldl (fun s (g : Nat × SignalRec) => FollowUp.ite (.refl s) (showAspect_followUp s g.1 g.2 _)) _ s

theorem stopSignals_followUp (s : State) : FollowUp s s.stopSignals :=
  FollowUp.foldl (fun s (g : Nat × SignalRec) => showAspect_followUp s g.1 g.2 _) _ s

theorem showLamp_followUp (s : State) (k : Nat) (b : ButtonRec) (l : Lamp) : FollowUp s (s.showLamp k b l) := by
  apply FollowUp.of_fields <;> rfl

theorem refreshLamps_followUp (s : State) : FollowUp s s.refreshLamps :=
  FollowUp.foldl (fun s (b : Nat × ButtonRec) => FollowUp.ite (.refl s) (showLamp_followUp s b.1 b.2 _)) _ s

theorem startOrder_followUp (s : State) (k : Nat) (r : Bool) : FollowUp s (s.startOrder k r) := by
  unfold State.startOrder
  split <;> exact putSs_followUp s _

theorem kickPort_followUp (s : State) : FollowUp s s.kickPort := by
  unfold State.kickPort
  split
  · exact .refl s
  · split
    · exact putSs_followUp s _
    · split
      · exact startOrder_followUp _ _ _
      · split
        · exact startOrder_followUp _ _ _
        · exact .refl s

theorem closePort_followUp (before : List Nat) (s : State) : FollowUp s (s.closePort before) :=
  (putSs_followUp s _).trans (kickPort_followUp _)

/-- R124: the trains of the urgent list are the same, in their order. -/
theorem orderJoins_mem (before : List Nat) (s : State) (k : Nat) :
    k ∈ (s.orderJoins before).ss.urgent ↔ k ∈ s.ss.urgent := by
  by_cases h : k ∈ before <;> simp [State.orderJoins, h]

/-- R124: the trains that joined in the event stand in ascending slot order. -/
theorem orderJoins_sorted (before : List Nat) (s : State) :
    ∃ old joined, (s.orderJoins before).ss.urgent = old ++ joined ∧ old.Sublist s.ss.urgent ∧
      (∀ k ∈ old, k ∈ before) ∧ joined.Pairwise (· ≤ ·) :=
  ⟨_, _, rfl, List.filter_sublist, fun k h => by simpa using (List.mem_filter.1 h).2, List.pairwise_insertionSort _ _⟩

/-! ### Hand-offs that find nothing to do -/

theorem arbitrate_idle (s : State) (h : s.turnIdle) : s.arbitrate = s := by
  unfold State.arbitrate
  rcases h with h | ⟨q, b, e⟩
  · unfold arbitrateLoop
    simp [h]
  · unfold arbitrateLoop
    split
    · rfl
    · have best : s.bestTurn = none := by simp [State.bestTurn, q]
      have same : ∀ x : TC, x.burst = none → x.stopEnd = false →
          ({ x with burst := none, stopEnd := false } : TC) = x := by rintro ⟨⟩; simp_all
      simp only [b, best]
      exact congrArg s.setTc (same s.tc b e)

theorem attemptStart_idle (s : State) (h : s.attemptIdle) : s.attemptStart = s := by
  unfold State.attemptStart
  rcases h with h | h | h
  · simp [h]
  · have : s.awu.running.isSome = true := Option.isSome_iff_ne_none.mpr h
    simp [this]
  · simp [h]

theorem retryScan_idle (s : State) (h : s.iu.stack = []) : s.retryScan = s := by simp [State.retryScan, h, retryLoop]

/-- What is left to hand on finds nothing to do. -/
structure State.Settled (s : State) : Prop where
  ends : ∀ e ∈ s.due.turnEnds, e.completed = false
  endsIdle : s.due.turnEnds ≠ [] → s.attemptIdle
  scan : s.due.scan = true → s.scanIdle
  attempt : s.due.attempt = true → s.attemptIdle
  turn : s.turnIdle ∨ (s.due.arbitrate = false ∧ s.tc.queue = [])

theorem FollowUp.idle {s t : State} (h : FollowUp s t) :
    (s.scanIdle → t.scanIdle) ∧ (s.attemptIdle → t.attemptIdle) ∧ (s.turnIdle → t.turnIdle) := by
  have iu : t.iu.stack = s.iu.stack := by rw [h.iu]
  have q : t.awu.queue = s.awu.queue := by rw [h.awu]
  have r : t.awu.running = s.awu.running := by rw [h.awu]
  refine ⟨fun i => ?_, fun i => ?_, fun i => ?_⟩
  · unfold State.scanIdle State.working at *; rw [h.mc, iu]; exact i
  · unfold State.attemptIdle at *; rw [h.mc, q, r]; exact i
  · unfold State.turnIdle State.free State.working at *; rw [h.mc, h.tc]; exact i

/-- With other hand-offs marked, what finds nothing to do still finds nothing to do. -/
theorem State.Settled.settle (n : Nat) (s : State) (h : s.Settled) : FollowUp s (settle n s) ∧ (Machine.settle n s).Settled := by
  induction n generalizing s with
  | zero => exact ⟨.refl s, h⟩
  | succ n ih =>
    unfold Machine.settle
    split
    · next c =>
      have e : s.iuTakes = { s with due := { s.due with scan := false } } := by
        unfold State.iuTakes
        rcases h.scan c with w | w
        · have : ({ s with due := { s.due with scan := false } } : State).working = false := w
          simp [this]
        · have : ({ s with due := { s.due with scan := false } } : State).iu.stack = [] := w
          simp [retryScan_idle _ this]
      have k : State.Settled { s with due := { s.due with scan := false } } :=
        ⟨h.ends, h.endsIdle, fun x => absurd x (by simp), h.attempt, h.turn⟩
      obtain ⟨a, b⟩ := ih _ k
      rw [e]; exact ⟨(putDue_followUp s _).trans a, b⟩
    · split
      · next f =>
        rcases he : s.due.turnEnds with _ | ⟨e, rest⟩
        · have c : s.due.attempt = true := by
            have g := (Bool.and_eq_true_iff.mp f).1
            simpa [Due.forAwu, he] using g
          have eq : s.awuTakes = { s with due := { s.due with attempt := false } } := by
            unfold State.awuTakes
            rw [he]
            exact attemptStart_idle _ (h.attempt c)
          obtain ⟨a, b⟩ := ih { s with due := { s.due with attempt := false } }
            ⟨h.ends, h.endsIdle, h.scan, fun x => absurd x (by simp), h.turn⟩
          rw [eq]; exact ⟨(putDue_followUp s _).trans a, b⟩
        · have no : e.completed = false := h.ends e (by simp [he])
          have eq : s.awuTakes = { s with due := { s.due with turnEnds := rest, attempt := true } } := by
            unfold State.awuTakes
            rw [he]
            simp [State.turnEnded, no, State.wantAttempt]
          obtain ⟨a, b⟩ := ih { s with due := { s.due with turnEnds := rest, attempt := true } }
            ⟨fun x hx => h.ends x (by simp [he, show x ∈ rest from hx]), fun _ => h.endsIdle (by simp [he]), h.scan,
              fun _ => h.endsIdle (by simp [he]), h.turn⟩
          rw [eq]; exact ⟨(putDue_followUp s _).trans a, b⟩
      · split
        · next c =>
          have w : s.turnIdle := by
            rcases h.turn with w | ⟨w, _⟩
            · exact w
            · rw [w] at c; contradiction
          have k : State.Settled ({ s with due := { s.due with arbitrate := false } }) :=
            ⟨h.ends, h.endsIdle, h.scan, h.attempt, .inl w⟩
          obtain ⟨a, b⟩ := ih _ k
          have eq : s.tcTakes = { s with due := { s.due with arbitrate := false } } := arbitrate_idle _ w
          rw [eq]
          exact ⟨(putDue_followUp s _).trans a, b⟩
        · exact ⟨.refl s, h⟩

/-- A changed grade is handed to the TC only while a turn request stands in its queue. -/
theorem grant_due (s : State) (k g : Nat) (x : Train) :
    (s.grant k x g).due = s.due ∨ ((s.grant k x g).due = { s.due with arbitrate := true } ∧ s.tc.queue ≠ []) := by
  have d : ∀ u : State, (u.joinUrgent k).due = u.due ∧ (u.joinUrgent k).tc = u.tc := by
    intro u
    unfold State.joinUrgent
    split <;> exact ⟨rfl, rfl⟩
  obtain ⟨a, b⟩ := d (s.putTrain k { x with granted := g })
  unfold State.grant
  dsimp only
  split
  · next c =>
    refine .inr ⟨?_, fun e => ?_⟩
    · rw [show ∀ u : State, u.wantArbitrate.due = { u.due with arbitrate := true } from fun _ => rfl, a]; rfl
    · rw [b] at c
      simp [e] at c
  · exact .inl a

theorem State.Settled.recompute (s : State) (k : Nat) (h : s.Settled) : (s.recompute k).Settled := by
  have f := recompute_followUp s k
  obtain ⟨i1, i2, i3⟩ := f.idle
  have d : (s.recompute k).due = s.due ∨
      (s.recompute k).due = { s.due with arbitrate := true } ∧ s.tc.queue ≠ [] := by
    unfold State.recompute
    split
    · exact .inl rfl
    · dsimp only
      split
      · exact grant_due (s.putSpeed k _) k _ _
      · exact .inl rfl
  rcases d with d | ⟨d, q⟩
  · refine ⟨by rw [d]; exact h.ends, by rw [d]; exact fun x => i2 (h.endsIdle x), by rw [d]; exact fun x => i1 (h.scan x),
      by rw [d]; exact fun x => i2 (h.attempt x), ?_⟩
    rw [d, f.tc]
    exact h.turn.imp i3 id
  · have w : s.turnIdle := by
      rcases h.turn with w | ⟨_, w⟩
      · exact w
      · exact absurd w q
    refine ⟨by rw [d]; exact h.ends, by rw [d]; exact fun x => i2 (h.endsIdle x), by rw [d]; exact fun x => i1 (h.scan x),
      by rw [d]; exact fun x => i2 (h.attempt x), .inl (i3 w)⟩

theorem State.Settled.recomputeAll (s : State) (h : s.Settled) : s.recomputeAll.Settled := by
  have key : ∀ (l : List Nat) (u : State), u.Settled → (l.foldl State.recompute u).Settled := by
    intro l
    induction l with
    | nil => exact fun _ h => h
    | cons k l ih => exact fun u hu => ih _ (hu.recompute u k)
  exact key _ s h

theorem State.Settled.settleSpeeds (n : Nat) (s : State) (h : s.Settled) : FollowUp s (settleSpeeds n s) := by
  induction n generalizing s with
  | zero => exact .refl s
  | succ n ih =>
    unfold Machine.settleSpeeds
    dsimp only
    obtain ⟨a, b⟩ := h.settle Config.handoffBound s
    have base := a.trans (recomputeAll_followUp _)
    exact FollowUp.ite base (base.trans (ih _ (State.Settled.recomputeAll _ b)))

/-- What the end of an event may still change where its hand-offs find nothing to do. -/
theorem State.Settled.finish {s : State} (h : s.Settled) (before : List Nat) : FollowUp s (s.finish before) :=
  (((h.settleSpeeds _ s).trans (refreshAspects_followUp _)).trans (refreshLamps_followUp _)).trans
    (closePort_followUp before _)

theorem settled_due {d : Due} (h : d.settled = true) :
    d.scan = false ∧ d.attempt = false ∧ d.turnEnds = [] ∧ d.arbitrate = false := by
  simp [Due.settled, Due.forAwu] at h
  tauto

theorem State.Quiet.settled {s : State} (h : s.Quiet) : s.Settled := by
  obtain ⟨a, b, c, d⟩ := settled_due h.1
  exact ⟨by simp [c], fun x => absurd c x, by simp [a], by simp [b], h.2.imp id fun q => ⟨d, q⟩⟩

/-- What the end of a quiet event may still change. -/
theorem finish_followUp (s : State) (h : s.Quiet) (before : List Nat) : FollowUp s (s.finish before) :=
  h.settled.finish before

/-- A still machine stays settled whatever is marked, as long as no served request has ended. -/
theorem State.Still.settled {s : State} (h : s.Still) (d : Due) (e : d.turnEnds = []) :
    ({ s with due := d } : State).Settled :=
  ⟨by simp [e], fun x => absurd e x, fun _ => h.2.1, fun _ => h.2.2.1, .inl h.2.2.2⟩

/-- What the end of an event may still change in SETUP and STOP. -/
theorem finish_followUp_idle (s : State) (h : s.working = false) (k : s.due.turnEnds = []) (before : List Nat) :
    FollowUp s (s.finish before) :=
  State.Settled.finish (before := before) ⟨by simp [k], fun x => absurd k x, fun _ => .inl h,
    fun _ => .inl (fun e => by simp [State.working, e] at h), .inl (.inl (by simp [State.free, h]))⟩

end Sys2Proof.Machine
end

