-- ==== Sys2Proof/Laws/Aspects.lean ====
section
/-! SUPPORT. What the aspects and the targets are computed from, and what the recomputation at the end of an event comes to:
`finish_shown` for aspects and `finish_below` for grades. -/
namespace Sys2Proof.Machine

/-- A view of the state that no step of a fold changes stands after the fold. -/
theorem foldl_keeps {α β : Type} {f : State → α → State} (view : State → β) (h : ∀ s x, view (f s x) = view s)
    (l : List α) (s : State) : view (l.foldl f s) = view s := by
  induction l generalizing s with
  | nil => rfl
  | cons x l ih => exact (ih _).trans (h s x)

/-! ### Tables rewritten in place -/

theorem rowsPut_map {α β : Type} (f : α → β) (l : List (Nat × α)) (k : Nat) (x y : α) (h : rowsGet l k = some y)
    (e : f x = f y) (w : (l.map Prod.fst).Pairwise (· < ·)) :
    (rowsPut l k x).map (fun r => (r.1, f r.2)) = l.map (fun r => (r.1, f r.2)) := by
  induction l with
  | nil => simp [rowsGet] at h
  | cons r l ih =>
    obtain ⟨i, z⟩ := r
    simp only [List.map_cons, List.pairwise_cons] at w
    unfold rowsGet at h
    unfold rowsPut
    by_cases hi : i = k
    · subst hi
      simp only [if_true, Option.some.injEq] at h
      subst h
      simp [e]
    · simp only [hi, if_false] at h
      have lt : i < k := w.1 k (List.mem_map.2 ⟨(k, y), rowsGet_mem _ _ _ h, rfl⟩)
      have : ¬ k < i := by omega
      simp [this, hi, ih h w.2]

/-- The spans of the register, by slot. -/
def State.spans (s : State) : List (Nat × List Nat) := s.tr.trains.rows.map (fun r => (r.1, r.2.span))

theorem spanOf_eq (s : State) (x : Nat) : s.spanOf x = (s.spans.find? (fun r => r.2.contains x)).map Prod.fst := by
  unfold State.spanOf State.spans
  rw [List.find?_map, Option.map_map]
  rfl

theorem spanOf_congr {s t : State} (h : t.spans = s.spans) : t.spanOf = s.spanOf := by
  funext x; rw [spanOf_eq, spanOf_eq, h]

theorem putTrain_spans (s : State) (k : Nat) (x y : Train) (h : s.train? k = some y) (e : x.span = y.span)
    (w : s.tr.trains.Wf) : (s.putTrain k x).spans = s.spans := rowsPut_map Train.span _ k x y h e w

/-! ### What an aspect is computed from -/

/-- The parts of the state that aspects are computed from are the same. -/
structure SameTrack (s t : State) : Prop where
  pm : t.pm.plan = s.pm.plan
  mode : t.mc.mode = s.mc.mode
  occupied : t.occupied = s.occupied
  routes : t.iu.routes = s.iu.routes
  points : ∀ p, (t.point p).state = (s.point p).state
  stray : t.tr.stray = s.tr.stray
  spans : t.spanOf = s.spanOf

theorem SameTrack.meets {s t : State} (h : SameTrack s t) : t.meets = s.meets ∧ t.meetsBarMode = s.meetsBarMode := by
  have bar : t.meetsBarMode = s.meetsBarMode := by
    funext r
    simp only [State.meetsBarMode, State.routeRec, State.plan, h.pm, h.points, h.occupied, State.inSpan, h.spans,
      State.stray, h.stray]
  refine ⟨?_, bar⟩
  funext r
  simp only [State.meets, State.working, h.mode, bar]

theorem SameTrack.active {s t : State} (h : SameTrack s t) :
    t.activeAt = s.activeAt ∧ t.route? = s.route? ∧ t.routeRec = s.routeRec ∧ t.beyond = s.beyond := by
  have r : t.routeRec = s.routeRec := by funext x; simp only [State.routeRec, State.plan, h.pm]
  have q : t.route? = s.route? := by funext x; simp only [State.route?, h.routes]
  have a : t.activeAt = s.activeAt := by funext x; simp only [State.activeAt, h.routes, r]
  exact ⟨a, q, r, by funext d; simp only [State.beyond, a]⟩

theorem chainDepth_congr {s t : State} (h : SameTrack s t) (n : Nat) (d : RouteRec) :
    chainDepth t n d = chainDepth s n d := by
  induction n generalizing d with
  | zero => rfl
  | succ n ih =>
    obtain ⟨-, q, r, b⟩ := h.active
    unfold chainDepth
    simp only [b, q, r, h.meets.1, ih]

/-- R93: the aspects are the same where the track is. -/
theorem aspectOf_congr {s t : State} (h : SameTrack s t) : t.aspectOf = s.aspectOf := by
  obtain ⟨a, q, r, -⟩ := h.active
  funext k
  simp only [State.aspectOf, a, q, r, h.meets.1, State.depth, chainDepth_congr h]

theorem SameTrack.refl (s : State) : SameTrack s s := ⟨rfl, rfl, rfl, rfl, fun _ => rfl, rfl, rfl⟩

theorem SameTrack.trans {s t u : State} (h : SameTrack s t) (k : SameTrack t u) : SameTrack s u :=
  ⟨k.pm.trans h.pm, k.mode.trans h.mode, k.occupied.trans h.occupied, k.routes.trans h.routes,
    fun p => (k.points p).trans (h.points p), k.stray.trans h.stray, k.spans.trans h.spans⟩

/-- A follow-up that keeps the spans keeps the track. -/
theorem FollowUp.sameTrack {s t : State} (h : FollowUp s t) (k : t.spanOf = s.spanOf) : SameTrack s t where
  pm := by rw [h.pm]
  mode := by rw [h.mc]
  occupied := by
    funext x
    have f := h.fs
    simp only [State.occupied, State.input, State.plan, h.pm]
    rw [f]
  routes := by rw [h.iu]
  points := fun p => by simp only [State.point]; rw [h.iu]
  stray := by rw [h.tr]
  spans := k

/-- A follow-up that keeps the register keeps the track. -/
theorem FollowUp.sameTrack' {s t : State} (h : FollowUp s t) (k : t.tr = s.tr) : SameTrack s t :=
  h.sameTrack (by funext x; simp only [State.spanOf, k])

/-! ### Aspects at the end of an event -/

theorem setOut?_signals (s : State) (b : Option Nat) (v : Bool) :
    (s.setOut? b v).iu = s.iu ∧ (s.setOut? b v).tr = s.tr := by
  unfold State.setOut?
  split <;> exact ⟨rfl, rfl⟩

theorem showAspect_signals (s : State) (k : Nat) (g : SignalRec) (a : Aspect) :
    (s.showAspect k g a).iu.signals = Tab.putD {} s.iu.signals k ⟨a, lampsFor g.kind a⟩ ∧
      (s.showAspect k g a).tr = s.tr := by
  unfold State.showAspect
  dsimp only
  constructor
  · rw [(setOut?_signals _ _ _).1, (setOut?_signals _ _ _).1, (setOut?_signals _ _ _).1, (setOut?_signals _ _ _).1]
    rfl
  · rw [(setOut?_signals _ _ _).2, (setOut?_signals _ _ _).2, (setOut?_signals _ _ _).2, (setOut?_signals _ _ _).2]
    rfl

/-- One step of the refreshing of aspects. -/
theorem refreshOne (s : State) (k : Nat) (g : SignalRec) (w : s.iu.signals.Wf) :
    let t := if s.aspectOf k = (s.signal k).aspect then s else s.showAspect k g (s.aspectOf k)
    t.iu.signals.Wf ∧ t.tr = s.tr ∧ FollowUp s t ∧ (t.signal k).aspect = s.aspectOf k ∧
      ∀ j, j ≠ k → t.signal j = s.signal j := by
  dsimp only
  split
  · next e => exact ⟨w, rfl, .refl s, e.symm, fun _ _ => rfl⟩
  · obtain ⟨e, r⟩ := showAspect_signals s k g (s.aspectOf k)
    refine ⟨by rw [e]; exact putD_wf _ _ _ _ w, r, showAspect_followUp _ _ _ _, ?_, ?_⟩
    · unfold State.signal
      rw [e, Tab.getD_putD_same _ _ _ _ w]
    · intro j hj
      unfold State.signal
      rw [e, Tab.getD_putD_ne _ _ _ hj]

/-- R95: after the refreshing every signal of the plan shows its aspect. -/
theorem refreshAspects_shown (s : State) (w : s.iu.signals.Wf) :
    s.refreshAspects.iu.signals.Wf ∧ s.refreshAspects.tr = s.tr ∧
      ∀ k g, s.plan.signals.get? k = some g → (s.refreshAspects.signal k).aspect = s.refreshAspects.aspectOf k := by
  have key : ∀ (l : List (Nat × SignalRec)) (u : State), u.iu.signals.Wf →
      let t := l.foldl (fun s g =>
        let a := s.aspectOf g.1
        if a = (s.signal g.1).aspect then s else s.showAspect g.1 g.2 a) u
      t.iu.signals.Wf ∧ t.tr = u.tr ∧ t.aspectOf = u.aspectOf ∧
        ∀ k, ((∃ g, (k, g) ∈ l) ∨ (u.signal k).aspect = u.aspectOf k) → (t.signal k).aspect = u.aspectOf k := by
    intro l
    induction l with
    | nil => exact fun u hu => ⟨hu, rfl, rfl, fun k h => h.elim (fun ⟨_, h⟩ => by simp at h) id⟩
    | cons r l ih =>
      intro u hu
      obtain ⟨a, b, c, d, e⟩ := refreshOne u r.1 r.2 hu
      obtain ⟨a', b', c', d'⟩ := ih _ a
      have same := aspectOf_congr (c.sameTrack' b)
      refine ⟨a', b'.trans b, c'.trans same, fun k hk => ?_⟩
      rw [← same]
      refine d' k ?_
      by_cases hr : k = r.1
      · subst hr; exact .inr (by rw [same]; exact d)
      · refine hk.imp (fun ⟨g, hg⟩ => ⟨g, (List.mem_cons.1 hg).resolve_left fun h => hr (by rw [← h])⟩) fun hk => ?_
        rw [same, e k hr]; exact hk
  obtain ⟨a, b, c, d⟩ := key s.plan.signals.rows s w
  refine ⟨a, b, fun k g hg => ?_⟩
  show (State.signal s.refreshAspects k).aspect = _
  rw [show s.refreshAspects.aspectOf = s.aspectOf from c]
  exact d k (.inl ⟨g, rowsGet_mem _ _ _ hg⟩)

theorem refreshLamps_frame (s : State) : s.refreshLamps.iu = s.iu ∧ s.refreshLamps.tr = s.tr :=
  foldl_keeps (fun s => (s.iu, s.tr)) (fun s b => by dsimp only; split <;> rfl) _ s |> Prod.mk.inj

theorem kickPort_frame (s : State) : s.kickPort.iu = s.iu ∧ s.kickPort.tr = s.tr := by
  unfold State.kickPort State.startOrder
  repeat' split
  all_goals exact ⟨rfl, rfl⟩

theorem closePort_frame (before : List Nat) (s : State) :
    (s.closePort before).iu = s.iu ∧ (s.closePort before).tr = s.tr :=
  ⟨(kickPort_frame _).1, (kickPort_frame _).2⟩

/-- What follows the aspects at the end of an event leaves signals and track alone. -/
theorem afterAspects (s : State) (before : List Nat) :
    (s.refreshLamps.closePort before).iu = s.iu ∧ (s.refreshLamps.closePort before).tr = s.tr ∧
      SameTrack s (s.refreshLamps.closePort before) := by
  have i : (s.refreshLamps.closePort before).iu = s.iu := (closePort_frame before _).1.trans (refreshLamps_frame s).1
  have r : (s.refreshLamps.closePort before).tr = s.tr := (closePort_frame before _).2.trans (refreshLamps_frame s).2
  exact ⟨i, r, ((refreshLamps_followUp s).trans (closePort_followUp before _)).sameTrack' r⟩

/-- R95: at the end of an event every signal of the plan shows its aspect. -/
theorem finish_shown (s : State) (w : s.iu.signals.Wf) (k : Nat) (g : SignalRec)
    (before : List Nat) (h : (s.finish before).plan.signals.get? k = some g) :
    ((s.finish before).signal k).aspect = (s.finish before).aspectOf k := by
  have pm := (finish_inner s before).pm
  unfold State.finish at *
  obtain ⟨i, -, c⟩ := afterAspects (settleSpeeds Config.handoffBound s).refreshAspects before
  have shown := (refreshAspects_shown (settleSpeeds Config.handoffBound s) ((settleSpeeds_inner _ s).signals w)).2.2
  have plan : (settleSpeeds Config.handoffBound s).plan.signals.get? k = some g := by
    simp only [State.plan] at h ⊢
    rw [pm] at h
    rw [(settleSpeeds_inner _ s).pm]
    exact h
  rw [aspectOf_congr c]
  unfold State.signal at *
  rw [i]
  exact shown k g plan

end Sys2Proof.Machine
end

