-- ==== Sys2Proof/Laws/Events.lean ====
section
/-! SUPPORT. What the parts of a change of mode, of a section report, of a scan and of a tick leave alone: one lemma per
operation, `Calm` for those that also leave the scanner, the tick count and the console lines alone, up to `tick_within` and
`completeScan_within`. -/
namespace Sys2Proof.Machine

/-- What tracking, changes of mode and console functions leave alone besides. -/
structure Calm (s t : State) : Prop extends Within s t where
  ticks : t.mc.ticks = s.mc.ticks
  freeCount : t.freeCount = s.freeCount
  fs : t.fs = { s.fs with image := t.fs.image }
  tr : t.tr = { s.tr with trains := t.tr.trains, stray := t.tr.stray }
  line1 : t.awu.line1 = s.awu.line1
  line2 : t.awu.line2 = s.awu.line2
  line3 : t.awu.line3 = s.awu.line3

theorem Calm.refl (s : State) : Calm s s :=
  { Within.refl s with
    ticks := rfl, freeCount := rfl, fs := rfl, tr := rfl, line1 := rfl, line2 := rfl, line3 := rfl }

theorem Calm.trans {s t u : State} (h : Calm s t) (k : Calm t u) : Calm s u :=
  { h.toWithin.trans k.toWithin with
    ticks := k.ticks.trans h.ticks
    freeCount := k.freeCount.trans h.freeCount
    fs := by rw [k.fs, h.fs]
    tr := by rw [k.tr, h.tr]
    line1 := k.line1.trans h.line1
    line2 := k.line2.trans h.line2
    line3 := k.line3.trans h.line3 }

theorem Calm.foldl {α : Type} {f : State → α → State} (h : ∀ s x, Calm s (f s x)) (l : List α) (s : State) :
    Calm s (l.foldl f s) := by
  induction l generalizing s with
  | nil => exact .refl s
  | cons x l ih => exact (h s x).trans (ih _)

theorem Calm.ite {s t u : State} {c : Prop} [Decidable c] (h : Calm s t) (k : Calm s u) : Calm s (if c then t else u) := by
  split
  · exact h
  · exact k

theorem Inner.calm {s t : State} (h : Inner s t) : Calm s t :=
  { h.toWithin with
    ticks := by rw [h.mc], freeCount := h.freeCount, fs := h.fs, tr := by rw [h.tr], line1 := h.line1, line2 := h.line2, line3 := h.line3 }

theorem Rail.calm {s t : State} (h : Rail s t) : Calm s t := h.toInner.calm

/-! ### Updates -/

/-- An update that touches no lawful table, no request in hand and no plan. -/
theorem Within.of_fields {s t : State} (pm : t.pm = s.pm) (pending : t.pending = s.pending) (order : t.order = s.order)
    (linkOut : t.linkOut = s.linkOut) (mode : t.mc.mode = .setup → s.mc.mode = .setup)
    (handles : t.tr.handles = s.tr.handles) (trains : t.tr.trains = s.tr.trains) (iu : t.iu = s.iu)
    (queue : t.tc.queue = s.tc.queue) (visitors : t.awu.queue = s.awu.queue) (running : t.awu.running = s.awu.running)
    (clp : t.clp = s.clp) (modes : ModeLaw s → ModeLaw t) : Within s t where
  pm := pm
  pending := pending
  order := order
  linkOut := linkOut
  setup := mode
  signals := by rw [iu]; exact id
  handles := handles
  holder := by rw [clp]
  dropped := by rw [clp]
  mask := by rw [clp]
  who := fun k => by simp only [State.train?, trains]
  rising := by rw [trains]; exact id
  notices := by rw [clp]; exact id
  routes := RouteLaw.congr (by rw [iu]) (by rw [iu]) (by rw [pm]) mode
  turns := TurnLaw.congr queue (by rw [pm]) mode
  visitors := VisitorLaw.congr visitors running
  modes := modes

theorem putStray_calm (s : State) (x : Nat) (v : Bool) : Calm s (s.putStray x v) :=
  { (by apply Within.of_fields <;> first | rfl | exact id : Within s (s.putStray x v)) with
    ticks := rfl, freeCount := rfl, fs := rfl, tr := rfl, line1 := rfl, line2 := rfl, line3 := rfl }
theorem putFs_within (s : State) (f : FS) : Within s { s with fs := f } := by
  apply Within.of_fields <;> first | rfl | exact id
theorem putKeepAlive_within (s : State) (c : Nat) (k : KeepAlive) : Within s (s.putKeepAlive c k) := by
  apply Within.of_fields <;> first | rfl | exact id
theorem putTicks_within (s : State) (n : Nat) : Within s { s with mc := { s.mc with ticks := n } } := by
  apply Within.of_fields <;> first | rfl | exact id

/-- A train's record rewritten with its number and owner kept. -/
theorem putTrain_calm (s : State) (k : Nat) (x y : Train) (h : s.train? k = some y)
    (e : x.number = y.number ∧ x.owner = y.owner) : Calm s (s.putTrain k x) :=
  { Calm.refl s with
    tr := rfl
    rising := fun w => Tab.put_wf _ _ _ w
    who := fun j => by
      rw [putTrain_train?]
      split
      · subst j; simp [h, e.1, e.2]
      · rfl
    routes := RouteLaw.congr rfl rfl rfl id
    turns := TurnLaw.congr rfl rfl id
    visitors := VisitorLaw.congr rfl rfl }

theorem updTrain_calm (s : State) (k : Nat) (g : Train → Train)
    (h : ∀ x, (g x).number = x.number ∧ (g x).owner = x.owner) : Calm s (s.updTrain k g) := by
  unfold State.updTrain
  split
  · exact .refl s
  · next y e => exact putTrain_calm s k (g y) y e (h y)

theorem wantArbitrate_calm (s : State) : Calm s s.wantArbitrate := (wantArbitrate_rail s).calm
theorem notice_calm (s : State) (c : Cause) (n : Nat) : Calm s (s.notice c n) := (notice_rail s c n).calm
theorem handOn_calm (s : State) : Calm s s.handOn := (handOn_inner s).calm
theorem scanNow_calm (s : State) : Calm s s.scanNow := Calm.ite (iuTakes_inner s).calm (.refl s)
theorem putDue_calm (s : State) (d : Due) : Calm s { s with due := d } := (putDue_rail s d).calm

theorem trainChanged_calm (s : State) (n : Nat) : Calm s (s.trainChanged n) :=
  Calm.ite (wantArbitrate_calm s) (.refl s)

theorem clearStray_calm (s : State) (x : Nat) : Calm s (s.clearStray x) :=
  Calm.ite ((putStray_calm s x false).trans (strayCleared_rail _ _).calm) (.refl s)

/-! ### Section reports -/

theorem leavesSpan_calm (s : State) (x : Nat) : Calm s (s.leavesSpan x) :=
  Calm.ite (wantArbitrate_calm s) (.refl s)

theorem tailDeparture_calm (s : State) (x : Nat) : Calm s (s.tailDeparture x) :=
  ((leavesSpan_calm s x).trans (sectionLeft_rail _ _).calm).trans (scanNow_calm _)

theorem trimSteps_calm (n k : Nat) (s : State) : Calm s (trimSteps n k s) := by
  induction n generalizing s with
  | zero => exact .refl s
  | succ n ih =>
    unfold trimSteps
    split
    · exact .refl s
    · next x h =>
      split
      · split
        · exact .refl s
        · exact ((putTrain_calm s k _ x h ⟨by rfl, by rfl⟩).trans (tailDeparture_calm _ _)).trans (ih _)
      · exact .refl s

theorem trim_calm (s : State) (k : Nat) : Calm s (s.trim k) :=
  (trimSteps_calm _ _ _).trans (testSpan_rail _ _).calm

theorem dropTail_calm (s : State) (k : Nat) : Calm s (s.dropTail k) := by
  unfold State.dropTail
  split
  · exact .refl s
  · next x h =>
    split
    · split
      · exact .refl s
      · dsimp only
        have base : ∀ l, Calm s (s.putTrain k { x with span := l }) :=
          fun l => putTrain_calm s k _ x h ⟨by rfl, by rfl⟩
        exact Calm.ite ((base _).trans (leavesSpan_calm _ _)) ((base _).trans (tailDeparture_calm _ _))
    · exact .refl s

theorem overrun_calm (s : State) (k : Nat) (x : Train) : Calm s (s.overrun k x) :=
  (updTrain_calm _ _ _ fun _ => ⟨by rfl, by rfl⟩).trans (notice_calm _ _ _)

theorem act_calm (s : State) (k id : Nat) (a : Action) : Calm s (s.act k id a) := by
  unfold State.act
  split
  · exact (triggerRoute_rail _ _ _).calm
  · exact (startDwell_inner _ _ _ _).calm
  · exact (requestGrade_rail _ _ _).calm
  · split
    · exact Calm.ite (endDemo_inner _ _).calm (.refl s)
    · exact .refl s
  · exact notice_calm _ _ _

theorem headArrival_calm (s : State) (k x : Nat) : Calm s (s.headArrival k x) := by
  unfold State.headArrival
  split
  · exact .refl s
  · exact putDue_calm s _

theorem takeArrivals_calm (s : State) : Calm s s.takeArrivals :=
  (putDue_calm s _).trans (Calm.foldl (fun _ _ => (act_calm _ _ _ _).trans (handOn_calm _)) _ _)

theorem append_calm (s : State) (k : Nat) (x : Train) (sec : Nat) (d : Dir) (h : s.train? k = some x) :
    Calm s (s.append k x sec d) := by
  unfold State.append
  dsimp only
  refine Calm.trans ?_ (headArrival_calm _ _ _)
  refine Calm.trans ?_ (scanNow_calm _)
  refine Calm.trans ?_ (trim_calm _ _)
  refine Calm.trans ?_ (dropTail_calm _ _)
  have base := (putTrain_calm s k { x with span := x.span ++ [sec], dir := d } x h ⟨by rfl, by rfl⟩).trans
    (clearStray_calm _ sec)
  split
  · exact (Calm.ite (base.trans (wantArbitrate_calm _)) base).trans (headEntry_rail _ _ _ _).calm
  · exact (Calm.ite (base.trans (wantArbitrate_calm _)) base).trans (overrun_calm _ _ _)

theorem recover_calm (s live : State) (k : Nat) (x : Train) (sec : Nat) (h : s.train? k = some x) :
    Calm s (s.recover live k x sec) :=
  Calm.ite ((putTrain_calm s k _ x h ⟨by rfl, by rfl⟩).trans (trainChanged_calm _ _)) (notice_calm _ _ _)

theorem goStray_calm (s : State) (x : Nat) : Calm s (s.goStray x) :=
  Calm.ite (.refl s) ((putStray_calm _ _ _).trans (notice_calm _ _ _))

theorem spanTrain_train? {s : State} {x k : Nat} {t : Train} (h : s.spanTrain x = some (k, t)) :
    s.train? k = some t := by
  unfold State.spanTrain at h
  cases e : s.spanOf x with
  | none => simp [e] at h
  | some j =>
    cases e' : s.train? j with
    | none => simp [e, e'] at h
    | some y =>
      simp only [e, Option.bind_some, e', Option.map_some, Option.some.injEq, Prod.mk.injEq] at h
      obtain ⟨rfl, rfl⟩ := h
      exact e'

theorem attribute_calm (live s : State) (x : Nat) : Calm s (s.attribute live x) := by
  unfold State.attribute
  split
  · next h => exact Calm.ite (recover_calm _ _ _ _ _ (spanTrain_train? h)) (.refl s)
  · split
    · split
      · exact .refl s
      · next h => exact append_calm _ _ _ _ _ h
    · exact goStray_calm _ _

theorem takeOccupied_calm (live s : State) (x : Nat) : Calm s (State.takeOccupied live s x) :=
  (((attribute_calm live s x).trans (scanNow_calm _)).trans (sectionOccupied_rail _ _).calm).trans (scanNow_calm _)

theorem onePass_calm (live : State) (l : List Nat) (s : State) : Calm s (onePass live l s).1 := by
  induction l generalizing s with
  | nil => exact .refl s
  | cons x l ih =>
    unfold onePass
    split
    · exact (takeOccupied_calm live s x).trans (ih _)
    · exact ih s

theorem passes_calm (live : State) (n : Nat) (l : List Nat) (s : State) : Calm s (passes live n l s) := by
  induction n generalizing l s with
  | zero => exact Calm.foldl (takeOccupied_calm live) _ s
  | succ n ih =>
    unfold passes
    dsimp only
    split
    · exact (onePass_calm live l s).trans (ih _ _)
    · exact (onePass_calm live l s).trans (Calm.foldl (takeOccupied_calm live) _ _)

theorem takeClear_calm (s : State) (x : Nat) : Calm s (s.takeClear x) := by
  unfold State.takeClear
  split
  · exact ((clearStray_calm s x).trans (sectionLeft_rail _ _).calm).trans (scanNow_calm _)
  · exact (trim_calm _ _).trans (scanNow_calm _)

theorem trackReport_calm (s : State) (a b : List Nat) : Calm s (s.trackReport a b) :=
  ((putDue_calm s _).trans (passes_calm _ _ _ _)).trans (Calm.foldl takeClear_calm _ _)

theorem takeReport_calm (s : State) (a b : List Nat) : Calm s (s.takeReport a b) :=
  ((Calm.ite (trackReport_calm s a b) ((trackReport_calm s a b).trans (handOn_calm _))).trans
    (takeArrivals_calm _)).trans (handOn_calm _)

theorem markOccupied_calm (s : State) : Calm s s.markOccupied :=
  Calm.foldl (fun s x => Calm.ite (putStray_calm s x true) (.refl s)) _ s

/-! ### Changes of mode -/

theorem modePart_calm (old new : Mode) (s : State) (b : Block) : Calm s (s.modePart old new b) := by
  cases b with
  | tr => exact Calm.ite (markOccupied_calm s) (.refl s)
  | iu => exact Calm.ite (retryScan_rail s).calm (.refl s)
  | ss =>
    exact Calm.ite (putSs_rail s _).calm (Calm.ite (putSs_rail s _).calm (.refl s))
  | tc => exact Calm.ite (tableStops_rail s).calm (Calm.ite (tableResumes_rail s).calm (.refl s))
  | awu =>
    show Calm s (s.modeForAwu old new)
    unfold State.modeForAwu
    split
    · exact (endDemo_inner _ _).calm
    · exact ((endDemo_inner _ _).trans (emptyVisitors_inner _)).calm
    · exact Calm.ite (attemptStart_inner s).calm (.refl s)
    · exact .refl s

/-- R156: a change of mode to any mode but SETUP that remembers as it should. -/
theorem changeMode_calm (s : State) (new : Mode) (r : Option Mode) (h : new ≠ .setup)
    (m : ModeLaw s → (new = .stop → r = some .run ∨ r = some .quiet) ∧ (new ≠ .stop → r = none)) :
    Calm s (s.changeMode new r) := by
  unfold State.changeMode
  dsimp only
  refine Calm.trans ?_ (Calm.foldl (modePart_calm _ _) _ _)
  refine Calm.trans ?_ (notice_calm _ _ _)
  exact { Within.of_fields (s := s) (t := { s with mc := { s.mc with mode := new, remembered := r } })
      rfl rfl rfl rfl (fun e => absurd e h) rfl rfl rfl rfl rfl rfl rfl m with
    ticks := rfl, freeCount := rfl, fs := rfl, tr := rfl, line1 := rfl, line2 := rfl, line3 := rfl }

theorem requestStop_calm (s : State) : Calm s s.requestStop := by
  unfold State.requestStop
  split
  · exact changeMode_calm _ _ _ (by decide) fun _ => by simp
  · exact changeMode_calm _ _ _ (by decide) fun _ => by simp
  · exact .refl s
  · exact .refl s

/-! ### The scan -/

theorem deliver_calm (changed : List Nat) (s : State) (b : Block) : Calm s (s.deliver changed b) := by
  cases b with
  | tr => exact takeReport_calm _ _ _
  | iu => exact Calm.foldl (fun s (r : Nat × PointRec) => (detection_rail s r.1).calm.trans (handOn_calm _)) _ s
  | tc => exact Calm.ite (((sensors_rail _ _ _ _ _).calm.trans (tcTakes_inner _).calm).trans (handOn_calm _)) (.refl s)
  | awu =>
    exact Calm.foldl (fun s (r : Nat × ButtonRec) => (press_inner s _ _ r.2).calm.trans (handOn_calm _)) _ s
  | ss => exact .refl s

theorem useScan_within (s : State) (fdi : List Bool) : Within s (s.useScan fdi) :=
  (putFs_within s _).trans (Calm.foldl (deliver_calm _) _ _).toWithin

theorem enterFault_within (s : State) : Within s s.enterFault :=
  ((putFs_within s _).trans (notice_calm _ _ _).toWithin).trans (requestStop_calm _).toWithin

theorem checkScan_within (s : State) (good : Bool) (fdi : List Bool) : Within s (s.checkScan good fdi) := by
  unfold State.checkScan
  split
  · exact useScan_within _ _
  · exact putFs_within s _
  · exact (putFs_within s _).trans (useScan_within _ _)
  · exact enterFault_within s
  · exact Within.ite (putFs_within s _) (putFs_within s _)
  · exact putFs_within s _

theorem takeLengths_within (s : State) : Within s s.takeLengths :=
  (putFs_within s _).trans
    (Within.foldl (fun s (r : Nat × PointRec) => Within.ite (putPoint_rail s r.1 _).toWithin (.refl s)) _ _)

theorem completeScan_within (s : State) (fdi : List Bool) : Within s (s.completeScan fdi) :=
  ((((putFs_within s _).trans (checkScan_within _ _ _)).trans (takeLengths_within _)).trans
    (finish_inner _ _).toWithin).trans (putFs_within _ _)

/-! ### The tick -/

theorem expireCab_within (s : State) (c : Nat) : Within s (s.expireCab c) :=
  ((Within.foldl (fun s k => (requestGrade_rail s k 0).toWithin) _ s).trans (notice_calm _ _ _).toWithin).trans
    (putKeepAlive_within _ _ _)

theorem keepAliveTick_within (s : State) (c : Nat) : Within s (s.keepAliveTick c) := by
  unfold State.keepAliveTick
  split
  · exact Within.ite (expireCab_within _ _) (putKeepAlive_within _ _ _)
  · exact .refl s

theorem registerTick_within (s : State) : Within s s.registerTick := Within.foldl keepAliveTick_within _ s

theorem pulseTick_rail (s : State) (p : Nat) : Rail s (s.pulseTick p) := by
  unfold State.pulseTick
  split
  · exact .refl s
  · exact Rail.ite (endPulse_rail _ _) (putPoint_rail _ _ _)

theorem throwTick_rail (s : State) (p : Nat) : Rail s (s.throwTick p) := by
  unfold State.throwTick
  split
  · exact .refl s
  · exact Rail.ite (failThrow_rail _ _) (putPoint_rail _ _ _)

theorem approachTick_rail (s : State) (k : Nat) : Rail s (s.approachTick k) := by
  unfold State.approachTick
  split
  · exact .refl s
  · next r e =>
    split
    · exact .refl s
    · exact Rail.ite (approachExpired_rail _ _) (putRoute_rail s k _ r e (by rfl))

theorem interlockingTick_rail (s : State) : Rail s s.interlockingTick :=
  ((Rail.foldl (fun s p => (pulseTick_rail s p).trans (throwTick_rail _ p)) _ s).trans
    (Rail.foldl approachTick_rail _ _)).trans (approachTest_rail _)

theorem asserted_calm (s : State) (code : Nat) : Calm s (s.asserted code) :=
  Calm.ite (requestStop_calm s) (Calm.ite (emptyVisitors_inner s).calm
    (Calm.ite ((endDemo_inner _ _).trans (emptyVisitors_inner _)).calm (.refl s)))

theorem lineActs_calm (s : State) (code : Nat) (a b : ConsoleLine) : Calm s (s.lineActs code a b) :=
  Calm.ite (asserted_calm s code) (.refl s)

theorem consoleTick_within (s : State) (raw : ConsoleLevels) : Within s (s.consoleTick raw) := by
  unfold State.consoleTick
  dsimp only
  refine Within.trans ?_ (handOn_calm _).toWithin
  refine Within.trans ?_ (lineActs_calm _ _ _ _).toWithin
  refine Within.trans ?_ (handOn_calm _).toWithin
  refine Within.trans ?_ (lineActs_calm _ _ _ _).toWithin
  refine Within.trans ?_ (handOn_calm _).toWithin
  refine Within.trans ?_ (lineActs_calm _ _ _ _).toWithin
  apply Within.of_fields <;> first | rfl | exact id

theorem dwellTick_within (s : State) (k : Nat) : Within s (s.dwellTick k) := by
  unfold State.dwellTick
  split
  · exact Within.ite ((endDwell_inner _ _).toWithin.trans (handOn_calm _).toWithin) (putDwell_inner _ _ _).toWithin
  · exact .refl s

theorem demoTick_within (s : State) : Within s s.demoTick := by
  unfold State.demoTick
  split
  · exact .refl s
  · next d e =>
    refine Within.ite ((endDemo_inner _ _).toWithin.trans (handOn_calm _).toWithin) (Inner.toWithin ?_)
    refine putAwu_inner s _ rfl rfl rfl fun h => ⟨h.few, h.once, fun r hr v hv => ?_⟩
    simp only [Option.some.injEq] at hr
    subst hr
    exact h.running d e v hv

theorem cooldownTick_within (s : State) (p : Nat) : Within s (s.cooldownTick p) :=
  (putAwu_fields s _ (by rfl) (by rfl) (by rfl) (by rfl) (by rfl)).toWithin

theorem showView_within (s : State) (b : Nat) (v : List BoardLine) : Within s (s.showView b v) :=
  Within.ite (.refl s) ((putAwu_fields s _ (by rfl) (by rfl) (by rfl) (by rfl) (by rfl)).toWithin.trans (notice_calm _ _ _).toWithin)

theorem refreshBoards_within (s : State) : Within s s.refreshBoards :=
  Within.ite (Within.foldl (fun s (b : Nat × BoardRec) => showView_within s b.1 _) _ s)
    (Within.ite (.refl s) (Within.foldl (fun s (b : Nat × BoardRec) => showView_within s b.1 _) _ s))

theorem awuTick_within (s : State) (raw : ConsoleLevels) : Within s (s.awuTick raw) := by
  unfold State.awuTick
  dsimp only
  refine Within.trans ?_ (refreshBoards_within _)
  refine Within.trans ?_ (flashLamps_rail _).toWithin
  refine Within.trans ?_ (demoTick_within _)
  have base := (Within.foldl cooldownTick_within s.awu.cooldown.keys s).trans (consoleTick_within _ raw)
  exact Within.ite (base.trans (Within.foldl dwellTick_within _ _)) base

theorem tickPart_within (raw : ConsoleLevels) (s : State) (b : Block) : Within s (s.tickPart raw b) := by
  cases b with
  | tr => exact registerTick_within s
  | iu => exact (interlockingTick_rail s).toWithin.trans (handOn_calm _).toWithin
  | tc => exact (tableTick_rail s).toWithin.trans (handOn_calm _).toWithin
  | awu => exact awuTick_within s raw
  | ss => exact ((recomputeAll_rail s).trans (rampAll_rail _)).toWithin

theorem tick_within (s : State) (raw : ConsoleLevels) : Within s (s.tick raw) :=
  ((putTicks_within s _).trans (Within.foldl (tickPart_within raw) _ _)).trans (finish_inner _ _).toWithin

end Sys2Proof.Machine
end

