-- ==== Sys2Proof/Laws/Grades.lean ====
section
/-! SUPPORT. What the targets are computed from, and what the recomputation at the end of an event comes to: `finish_below`. -/
namespace Sys2Proof.Machine

/-- The parts of the state that targets are computed from are the same. -/
structure SameRun (s t : State) : Prop extends SameTrack s t where
  chain : t.fs.chain = s.fs.chain
  align : t.align = s.align
  marks : t.iu.marks = s.iu.marks
  trains : ∀ k, (t.train? k).map (fun x => { x with granted := 0 }) = (s.train? k).map (fun x => { x with granted := 0 })

theorem SameRun.refl (s : State) : SameRun s s := { SameTrack.refl s with chain := rfl, align := rfl, marks := rfl, trains := fun _ => rfl }

theorem SameRun.trans {s t u : State} (h : SameRun s t) (k : SameRun t u) : SameRun s u :=
  { h.toSameTrack.trans k.toSameTrack with
    chain := k.chain.trans h.chain
    align := k.align.trans h.align
    marks := k.marks.trans h.marks
    trains := fun i => (k.trains i).trans (h.trains i) }

theorem SameTrack.plan {s t : State} (h : SameTrack s t) : t.plan = s.plan := h.pm

/-- Two records alike but for their granted grades. -/
theorem SameRun.cases {s t : State} (h : SameRun s t) (k : Nat) :
    (s.train? k = none ∧ t.train? k = none) ∨
      ∃ x g, s.train? k = some x ∧ t.train? k = some { x with granted := g } := by
  have := h.trains k
  cases a : s.train? k with
  | none =>
    cases b : t.train? k with
    | none => exact .inl ⟨rfl, rfl⟩
    | some y => rw [a, b] at this; simp at this
  | some x =>
    cases b : t.train? k with
    | none => rw [a, b] at this; simp at this
    | some y =>
      rw [a, b] at this
      simp only [Option.map_some, Option.some.injEq] at this
      refine .inr ⟨x, y.granted, rfl, ?_⟩
      cases x; cases y
      simp only [Train.mk.injEq] at this ⊢
      simp_all

theorem SameRun.next {s t : State} (h : SameRun s t) : t.nextSections = s.nextSections := by
  have look : t.look = s.look := by funext p; exact h.points p
  funext x
  simp only [State.nextSections, h.plan, look, h.align]

theorem SameRun.reserved {s t : State} (h : SameRun s t) : t.reservedFor = s.reservedFor := by
  obtain ⟨-, q, r, -⟩ := h.active
  have m : t.mark = s.mark := by funext x; simp only [State.mark, h.marks]
  have sm : t.sectionMark = s.sectionMark := by funext a b; simp only [State.sectionMark, r]
  funext k x d
  simp only [State.reservedFor, m, q, r, sm, h.plan]
  rcases h.cases k with ⟨a, b⟩ | ⟨y, g, a, b⟩
  · rw [a, b]
  · rw [a, b]
    cases s.mark x <;> rfl

theorem SameRun.start {s t : State} (h : SameRun s t) : t.startRoute = s.startRoute := by
  obtain ⟨-, q, -, -⟩ := h.active
  have a : t.routesAhead = s.routesAhead := by
    funext k x
    simp only [State.routesAhead, h.next, h.reserved]
  funext k
  simp only [State.startRoute]
  rcases h.cases k with ⟨e, e'⟩ | ⟨y, g, e, e'⟩
  · rw [e, e']
  · rw [e, e']
    have : s.routesAhead k { y with granted := g } = s.routesAhead k y := rfl
    simp only [a, q, this]

theorem SameRun.walkRoute {s t : State} (h : SameRun s t) : t.walkRoute = s.walkRoute := by
  have w : t.walkable = s.walkable := by
    funext k d x
    simp only [State.walkable, h.spans, State.stray, h.stray, State.inSpan, h.occupied, h.plan, h.points]
  have m : t.runnable = s.runnable := by
    funext r d
    simp only [State.runnable, h.meets.2, h.points]
  funext k r d
  simp only [State.walkRoute, m, w]

theorem walk_congr {s t : State} (h : SameRun s t) (k n slot : Nat) : walk t k n slot = walk s k n slot := by
  have c : t.chains = s.chains := by funext k r; simp only [State.chains, h.meets.2]
  obtain ⟨-, q, r, b⟩ := h.active
  induction n generalizing slot with
  | zero => rfl
  | succ n ih =>
    unfold walk
    simp only [q, r, b, c, h.walkRoute, ih]

theorem SameRun.authorityWalk {s t : State} (h : SameRun s t) : t.authorityWalk = s.authorityWalk := by
  funext k
  simp only [State.authorityWalk, h.start, walk_congr h]

/-- R119: the targets are the same where everything they are computed from is. -/
theorem targetOf_congr {s t : State} (h : SameRun s t) : t.targetOf = s.targetOf := by
  obtain ⟨-, q, r, -⟩ := h.active
  have e : t.emergencyCause = s.emergencyCause := by
    funext k x
    simp only [State.emergencyCause, State.working, h.mode, h.chain, h.next, State.blocked, h.stray, State.stray, h.spans,
      h.occupied]
  have p : t.provisional = s.provisional := by
    have a : t.authority = s.authority := by
      funext k
      simp only [State.authority, h.authorityWalk, h.plan]
    have l : t.reverseLimits = s.reverseLimits := by
      funext k
      simp only [State.reverseLimits, h.plan, h.points]
    have d : t.demandedLimits = s.demandedLimits := by
      funext w
      simp only [State.demandedLimits, q, r, h.plan]
    have c : t.classOf = s.classOf := by
      funext w
      simp only [State.classOf, q, r]
    funext k x
    simp only [State.provisional, State.elementCap, State.aspectCap, a, l, d, c, h.authorityWalk, h.start, State.plan,
      h.pm]
  funext k x
  simp only [State.targetOf, e, p]

/-- R119: a target does not depend on the granted grade. -/
theorem targetOf_granted (s : State) (k g : Nat) (x : Train) : s.targetOf k { x with granted := g } = s.targetOf k x := rfl

/-! ### Grades at the end of an event -/

theorem FollowUp.align {s t : State} (h : FollowUp s t) : t.align = s.align := by
  have pl : t.plan = s.plan := congrArg PM.plan h.pm
  simp only [State.align, h.tc, pl]

/-- One recomputation: the record stays but for a granted grade at most its target; nothing a target reads changes. -/
theorem recompute_below (s : State) (k : Nat) (w : s.tr.trains.Wf) :
    (s.recompute k).tr.trains.Wf ∧ SameRun s (s.recompute k) ∧
      (∀ j, j ≠ k → (s.recompute k).train? j = s.train? j) ∧
      ∀ x, (s.recompute k).train? k = some x → x.granted ≤ s.targetOf k x := by
  have keep : ∀ u : State, (u.tr = s.tr ∧ FollowUp s u) → SameRun s u := by
    rintro u ⟨a, b⟩
    exact { b.sameTrack' a with
      chain := by rw [b.fs]
      align := b.align
      marks := by rw [b.iu]
      trains := fun j => by simp only [State.train?, a] }
  unfold State.recompute
  split
  · next e => exact ⟨w, .refl s, fun _ _ => rfl, fun x h => by rw [e] at h; contradiction⟩
  · next x e =>
    dsimp only
    have put := putSpeed_followUp s k
    split
    · next f =>
      simp only [decide_eq_true_eq] at f
      have fall : s.targetOf k x ≤ x.granted := by omega
      have all : ∀ r : SpeedRec,
          ((s.putSpeed k r).grant k x (s.targetOf k x)).tr = (s.putTrain k { x with granted := s.targetOf k x }).tr ∧
            FollowUp s ((s.putSpeed k r).grant k x (s.targetOf k x)) := by
        intro r
        refine ⟨?_, (put r).trans (grant_followUp _ _ _ _ e fall)⟩
        unfold State.grant State.joinUrgent
        dsimp only
        split <;> split <;> rfl
      obtain ⟨a, b⟩ := all ⟨s.targetOf k x, (s.speed k).emergency || decide (s.targetOf k x < x.granted) &&
        decide (s.targetOf k x = 0) && s.emergencyCause k x⟩
      have at_ : ∀ j, ((s.putSpeed k ⟨s.targetOf k x, (s.speed k).emergency || decide (s.targetOf k x < x.granted) &&
          decide (s.targetOf k x = 0) && s.emergencyCause k x⟩).grant k x (s.targetOf k x)).train? j =
          if j = k then some { x with granted := s.targetOf k x } else s.train? j := by
        intro j
        rw [← putTrain_train?]
        simp only [State.train?, a]
      refine ⟨by rw [a]; exact Tab.put_wf _ _ _ w, ?_, fun j hj => by rw [at_]; simp [hj], ?_⟩
      · have spans : ∀ u : State, u.tr = (s.putTrain k { x with granted := s.targetOf k x }).tr → u.spans = s.spans := by
          intro u hu
          have := putTrain_spans s k { x with granted := s.targetOf k x } x e (by rfl) w
          simp only [State.spans, hu] at this ⊢
          exact this
        refine { b.sameTrack (spanOf_congr (spans _ a)) with
          chain := by rw [b.fs]
          align := b.align
          marks := by rw [b.iu]
          trains := fun j => ?_ }
        · rw [at_]
          split
          · subst j; rw [e]; rfl
          · rfl
      · intro y hy
        rw [at_] at hy
        simp only [if_true, Option.some.injEq] at hy
        subst hy
        exact Nat.le_refl _
    · next f =>
      simp only [decide_eq_true_eq] at f
      refine ⟨w, keep _ ⟨rfl, put _⟩, fun _ _ => rfl, fun y hy => ?_⟩
      have : s.train? k = some y := hy
      rw [e] at this
      simp only [Option.some.injEq] at this
      subst this
      omega

/-- R119, R121: after a recomputation of every train no granted grade is above its target. -/
theorem recomputeAll_below (s : State) (w : s.tr.trains.Wf) :
    s.recomputeAll.tr.trains.Wf ∧ SameRun s s.recomputeAll ∧
      ∀ k x, s.recomputeAll.train? k = some x → x.granted ≤ s.recomputeAll.targetOf k x := by
  have key : ∀ (l : List Nat) (u : State), u.tr.trains.Wf →
      (l.foldl State.recompute u).tr.trains.Wf ∧ SameRun u (l.foldl State.recompute u) ∧
        ∀ k x, (k ∈ l ∨ ∀ y, u.train? k = some y → y.granted ≤ u.targetOf k y) →
          (l.foldl State.recompute u).train? k = some x → x.granted ≤ u.targetOf k x := by
    intro l
    induction l with
    | nil => exact fun u hu => ⟨hu, .refl u, fun k x h hx => h.elim (fun h => by simp at h) (fun h => h x hx)⟩
    | cons i l ih =>
      intro u hu
      obtain ⟨a, b, c, d⟩ := recompute_below u i hu
      obtain ⟨a', b', c'⟩ := ih _ a
      refine ⟨a', b.trans b', fun k x h hx => ?_⟩
      rw [← targetOf_congr b]
      refine c' k x ?_ hx
      by_cases e : k = i
      · subst e
        exact .inr fun y hy => by rw [targetOf_congr b]; exact d y hy
      · rcases h with h | h
        · exact .inl (by simpa [e] using h)
        · exact .inr fun y hy => by rw [targetOf_congr b]; exact h y (by rw [← c k e]; exact hy)
  obtain ⟨a, b, c⟩ := key s.tr.trains.keys s w
  refine ⟨a, b, fun k x hx => ?_⟩
  rw [show s.recomputeAll.targetOf = s.targetOf from targetOf_congr b]
  refine c k x ?_ hx
  by_cases e : ∃ y, s.train? k = some y
  · obtain ⟨y, hy⟩ := e
    exact .inl (mem_keys_of_get? _ _ _ hy)
  · exact .inr fun y hy => absurd ⟨y, hy⟩ e

theorem settleSpeeds_below (n : Nat) (s : State) (w : s.tr.trains.Wf) (pos : n ≠ 0) :
    (settleSpeeds n s).tr.trains.Wf ∧
      ∀ k x, (settleSpeeds n s).train? k = some x → x.granted ≤ (settleSpeeds n s).targetOf k x := by
  induction n generalizing s with
  | zero => contradiction
  | succ n ih =>
    unfold settleSpeeds
    dsimp only
    obtain ⟨a, -, c⟩ := recomputeAll_below s.handOn ((handOn_inner s).rising w)
    split
    · exact ⟨a, c⟩
    · by_cases h : n = 0
      · subst h; exact ⟨a, c⟩
      · exact ih _ a h

/-- R119, R121: at the end of an event no train's granted grade is above its target. -/
theorem finish_below (s : State) (w : s.tr.trains.Wf) (k : Nat) (x : Train) (before : List Nat)
    (h : (s.finish before).train? k = some x) :
    x.granted ≤ (s.finish before).targetOf k x := by
  unfold State.finish at *
  obtain ⟨-, below⟩ := settleSpeeds_below Config.handoffBound s w (by decide)
  have f := ((refreshAspects_followUp (settleSpeeds Config.handoffBound s)).trans (refreshLamps_followUp _)).trans
    (closePort_followUp before _)
  obtain ⟨-, r, -⟩ := afterAspects (settleSpeeds Config.handoffBound s).refreshAspects before
  have same : ∀ u : State, u.refreshAspects.tr = u.tr := by
    intro u
    exact foldl_keeps (fun v => v.tr) (fun v g => by dsimp only; split; exacts [rfl, (showAspect_signals _ _ _ _).2]) _ u
  have tr : ((settleSpeeds Config.handoffBound s).refreshAspects.refreshLamps.closePort before).tr =
      (settleSpeeds Config.handoffBound s).tr := r.trans (same _)
  have run : SameRun (settleSpeeds Config.handoffBound s)
      ((settleSpeeds Config.handoffBound s).refreshAspects.refreshLamps.closePort before) :=
    { f.sameTrack' tr with
      chain := by rw [f.fs]
      align := f.align
      marks := by rw [f.iu]
      trains := fun j => by simp only [State.train?, tr] }
  rw [targetOf_congr run]
  refine below k x ?_
  simp only [State.train?, tr] at h
  exact h

end Sys2Proof.Machine
end

