-- ==== Sys2Proof/Laws/Link.lean ====
section
/-! SUPPORT. What a REQUEST frame comes to, test by test (R163), and what a reply leaves alone. -/
namespace Sys2Proof.Machine

variable {α : Type}

/-! ### The tests of a frame -/

theorem Carries.complete {f : Frame} {code st : Nat} {ps : List Byte} (h : Carries f code st ps) :
    frameComplete f = true := by
  unfold frameComplete
  rw [h.carried]
  simpa using h.clocked

theorem Carries.accepted {f : Frame} {code st : Nat} {ps : List Byte} (h : Carries f code st ps) :
    frameRefusal f code = none := by
  unfold frameRefusal frameSound
  have a := h.cab
  rw [h.carried, h.sender]
  have b := h.length
  have c : ¬ st = 40 := by omega
  have d : ¬ 24 < st := by omega
  simp [b, h.check, c, d]

/-- A frame that ends before its check bytes is ignored. -/
theorem takeFrame_incomplete (s : State) (code : Nat) (f : Frame) (p : Parse α)
    (owner : State → Nat → α → State × Answer) (close : State → State) (h : frameComplete f = false) :
    s.takeFrame code f p owner close = s.openFrame f := by
  simp [State.takeFrame, h]

/-- R163 test 1: with a reply held the frame is discarded. -/
theorem takeFrame_held (s : State) (code : Nat) (f : Frame) (p : Parse α)
    (owner : State → Nat → α → State × Answer) (close : State → State) (h : frameComplete f = true)
    (k : s.clp.holder.isSome = true) :
    s.takeFrame code f p owner close = { s.openFrame f with clp := { s.clp with dropped := true } } := by
  simp [State.takeFrame, h, k, State.openFrame]

/-- R163 tests 2 and 3: the frame is refused by the link. -/
theorem takeFrame_refused (s : State) (code : Nat) (f : Frame) (p : Parse α)
    (owner : State → Nat → α → State × Answer) (close : State → State) (h : frameComplete f = true)
    (k : s.listening) (r : Reason) (e : frameRefusal f code = some r) :
    s.takeFrame code f p owner close = (s.openFrame f).hold code (.refused r []) := by
  have e' : s.clp.holder = none := k
  simp [State.takeFrame, h, State.openFrame, e', State.handFrame, e]

/-- R163 test 5: the parameters cannot be decoded. -/
theorem takeFrame_undecodable (s : State) (code st : Nat) (f : Frame) (ps : List Byte) (p : Parse α)
    (owner : State → Nat → α → State × Answer) (close : State → State) (h : Carries f code st ps) (k : s.listening)
    (d : decodeAll p ps = none) :
    s.takeFrame code f p owner close = (s.openFrame f).hold code (.refused .range []) := by
  have e' : s.clp.holder = none := k
  simp [State.takeFrame, h.complete, State.openFrame, e', State.handFrame, h.accepted, h.carried, d]

/-- R163: a frame that passes the tests is answered by its owner. -/
theorem takeFrame_answered (s : State) (code st : Nat) (f : Frame) (ps : List Byte) (p : Parse α)
    (owner : State → Nat → α → State × Answer) (close : State → State) (h : Carries f code st ps) (k : s.listening)
    (a : α) (d : decodeAll p ps = some a) :
    s.takeFrame code f p owner close = State.answered code st close (owner (s.openFrame f) st a) := by
  have e' : s.clp.holder = none := k
  simp [State.takeFrame, h.complete, State.openFrame, e', State.handFrame, h.accepted, h.carried, d, h.sender]

/-! ### Holding and reporting -/

/-- R54: what reporting a station leaves alone. -/
theorem reportStation_within (s : State) (n : Nat) : Within s (s.reportStation n) := by
  have put : ∀ (c : Nat) (k : KeepAlive), Within s (s.putKeepAlive c k) := by
    intro c k
    exact { Within.refl s with
      routes := RouteLaw.congr rfl rfl rfl id
      turns := TurnLaw.congr rfl rfl id
      visitors := VisitorLaw.congr rfl rfl }
  unfold State.reportStation State.restartKeepAlive
  exact Within.ite (.refl s) (Within.ite (.refl s) (put _ _))

/-- The order and the bytes sent are no part of any law. -/
theorem openFrame_laws (s : State) (f : Frame) :
    (NoticeLaw s.clp → NoticeLaw (s.openFrame f).clp) ∧ (RouteLaw s → RouteLaw (s.openFrame f)) ∧
      (TurnLaw s → TurnLaw (s.openFrame f)) ∧ (VisitorLaw s → VisitorLaw (s.openFrame f)) :=
  ⟨id, RouteLaw.congr rfl rfl rfl id, TurnLaw.congr rfl rfl id, VisitorLaw.congr rfl rfl⟩

/-- The reply held is no part of any law. -/
theorem hold_laws (s : State) (code : Nat) (a : Answer) :
    (NoticeLaw s.clp → NoticeLaw (s.hold code a).clp) ∧ (RouteLaw s → RouteLaw (s.hold code a)) ∧
      (TurnLaw s → TurnLaw (s.hold code a)) ∧ (VisitorLaw s → VisitorLaw (s.hold code a)) :=
  ⟨fun h => ⟨h.few, h.once, h.counts, h.raises⟩, RouteLaw.congr rfl rfl rfl id, TurnLaw.congr rfl rfl id,
    VisitorLaw.congr rfl rfl⟩

end Sys2Proof.Machine
end

