-- ==== Sys2Proof/Laws/Owners.lean ====
section
/-! SUPPORT. What the answers of the owner blocks keep: one `Keeps` lemma per request, for the laws of the notice table, the
active routes, the turn queue, the visitor queue and the modes. -/
namespace Sys2Proof.Machine

/-- The laws that a request's own event keeps, whatever it changes. -/
structure Keeps (s t : State) : Prop where
  pending : t.pending = s.pending
  notices : NoticeLaw s.clp → NoticeLaw t.clp
  routes : RouteLaw s → RouteLaw t
  turns : TurnLaw s → TurnLaw t
  visitors : VisitorLaw s → VisitorLaw t
  modes : ModeLaw s → ModeLaw t
  signals : s.iu.signals.Wf → t.iu.signals.Wf
  rising : s.tr.trains.Wf → t.tr.trains.Wf

theorem Within.keeps {s t : State} (h : Within s t) : Keeps s t :=
  ⟨h.pending, h.notices, h.routes, h.turns, h.visitors, h.modes, h.signals, h.rising⟩

theorem Keeps.refl (s : State) : Keeps s s := (Within.refl s).keeps

theorem Keeps.trans {s t u : State} (h : Keeps s t) (k : Keeps t u) : Keeps s u :=
  ⟨k.pending.trans h.pending, fun x => k.notices (h.notices x), fun x => k.routes (h.routes x),
    fun x => k.turns (h.turns x), fun x => k.visitors (h.visitors x), fun x => k.modes (h.modes x),
    fun x => k.signals (h.signals x), fun x => k.rising (h.rising x)⟩

theorem Keeps.ite {s t u : State} {c : Prop} [Decidable c] (h : Keeps s t) (k : Keeps s u) : Keeps s (if c then t else u) := by
  split
  · exact h
  · exact k

theorem Keeps.foldl {α : Type} {f : State → α → State} (h : ∀ s x, Keeps s (f s x)) (l : List α) (s : State) :
    Keeps s (l.foldl f s) := by
  induction l generalizing s with
  | nil => exact .refl s
  | cons x l ih => exact (h s x).trans (ih _)

/-- An update of the train register's tables. -/
theorem putTr_keeps (s : State) (x : TR) (h : s.tr.trains.Wf → x.trains.Wf) : Keeps s { s with tr := x } where
  pending := rfl
  notices := id
  routes := RouteLaw.congr rfl rfl rfl id
  turns := TurnLaw.congr rfl rfl id
  visitors := VisitorLaw.congr rfl rfl
  modes := id
  signals := id
  rising := h

theorem putTrain_keeps (s : State) (k : Nat) (x : Train) : Keeps s (s.putTrain k x) :=
  putTr_keeps s _ fun w => Tab.put_wf _ _ _ w

theorem updTrain_keeps (s : State) (k : Nat) (g : Train → Train) : Keeps s (s.updTrain k g) := by
  unfold State.updTrain
  split
  · exact .refl s
  · exact putTrain_keeps _ _ _

theorem putHandles_keeps (s : State) (c : Nat) (h : Handles) : Keeps s (s.putHandles c h) := putTr_keeps s _ id

theorem restartKeepAlive_keeps (s : State) (c : Nat) : Keeps s (s.restartKeepAlive c) :=
  Keeps.ite (.refl s) (putTr_keeps s _ id)

theorem dropHandle_keeps (s : State) (o : Owner) : Keeps s (s.dropHandle o) := by
  unfold State.dropHandle
  split
  · exact Keeps.ite ((putHandles_keeps _ _ _).trans (putTr_keeps _ _ id)) (putHandles_keeps _ _ _)
  · exact .refl s

theorem giveToCab_keeps (s : State) (k c : Nat) : Keeps s (s.giveToCab k c) := by
  unfold State.giveToCab
  split
  · exact .refl s
  · dsimp only
    have base : ∀ h g, Keeps s ((s.putHandles c h).updTrain k g) :=
      fun h g => (putHandles_keeps s c h).trans (updTrain_keeps _ _ _)
    split
    · exact (base _ _).trans (restartKeepAlive_keeps _ _)
    · exact base _ _

theorem giveTo_keeps (s : State) (k : Nat) (x : Train) (o : Owner) : Keeps s (s.giveTo k x o) :=
  (dropHandle_keeps _ _).trans (updTrain_keeps _ _ _)

/-! ### Trains -/

theorem enter_keeps (s : State) (st k : Nat) (a : EnterAsk) : Keeps s (s.enter st k a) := by
  unfold State.enter
  dsimp only
  have base : ∀ o, Keeps s (s.putTrain k (a.train o)) := fun o => putTrain_keeps _ _ _
  have give : ∀ o, Keeps s (if st ≠ 0 then (s.putTrain k (a.train o)).giveToCab k st else s.putTrain k (a.train o)) :=
    fun o => Keeps.ite ((base o).trans (giveToCab_keeps _ _ _)) (base o)
  have strays : ∀ u : State, Keeps u (a.span.foldl State.clearStray u) :=
    fun u => Keeps.foldl (fun s x => (clearStray_calm s x).toWithin.keeps) _ _
  have all : ∀ o, Keeps s (a.span.foldl State.clearStray
      (((if st ≠ 0 then (s.putTrain k (a.train o)).giveToCab k st else s.putTrain k (a.train o)).putSpeed k {}).joinUrgent k)) :=
    fun o => (((give o).trans (putSpeed_rail _ _ _).toWithin.keeps).trans (joinUrgent_rail _ _).toWithin.keeps).trans (strays _)
  exact Keeps.ite ((all _).trans (wantArbitrate_rail _).toWithin.keeps) (all _)

theorem ownEnterTrain_keeps (s : State) (st : Nat) (a : EnterAsk) : Keeps s (ownEnterTrain s st a).1 := by
  unfold ownEnterTrain
  split
  · exact .refl s
  · exact enter_keeps _ _ _ _

theorem retireRecord_keeps (s : State) (k : Nat) (x : Train) : Keeps s (s.retireRecord k x) := by
  unfold State.retireRecord
  dsimp only
  refine Keeps.trans ?_ (Keeps.foldl (fun s y =>
    Keeps.ite (putStray_calm s y true).toWithin.keeps (sectionLeft_rail s y).toWithin.keeps) _ _)
  exact (dropHandle_keeps s _).trans (putTr_keeps _ _ fun w => Tab.erase_wf _ _ w)

theorem retireFromIu_keeps (s : State) (k n : Nat) : Keeps s (s.retireFromIu k n) := by
  unfold State.retireFromIu
  dsimp only
  refine Keeps.trans ?_ (Keeps.foldl (fun s (e : StackEntry) => (notice_rail s _ e.route).toWithin.keeps) _ _)
  have entry : ∀ j, State.entrySignal { s with iu := { s.iu with
      routes := ⟨s.iu.routes.rows.map (fun r => (r.1, if r.2.train = some k then { r.2 with train := none } else r.2))⟩,
      stack := s.iu.stack.filter (fun e => !decide (e.train = some n)) } } j = s.entrySignal j := by
    intro j
    unfold State.entrySignal State.route? Tab.get?
    dsimp only
    rw [rowsGet_map (fun r : ActiveRoute => if r.train = some k then { r with train := none } else r)]
    cases rowsGet s.iu.routes.rows j with
    | none => rfl
    | some r =>
      simp only [Option.map_some, Option.bind_some]
      unfold State.routeRec
      split <;> rfl
  have keys : ∀ l : List (Nat × ActiveRoute),
      (l.map (fun r => (r.1, if r.2.train = some k then { r.2 with train := none } else r.2))).map Prod.fst =
        l.map Prod.fst := by
    intro l
    simp
  exact
    { pending := rfl
      notices := id
      turns := TurnLaw.congr rfl rfl id
      visitors := VisitorLaw.congr rfl rfl
      modes := id
      signals := id
      rising := id
      routes := fun w =>
        { rising := by
            show ((List.map _ _).map Prod.fst).Pairwise _
            rw [keys]; exact w.rising
          slots := fun j hj => w.slots j (by
            have : j ∈ (List.map _ s.iu.routes.rows).map Prod.fst := hj
            rw [keys] at this; exact this)
          entries := fun i j e hi hj => w.entries i j e (by rw [entry] at hi; exact hi) (by rw [entry] at hj; exact hj)
          few := (List.length_filter_le _ _).trans w.few
          once := w.once.sublist (List.filter_sublist.map _)
          levels := fun e he => w.levels e (List.mem_of_mem_filter he)
          setup := fun m => by
            obtain ⟨a, b⟩ := w.setup m
            exact ⟨by simp [a], by simp [b]⟩ } }

theorem retirePart_keeps (k n : Nat) (s : State) (b : Block) : Keeps s (State.retirePart k n s b) := by
  cases b with
  | tr => exact .refl s
  | iu => exact retireFromIu_keeps _ _ _
  | ss => exact (putSs_rail s _).toWithin.keeps
  | tc => exact (dropTurnsOf_rail s n).toWithin.keeps
  | awu =>
    have base : Inner s { s with awu := { s.awu with dwells := s.awu.dwells.erase k } } :=
      putAwu_fields s _ rfl rfl rfl rfl rfl
    exact Keeps.ite (base.trans (endDemo_inner _ _)).toWithin.keeps base.toWithin.keeps

theorem ownRetireTrain_keeps (s : State) (st ref : Nat) : Keeps s (ownRetireTrain s st ref).1 := by
  have retire : ∀ k x, Keeps s (s.retire k x) := fun k x => by
    have base := (retireRecord_keeps s k x).trans (Keeps.foldl (retirePart_keeps k x.number) (fullOrder s.order) _)
    exact Keeps.ite (base.trans (wantArbitrate_rail _).toWithin.keeps) base
  unfold ownRetireTrain
  split
  · exact .refl s
  · split
    · exact .refl s
    · split
      · exact .refl s
      · split
        · exact .refl s
        · split
          · exact .refl s
          · exact retire _ _

theorem ownAcquireTrain_keeps (s : State) (st : Nat) (a : Nat × Nat) : Keeps s (ownAcquireTrain s st a).1 := by
  unfold ownAcquireTrain
  repeat' split
  all_goals first | exact .refl s | exact giveTo_keeps _ _ _ _ | exact giveToCab_keeps _ _ _

theorem ownReleaseTrain_keeps (s : State) (st ref : Nat) : Keeps s (ownReleaseTrain s st ref).1 := by
  unfold ownReleaseTrain
  repeat' split
  all_goals first | exact .refl s | exact (giveTo_keeps _ _ _ _).trans (requestGrade_rail _ _ _).toWithin.keeps

theorem ownSetSpeed_keeps (s : State) (st : Nat) (a : Nat × Nat) : Keeps s (ownSetSpeed s st a).1 := by
  unfold ownSetSpeed
  split
  · exact .refl s
  · exact (requestGrade_rail _ _ _).toWithin.keeps

theorem reverse_keeps (s : State) (k : Nat) (x : Train) : Keeps s (s.reverse k x) := by
  unfold State.reverse
  dsimp only
  refine Keeps.trans ?_ (joinUrgent_rail _ _).toWithin.keeps
  refine Keeps.trans ?_ (reverseRoutes_rail _ _).toWithin.keeps
  refine Keeps.trans ?_ (putTrain_keeps _ _ _)
  exact Keeps.ite ⟨rfl, id, RouteLaw.congr rfl rfl rfl id, TurnLaw.congr rfl rfl id, VisitorLaw.congr rfl rfl, id, id, id⟩
    (.refl s)

theorem ownReverseTrain_keeps (s : State) (st ref : Nat) : Keeps s (ownReverseTrain s st ref).1 := by
  unfold ownReverseTrain
  repeat' split
  all_goals first | exact .refl s | exact reverse_keeps _ _ _

theorem forSelected_keeps (s : State) (st : Nat) (sel : Nat × Nat) (act : State → Nat → State)
    (h : ∀ s k, Keeps s (act s k)) : Keeps s (s.forSelected st sel act).1 := by
  unfold State.forSelected
  split
  · exact .refl s
  · exact Keeps.foldl h _ _

theorem holdTrain_within (held : Bool) (s : State) (k : Nat) : Within s (State.holdTrain held s k) := by
  have put : ∀ t x, s.train? k = some t → Within s (s.toState k t x) := fun t x h =>
    ((putTrain_rail s k _ t h (by rfl)).toWithin).trans (trainChanged_calm _ _).toWithin
  unfold State.holdTrain
  split
  · exact .refl s
  · next t h =>
    split
    · exact Within.ite (put _ _ h) (.refl s)
    · exact Within.ite (.refl s) (put _ _ h)
    · exact (setTc_rail s _ (by rfl)).toWithin
    · exact .refl s

theorem ownHold_keeps (s : State) (st : Nat) (sel : Nat × Nat) : Keeps s (ownHold s st sel).1 :=
  forSelected_keeps _ _ _ _ fun s k => (holdTrain_within true s k).keeps

theorem ownUnhold_keeps (s : State) (st : Nat) (sel : Nat × Nat) : Keeps s (ownUnhold s st sel).1 :=
  forSelected_keeps _ _ _ _ fun s k => (holdTrain_within false s k).keeps

theorem ownSetAuto_keeps (s : State) (st : Nat) (a : (Nat × Nat) × Nat) : Keeps s (ownSetAuto s st a).1 := by
  unfold ownSetAuto
  split
  · exact .refl s
  · exact forSelected_keeps _ _ _ _ fun s k => updTrain_keeps _ _ _

theorem ownSeekTrain_keeps (s : State) (st n : Nat) : Keeps s (ownSeekTrain s st n).1 := by
  unfold ownSeekTrain
  split
  · exact .refl s
  · exact putTr_keeps s _ id

theorem ownReadTrainField_keeps (s : State) (st n : Nat) : Keeps s (ownReadTrainField s st n).1 := by
  unfold ownReadTrainField
  split
  · exact .refl s
  · exact putTr_keeps s _ id

theorem ownReadTrainRecord_keeps (s : State) (st : Nat) (u : Unit) : Keeps s (ownReadTrainRecord s st u).1 := by
  unfold ownReadTrainRecord
  dsimp only
  split <;> exact putTr_keeps s _ id

/-! ### The plan -/

theorem clearOuts_rail (s : State) (l : List Nat) : Rail s (s.clearOuts l) := Rail.foldl (fun s b => setOut_rail s b false) l s

/-- In SETUP no law speaks of the plan. -/
theorem putPlan_keeps (s : State) (p : Plan) (m : s.mc.mode = .setup) : Keeps s (s.putPlan p) where
  pending := rfl
  notices := id
  visitors := VisitorLaw.congr rfl rfl
  modes := id
  signals := id
  rising := id
  routes := fun w => by
    obtain ⟨a, b⟩ := w.setup m
    exact
      { rising := w.rising
        slots := w.slots
        entries := fun j k e hj _ => by
          simp [State.entrySignal, State.route?, State.putPlan, Tab.get?, a, rowsGet] at hj
        few := w.few
        once := w.once
        levels := fun e he => by
          have he' : e ∈ s.iu.stack := he
          rw [b] at he'; contradiction
        setup := fun _ => ⟨a, b⟩ }
  turns := fun w => by
    have a := w.setup m
    exact ⟨w.few, fun e he => by
      have he' : e ∈ s.tc.queue := he
      rw [a] at he'; contradiction, fun _ => a⟩

theorem resetTc_keeps (s : State) : Keeps s (s.setTc TC.unindexed) :=
  (setTc_queue_rail s _ fun _ => ⟨by simp [State.setTc, TC.unindexed], by simp [State.setTc, TC.unindexed], fun _ => rfl⟩
    ).toWithin.keeps

theorem putAwuTables_keeps (s : State) (x : Tab Lamp) (v : Tab (List BoardLine)) :
    Keeps s { s with awu := { s.awu with lamps := x, views := v } } :=
  (putAwu_fields s { s.awu with lamps := x, views := v } rfl rfl rfl rfl rfl).toWithin.keeps

theorem eraseSignal_keeps (s : State) (k : Nat) :
    Keeps s { s with iu := { s.iu with signals := s.iu.signals.erase k } } :=
  ⟨rfl, id, RouteLaw.congr rfl rfl rfl id, TurnLaw.congr rfl rfl id, VisitorLaw.congr rfl rfl, id,
    fun w => Tab.erase_wf _ _ w, id⟩

theorem planChanged_keeps (s : State) (kind key : Nat) (old new : Option Record) :
    Keeps s (s.planChanged kind key old new) := by
  have stop : Rail s (s.stopPulse key old) := by
    unfold State.stopPulse
    split
    · exact setOut_rail _ _ _
    · exact .refl s
  unfold State.planChanged
  split
  · dsimp only
    have base : ∀ k, Rail s ((if s.keepsPulse key old new then s else s.stopPulse key old).resetPoint key k) :=
      fun k => (Rail.ite (.refl s) stop).trans (resetPoint_rail _ _ _)
    split
    · exact ((base _).trans (detection_rail _ _)).toWithin.keeps
    · exact (base _).toWithin.keeps
  · split
    · exact (showAspect_rail _ _ _ _).toWithin.keeps
    · exact eraseSignal_keeps _ _
  · exact putAwuTables_keeps s _ s.awu.views
  · exact Keeps.ite (putAwuTables_keeps s s.awu.lamps _) (.refl s)
  · exact resetTc_keeps s
  · exact .refl s

theorem ownPlanWrite_keeps (s : State) (st : Nat) (a : WriteAsk) : Keeps s (ownPlanWrite s st a).1 := by
  have drop : ∀ o n, Rail s (s.dropOutputs o n) := fun o n => clearOuts_rail _ _
  have put : ∀ o n p kind key, s.mc.mode = .setup →
      Keeps s (((s.dropOutputs o n).putPlan p).planChanged kind key o n) := fun o n p kind key m =>
    ((drop o n).toWithin.keeps.trans (putPlan_keeps _ p (by rw [(drop o n).mc]; exact m))).trans (planChanged_keeps _ _ _ _ _)
  unfold ownPlanWrite
  split
  · exact .refl s
  · split
    · exact .refl s
    · next m =>
      have m : s.mc.mode = .setup := by simpa using m
      split
      · exact .refl s
      · split
        · exact .refl s
        · split
          · split
            · exact .refl s
            · exact put (s.plan.lookup a.kind a.key) none _ _ _ m
          · exact .refl s
          · next r _ => exact put (s.plan.lookup a.kind a.key) (some r) _ _ _ m

theorem replacePlan_keeps (s : State) (p : Plan) (m : s.mc.mode = .setup) : Keeps s (s.replacePlan p) := by
  unfold State.replacePlan
  dsimp only
  refine Keeps.trans ?_ (Keeps.foldl (fun s (r : Nat × PointRec) => (detection_rail s r.1).toWithin.keeps) _ _)
  refine Keeps.trans ?_ (stopSignals_rail _).toWithin.keeps
  refine Keeps.trans ?_ (resetTc_keeps _)
  have base := (clearOuts_rail s s.plan.outputs).toWithin.keeps.trans
    (putPlan_keeps _ p (by rw [(clearOuts_rail s s.plan.outputs).mc]; exact m))
  refine base.trans ?_
  exact ⟨rfl, id, RouteLaw.congr rfl rfl rfl id, TurnLaw.congr rfl rfl id, VisitorLaw.congr rfl rfl, id,
    fun _ => Tab.empty_wf, id⟩

theorem ownPlanClear_keeps (s : State) (st : Nat) (u : Unit) : Keeps s (ownPlanClear s st u).1 := by
  unfold ownPlanClear
  split
  · exact .refl s
  · split
    · exact .refl s
    · next m =>
      split
      · exact .refl s
      · exact replacePlan_keeps _ _ (by simpa using m)

theorem ownPlanLoad_keeps (s : State) (st : Nat) (u : Unit) : Keeps s (ownPlanLoad s st u).1 := by
  unfold ownPlanLoad
  split
  · exact .refl s
  · split
    · exact .refl s
    · next m =>
      split
      · exact .refl s
      · split
        · exact .refl s
        · exact replacePlan_keeps _ _ (by simpa using m)

/-- The flags of Plan Memory are no part of these laws. -/
theorem putFlags_keeps (s : State) (x : PM) (h : x.plan = s.pm.plan) : Keeps s { s with pm := x } :=
  ⟨rfl, id, RouteLaw.congr rfl rfl h id, TurnLaw.congr rfl h id, VisitorLaw.congr rfl rfl, id, id, id⟩

theorem ownPlanCheck_keeps (s : State) (st : Nat) (u : Unit) : Keeps s (ownPlanCheck s st u).1 := by
  unfold ownPlanCheck
  split
  · exact .refl s
  · split <;> exact putFlags_keeps s _ rfl

theorem ownPlanSave_keeps (s : State) (st : Nat) (u : Unit) : Keeps s (ownPlanSave s st u).1 := by
  unfold ownPlanSave
  repeat' split
  all_goals first | exact .refl s | exact putFlags_keeps s _ rfl

theorem saveEnds_keeps (s : State) (m : Bool) : Keeps s (s.saveEnds m) :=
  Keeps.ite (.refl s) (Keeps.ite ((putFlags_keeps s _ (by rfl)).trans (notice_rail _ _ _).toWithin.keeps)
    ((putFlags_keeps s _ (by rfl)).trans (notice_rail _ _ _).toWithin.keeps))

/-! ### Modes -/

theorem ownGoRun_keeps (s : State) (st : Nat) (u : Unit) : Keeps s (ownGoRun s st u).1 := by
  have go := (changeMode_calm s .run none (by decide) fun _ => by simp).toWithin.keeps
  unfold ownGoRun
  repeat' split
  all_goals first | exact .refl s | exact go

theorem ownGoQuiet_keeps (s : State) (st : Nat) (u : Unit) : Keeps s (ownGoQuiet s st u).1 := by
  have go := (changeMode_calm s .quiet none (by decide) fun _ => by simp).toWithin.keeps
  unfold ownGoQuiet
  repeat' split
  all_goals first | exact .refl s | exact go

theorem ownStopAll_keeps (s : State) (st : Nat) (u : Unit) : Keeps s (ownStopAll s st u).1 := by
  unfold ownStopAll
  split
  · exact .refl s
  · exact (requestStop_calm s).toWithin.keeps

/-- A RESUME returns to the mode remembered, which the law of the modes has RUN or QUIET. -/
theorem ownResume_keeps (s : State) (st : Nat) (u : Unit) (h : ModeLaw s) : Keeps s (ownResume s st u).1 := by
  unfold ownResume
  split
  · exact .refl s
  · split
    · exact .refl s
    · next m =>
      split
      · exact .refl s
      · rcases h.1 (by simpa using m) with e | e <;> rw [e]
        · exact (changeMode_calm s .run none (by decide) fun _ => by simp).toWithin.keeps
        · exact (changeMode_calm s .quiet none (by decide) fun _ => by simp).toWithin.keeps

theorem CLP.reset_law (p : CLP) : NoticeLaw p.reset :=
  record_law _ _ _ _ ⟨by simp, by simp, by simp, by simp⟩

theorem ownResetLayout_keeps (s : State) (st : Nat) (u : Unit) : Keeps s (ownResetLayout s st u).1 := by
  unfold ownResetLayout
  split
  · exact .refl s
  · show Keeps s s.resetLayout
    unfold State.resetLayout
    dsimp only
    refine Keeps.trans ?_ (Keeps.foldl (fun s (r : Nat × PointRec) => (detection_rail s r.1).toWithin.keeps) _ _)
    refine Keeps.trans ?_ (stopSignals_rail _).toWithin.keeps
    have queue : s.tc.reset.queue = [] := by unfold TC.reset; split <;> rfl
    exact
      { pending := rfl
        notices := fun _ => CLP.reset_law _
        routes := fun _ =>
          ⟨Tab.empty_wf, by simp [Tab.keys], by simp [State.entrySignal, State.route?, Tab.get?, rowsGet], by simp,
            by simp, by simp, fun _ => ⟨rfl, rfl⟩⟩
        turns := fun _ => ⟨by simp [queue], by simp [queue], fun _ => queue⟩
        visitors := fun _ => ⟨by simp [AWU.reset], by simp [AWU.reset], by simp [AWU.reset]⟩
        modes := fun _ => ⟨by simp, by simp⟩
        signals := fun _ => Tab.empty_wf
        rising := fun _ => Tab.empty_wf }

/-! ### The Interlocking Unit -/

theorem ownSetRoute_keeps (s : State) (st : Nat) (a : Nat × Nat × Nat × Bool) : Keeps s (ownSetRoute s st a).1 := by
  unfold ownSetRoute
  split
  · exact .refl s
  · exact (askRoute_rail _ _).toWithin.keeps

theorem ownCancelRoute_keeps (s : State) (st n : Nat) : Keeps s (ownCancelRoute s st n).1 := by
  unfold ownCancelRoute
  split
  · exact .refl s
  · split
    · exact .refl s
    · dsimp only
      split
      · exact .refl s
      · split
        · exact .refl s
        · exact (cancelParts_rail _ _ _ _).toWithin.keeps

theorem ownPointTest_keeps (s : State) (st : Nat) (a : Nat × Nat) : Keeps s (ownPointTest s st a).1 := by
  unfold ownPointTest
  repeat' split
  all_goals first | exact .refl s | exact (command_rail _ _ _).toWithin.keeps

theorem ownClearFault_keeps (s : State) (st : Nat) (a : Nat × Nat) : Keeps s (ownClearFault s st a).1 := by
  unfold ownClearFault
  split
  · exact .refl s
  · split
    · split
      · exact .refl s
      · split
        · exact .refl s
        · exact Keeps.ite ((putPoint_rail _ _ _).trans (wantScan_rail _)).toWithin.keeps (.refl s)
    · split
      · split
        · exact .refl s
        · split
          · exact .refl s
          · exact updTrain_keeps _ _ _
      · exact Keeps.ite (.refl s) (putFs_within s _).keeps

/-! ### The Turntable Controller -/

theorem ownTurn_keeps (s : State) (st : Nat) (a : Nat × Nat × Nat × Bool × Nat) : Keeps s (ownTurn s st a).1 := by
  unfold ownTurn
  split
  · exact .refl s
  · split
    · exact .refl s
    · exact (askTurn_rail _ _).toWithin.keeps

theorem ownWithdrawTurn_keeps (s : State) (st : Nat) (a : WithdrawAsk) : Keeps s (ownWithdrawTurn s st a).1 := by
  unfold ownWithdrawTurn
  repeat' split
  all_goals first | exact .refl s | exact (dropTurn_rail _ _).toWithin.keeps

/-! ### The Automatic Working Unit -/

theorem ownStartDemo_keeps (s : State) (st n : Nat) : Keeps s (ownStartDemo s st n).1 := by
  unfold ownStartDemo
  split
  · exact .refl s
  · split
    · exact .refl s
    · split
      · exact .refl s
      · next b =>
        split
        · exact .refl s
        · exact (admitDemo_inner s ⟨n, 0, 0⟩ (by simpa using b)).toWithin.keeps

theorem ownStopDemo_keeps (s : State) (st n : Nat) : Keeps s (ownStopDemo s st n).1 := by
  unfold ownStopDemo
  split
  · exact .refl s
  · split
    · exact (endDemo_inner _ _).toWithin.keeps
    · split
      · have base := dropVisitors_inner s _ (List.filter_sublist (p := fun v => !decide (v.demo = n)))
        exact Keeps.ite (base.toWithin.keeps.trans (wantAttempt_rail _).toWithin.keeps) base.toWithin.keeps
      · exact .refl s

/-! ### The Control Link Port -/

/-- The flags, the mask and the reply holder are no part of any law. -/
theorem putClp_keeps (s : State) (p : CLP) (h : NoticeLaw s.clp → NoticeLaw p) : Keeps s { s with clp := p } :=
  ⟨rfl, h, RouteLaw.congr rfl rfl rfl id, TurnLaw.congr rfl rfl id, VisitorLaw.congr rfl rfl, id, id, id⟩

theorem ownClearStatus_keeps (s : State) (st : Nat) (u : Unit) : Keeps s (ownClearStatus s st u).1 := by
  unfold ownClearStatus
  split
  · exact .refl s
  · exact putClp_keeps s _ fun h => ⟨h.few, h.once, h.counts, h.raises⟩

theorem ownSetMask_keeps (s : State) (st m : Nat) : Keeps s (ownSetMask s st m).1 := by
  unfold ownSetMask
  repeat' split
  all_goals first | exact .refl s | exact putClp_keeps s _ fun h => ⟨h.few, h.once, h.counts, h.raises⟩

/-! ### Frames -/

theorem openFrame_keeps (s : State) (f : Frame) : Keeps s (s.openFrame f) :=
  ⟨rfl, id, RouteLaw.congr rfl rfl rfl id, TurnLaw.congr rfl rfl id, VisitorLaw.congr rfl rfl, id, id, id⟩

theorem hold_keeps (s : State) (code : Nat) (a : Answer) : Keeps s (s.hold code a) :=
  putClp_keeps s _ fun h => ⟨h.few, h.once, h.counts, h.raises⟩

/-- A request keeps the laws that its owner's answer and the closing of its event keep. -/
theorem takeFrame_keeps {α : Type} (s : State) (code : Nat) (f : Frame) (p : Parse α)
    (owner : State → Nat → α → State × Answer) (close : State → State)
    (own : ∀ st a, Keeps (s.openFrame f) (owner (s.openFrame f) st a).1) (c : ∀ u, Keeps u (close u)) :
    Keeps s (s.takeFrame code f p owner close) := by
  have base := openFrame_keeps s f
  unfold State.takeFrame State.handFrame State.answered
  dsimp only
  split
  · exact base
  · split
    · exact base.trans (putClp_keeps _ _ fun h => ⟨h.few, h.once, h.counts, h.raises⟩)
    · split
      · exact base.trans (hold_keeps _ _ _)
      · split
        · exact base.trans (hold_keeps _ _ _)
        · next a _ =>
          have r := base.trans (own f.station.toNat a)
          exact ((Keeps.ite r (r.trans (c _))).trans (reportStation_within _ _).keeps).trans (hold_keeps _ _ _)

theorem collect_law (p : CLP) (x : Selection) (h : NoticeLaw p) (r : x.raises ≤ 15) : NoticeLaw (p.collect x) := by
  unfold CLP.collect
  dsimp only
  split
  · exact h
  · split
    · exact ⟨(List.length_filter_le _ _).trans h.few, h.once.sublist List.filter_sublist,
        fun n hn => h.counts n (List.mem_of_mem_filter hn), h.raises⟩
    · next z =>
      refine ⟨by simpa using h.few, ?_, fun n hn => ?_, h.raises⟩
      · rw [List.pairwise_map]
        exact h.once.imp fun {a b} k => by split <;> split <;> exact k
      · obtain ⟨m, hm, rfl⟩ := List.mem_map.mp hn
        split
        · exact ⟨by show 1 ≤ x.raises; omega, r⟩
        · exact h.counts m hm

theorem fetchNotice_keeps (s : State) (g : FetchStage) : Keeps s (s.fetchNoticeFrame g) := by
  have out : ∀ (u : State) (l : List Byte) (p : CLP), (NoticeLaw u.clp → NoticeLaw p) →
      Keeps u { u with linkOut := l, clp := p } := fun u l p h =>
    ⟨rfl, h, RouteLaw.congr rfl rfl rfl id, TurnLaw.congr rfl rfl id, VisitorLaw.congr rfl rfl, id, id, id⟩
  have start : ∀ u : State, Keeps u u.startFetch := fun u => out u _ _ fun h =>
    ⟨h.few, h.once, h.counts, fun x hx => by
      cases e : firstNotice u.clp.notices with
      | none => simp [e] at hx
      | some n => simp [e] at hx; subst hx; simp⟩
  have finish : ∀ (u : State) n, Keeps u (u.endFetch n) := fun u n => by
    unfold State.endFetch
    refine out u _ _ fun h => ?_
    have k : NoticeLaw (match u.clp.selection with | none => u.clp | some x => if 10 ≤ n then u.clp.collect x else u.clp) := by
      split
      · exact h
      · next x e =>
        split
        · exact collect_law _ _ h (h.raises x e)
        · exact h
    exact ⟨k.few, k.once, k.counts, by simp⟩
  unfold State.fetchNoticeFrame
  split
  · exact Keeps.ite (out s _ s.clp id) ((start s).trans (finish _ _))
  · exact start s
  · exact finish _ _

end Sys2Proof.Machine
end

