-- ==== Sys2Proof/Laws/Handles.lean ====
section
/-! SUPPORT. The law of the train register and the law of owners and handles, kept by every part of an event and by the requests
that enter, retire, give and take trains. -/
namespace Sys2Proof.Machine

/-! ### Ownership changes the train register alone -/

theorem updTrain_frame (s : State) (k : Nat) (g : Train → Train) :
    s.updTrain k g = { s with tr := { s.tr with trains := (s.updTrain k g).tr.trains } } := by
  unfold State.updTrain
  split <;> rfl

theorem restartKeepAlive_frame (s : State) (c : Nat) :
    s.restartKeepAlive c = { s with tr := { s.tr with keepAlive := (s.restartKeepAlive c).tr.keepAlive } } := by
  unfold State.restartKeepAlive
  split <;> rfl

theorem dropHandle_frame (s : State) (o : Owner) :
    s.dropHandle o = { s with tr := { s.tr with
      handles := (s.dropHandle o).tr.handles, keepAlive := (s.dropHandle o).tr.keepAlive } } := by
  unfold State.dropHandle
  split
  · dsimp only
    split <;> rfl
  · rfl

theorem giveToCab_frame (s : State) (k c : Nat) :
    s.giveToCab k c = { s with tr := { s.tr with
      trains := (s.giveToCab k c).tr.trains, handles := (s.giveToCab k c).tr.handles,
      keepAlive := (s.giveToCab k c).tr.keepAlive } } := by
  unfold State.giveToCab
  split
  · rfl
  · dsimp only
    split
    · rw [restartKeepAlive_frame, updTrain_frame]; rfl
    · rw [updTrain_frame]; rfl

/-! ### Keys and rows -/

theorem get?_of_mem_keys {α : Type} (t : Tab α) (k : Nat) (h : k ∈ t.keys) : ∃ x, t.get? k = some x := by
  unfold Tab.keys Tab.get? at *
  generalize t.rows = l at *
  induction l with
  | nil => simp at h
  | cons r l ih =>
    obtain ⟨i, y⟩ := r
    unfold rowsGet
    by_cases e : i = k
    · exact ⟨y, by simp [e]⟩
    · simp only [List.map_cons, List.mem_cons] at h
      rcases h with h | h
      · exact absurd h.symm e
      · simpa [e] using ih h

theorem rows_nil_iff {α : Type} (t : Tab α) : t.rows = [] ↔ ∀ k, t.get? k = none := by
  constructor
  · intro h k; simp [Tab.get?, h, rowsGet]
  · intro h
    rcases e : t.rows with _ | ⟨r, l⟩
    · rfl
    · obtain ⟨x, hx⟩ := get?_of_mem_keys t r.1 (by simp [Tab.keys, e])
      rw [h] at hx; contradiction

/-- What the two laws read of a state. -/
theorem RegisterLaw.of_who {s t : State} (h : RegisterLaw s) (rising : t.tr.trains.Wf)
    (who : ∀ k, (t.train? k).map Train.number = (s.train? k).map Train.number)
    (setup : t.mc.mode = .setup → s.mc.mode = .setup) : RegisterLaw t where
  rising := rising
  slots := fun k hk => by
    obtain ⟨x, hx⟩ := get?_of_mem_keys _ k hk
    have w := who k
    rw [show t.train? k = some x from hx] at w
    cases e : s.train? k with
    | none => simp [e] at w
    | some y => exact h.slots k (mem_keys_of_get? _ _ _ e)
  numbers := fun j k x y hx hy e => by
    have wj := who j
    have wk := who k
    rw [hx] at wj
    rw [hy] at wk
    cases ej : s.train? j with
    | none => simp [ej] at wj
    | some x' =>
      cases ek : s.train? k with
      | none => simp [ek] at wk
      | some y' =>
        simp only [ej, ek, Option.map_some, Option.some.injEq] at wj wk
        exact h.numbers j k x' y' ej ek (by rw [← wj, ← wk, e])
  setup := fun m => by
    rw [rows_nil_iff]
    intro k
    have e := (rows_nil_iff _).mp (h.setup (setup m)) k
    have w := who k
    rw [show s.train? k = none from e] at w
    cases f : t.tr.trains.get? k with
    | none => rfl
    | some x => rw [show t.train? k = some x from f] at w; simp at w

theorem HandleLaw.of_who {s t : State} (h : HandleLaw s) (handles : t.tr.handles = s.tr.handles)
    (who : ∀ k, (t.train? k).map Train.owner = (s.train? k).map Train.owner) : HandleLaw t where
  rising := by rw [handles]; exact h.rising
  names := fun c i k hk => by
    have e : t.handles c = s.handles c := by unfold State.handles; rw [handles]
    rw [e, ← h.names c i k hk]
    have w := who k
    constructor
    · rintro ⟨x, hx, ho⟩
      rw [hx] at w
      cases f : s.train? k with
      | none => simp [f] at w
      | some y =>
        simp only [f, Option.map_some, Option.some.injEq] at w
        exact ⟨y, rfl, by rw [← w]; exact ho⟩
    · rintro ⟨x, hx, ho⟩
      rw [hx] at w
      cases f : t.train? k with
      | none => simp [f] at w
      | some y =>
        simp only [f, Option.map_some, Option.some.injEq] at w
        exact ⟨y, rfl, by rw [w]; exact ho⟩

/-- Every part of an event keeps both laws. -/
theorem Within.register {s t : State} (h : Within s t) (r : RegisterLaw s) :
    RegisterLaw t ∧ (HandleLaw s → HandleLaw t) := by
  have num : ∀ k, (t.train? k).map Train.number = (s.train? k).map Train.number := fun k => by
    have w := congrArg (Option.map Prod.fst) (h.who k)
    simpa [Option.map_map, Function.comp_def] using w
  have own : ∀ k, (t.train? k).map Train.owner = (s.train? k).map Train.owner := fun k => by
    have w := congrArg (Option.map Prod.snd) (h.who k)
    simpa [Option.map_map, Function.comp_def] using w
  exact ⟨r.of_who (h.rising r.rising) num h.setup, fun l => l.of_who h.handles own⟩

/-- A train's record rewritten with its number kept. -/
theorem putTrain_register (s : State) (k : Nat) (x y : Train) (h : s.train? k = some y) (e : x.number = y.number)
    (r : RegisterLaw s) : RegisterLaw (s.putTrain k x) :=
  r.of_who (Tab.put_wf _ _ _ r.rising) (fun j => by
    rw [putTrain_train?]
    split
    · subst j; simp [h, e]
    · rfl) id

theorem handles_put (s : State) (c d : Nat) (h : Handles) (w : s.tr.handles.Wf) :
    (s.putHandles c h).handles d = if d = c then h else s.handles d := by
  unfold State.handles State.putHandles
  by_cases e : d = c
  · subst e; simp [Tab.getD_putD_same _ _ _ _ w]
  · simp [e, Tab.getD_putD_ne _ _ _ e]

theorem handles_get_set (h : Handles) (i j k : Nat) :
    (h.set i k).get j = if j = i ∧ 1 ≤ i ∧ i ≤ 3 then k else h.get j := by
  unfold Handles.set
  split
  · by_cases e : j = 1
    · subst e; simp [Handles.get]
    · simp only [e, false_and, if_false]; unfold Handles.get; split <;> first | rfl | omega
  · by_cases e : j = 2
    · subst e; simp [Handles.get]
    · simp only [e, false_and, if_false]; unfold Handles.get; split <;> first | rfl | omega
  · by_cases e : j = 3
    · subst e; simp [Handles.get]
    · simp only [e, false_and, if_false]; unfold Handles.get; split <;> first | rfl | omega
  · next a b c =>
    rw [if_neg]
    rintro ⟨_, x, y⟩
    have : i = 1 ∨ i = 2 ∨ i = 3 := by omega
    rcases this with e | e | e
    · exact a e
    · exact b e
    · exact c e

theorem handles_get_range (h : Handles) (i : Nat) (e : h.get i ≠ 0) : 1 ≤ i ∧ i ≤ 3 := by
  unfold Handles.get at e
  split at e <;> omega

theorem handles_lowest (h : Handles) (i : Nat) (e : h.lowest = some i) : 1 ≤ i ∧ i ≤ 3 ∧ h.get i = 0 := by
  unfold Handles.lowest at e
  split at e
  · next z => simp at e; subst e; exact ⟨by omega, by omega, z⟩
  · split at e
    · next z => simp at e; subst e; exact ⟨by omega, by omega, z⟩
    · split at e
      · next z => simp at e; subst e; exact ⟨by omega, by omega, z⟩
      · contradiction

/-! ### Giving up a handle -/

/-- What `dropHandle` leaves: the handle table of the cab that owned, and every train. -/
theorem dropHandle_spec (s : State) (o : Owner) (w : s.tr.handles.Wf) :
    (s.dropHandle o).tr.handles.Wf ∧ (s.dropHandle o).tr.trains = s.tr.trains ∧ (s.dropHandle o).mc = s.mc ∧
      ∀ c, (s.dropHandle o).handles c =
        match o with
        | .cab d i => if c = d then (s.handles d).set i 0 else s.handles c
        | _ => s.handles c := by
  cases o with
  | cab d i =>
    have put := handles_put s d
    have wf : (s.putHandles d ((s.handles d).set i 0)).tr.handles.Wf := putD_wf _ _ _ _ w
    unfold State.dropHandle
    dsimp only
    have keep : ∀ u : State, ∀ k, (u.putKeepAlive d k).tr.handles = u.tr.handles := fun _ _ => rfl
    split
    · exact ⟨wf, rfl, rfl, fun c => by
        have : ((s.putHandles d ((s.handles d).set i 0)).putKeepAlive d .absent).handles c =
          (s.putHandles d ((s.handles d).set i 0)).handles c := rfl
        rw [this, put _ _ w]⟩
    · exact ⟨wf, rfl, rfl, fun c => put _ _ w⟩
  | nobody => exact ⟨w, rfl, rfl, fun _ => rfl⟩
  | supervisor => exact ⟨w, rfl, rfl, fun _ => rfl⟩
  | awu => exact ⟨w, rfl, rfl, fun _ => rfl⟩

/-- Emptying the handle that holds train `k` leaves where another train stands as it was. -/
theorem emptied_eq {held k j : Nat} (e : ¬j = k) (hj : j ≠ 0) : (if held = k then 0 else held) = j ↔ held = j := by
  split
  · next h => exact ⟨fun q => absurd q.symm hj, fun q => absurd (q.symm.trans h) e⟩
  · exact Iff.rfl

/-- R43: with its handle given up, no handle names the slot of a train; all other handles stand. -/
theorem dropHandle_get (s : State) (k : Nat) (x : Train) (h : s.train? k = some x) (z : k ≠ 0) (l : HandleLaw s)
    (c i : Nat) : (((s.dropHandle x.owner).handles c).get i) = if (s.handles c).get i = k then 0 else (s.handles c).get i := by
  rw [(dropHandle_spec s x.owner l.rising).2.2.2 c]
  have other : ∀ d j, x.owner = .cab d j ↔ 1 ≤ j ∧ j ≤ 3 ∧ (s.handles d).get j = k := fun d j => by
    rw [← l.names d j k z]
    exact ⟨fun e => ⟨x, h, e⟩, fun ⟨y, hy, e⟩ => by rw [h] at hy; simp only [Option.some.injEq] at hy; subst hy; exact e⟩
  cases o : x.owner with
  | cab d j =>
    have f := (other d j).mp o
    dsimp only
    by_cases e : c = d
    · subst e
      simp only [if_true]
      rw [handles_get_set]
      by_cases e' : i = j
      · subst e'; simp [f.1, f.2.1, f.2.2]
      · have : (s.handles c).get i ≠ k := fun q => by
          obtain ⟨a, b⟩ := handles_get_range _ _ (by rw [q]; exact z)
          have := (other c i).mpr ⟨a, b, q⟩
          rw [o] at this
          simp only [Owner.cab.injEq] at this
          exact e' this.2.symm
        simp [e', this]
    · have : (s.handles c).get i ≠ k := fun q => by
        obtain ⟨a, b⟩ := handles_get_range _ _ (by rw [q]; exact z)
        have := (other c i).mpr ⟨a, b, q⟩
        rw [o] at this
        simp only [Owner.cab.injEq] at this
        exact e this.1.symm
      simp [e, this]
  | nobody | supervisor | awu =>
    have : (s.handles c).get i ≠ k := fun q => by
      obtain ⟨a, b⟩ := handles_get_range _ _ (by rw [q]; exact z)
      have := (other c i).mpr ⟨a, b, q⟩
      rw [o] at this
      contradiction
    simp [this]

/-- R43: a train given to an owner that is no cab keeps both laws. -/
theorem giveTo_register (s : State) (k : Nat) (x : Train) (o : Owner) (h : s.train? k = some x) (free : ∀ c i, o ≠ .cab c i)
    (r : RegisterLaw s) : RegisterLaw (s.giveTo k x o) ∧ (HandleLaw s → HandleLaw (s.giveTo k x o)) := by
  have z : k ≠ 0 := by have := r.slots k (mem_keys_of_get? _ _ _ h); omega
  have tr : (s.dropHandle x.owner).tr.trains = s.tr.trains ∧ (s.dropHandle x.owner).mc = s.mc := by
    unfold State.dropHandle
    split
    · dsimp only
      split <;> exact ⟨rfl, rfl⟩
    · exact ⟨rfl, rfl⟩
  have h' : (s.dropHandle x.owner).train? k = some x := by simp only [State.train?, tr.1]; exact h
  have eq : s.giveTo k x o = (s.dropHandle x.owner).putTrain k { x with owner := o } := by
    unfold State.giveTo State.updTrain
    rw [h']
  rw [eq]
  constructor
  · refine putTrain_register _ k _ x h' (by rfl) (r.of_who (by rw [tr.1]; exact r.rising) (fun j => ?_) (by rw [tr.2]; exact id))
    simp only [State.train?, tr.1]
  · intro l
    obtain ⟨wf, _, _, _⟩ := dropHandle_spec s x.owner l.rising
    refine ⟨wf, fun c i j hj => ?_⟩
    have he : ((s.dropHandle x.owner).putTrain k { x with owner := o }).handles c = (s.dropHandle x.owner).handles c := rfl
    rw [he, dropHandle_get s k x h z l c i, putTrain_train?]
    by_cases e : j = k
    · subst e
      simp only [if_true, Option.some.injEq]
      constructor
      · rintro ⟨y, rfl, ho⟩; exact absurd ho (free c i)
      · rintro ⟨_, _, q⟩
        split at q
        · exact absurd q.symm z
        · contradiction
    · simp only [e, if_false]
      have : (s.dropHandle x.owner).train? j = s.train? j := by simp only [State.train?, tr.1]
      rw [this, l.names c i j hj, emptied_eq e hj]

/-- R43: a train without an owner given to a cab with an empty handle keeps both laws. -/
theorem giveToCab_register (s : State) (k c : Nat) (x : Train) (h : s.train? k = some x)
    (free : ∀ d i, (s.handles d).get i ≠ k) (z : k ≠ 0) (r : RegisterLaw s)
    (l : HandleLaw s ∨ (s.tr.handles.Wf ∧ ∀ d i j, j ≠ 0 → j ≠ k →
      ((∃ y, s.train? j = some y ∧ y.owner = .cab d i) ↔ (1 ≤ i ∧ i ≤ 3 ∧ (s.handles d).get i = j)))) (i : Nat)
    (low : (s.handles c).lowest = some i) : RegisterLaw (s.giveToCab k c) ∧ HandleLaw (s.giveToCab k c) := by
  obtain ⟨wf, names⟩ : s.tr.handles.Wf ∧ ∀ d i j, j ≠ 0 → j ≠ k →
      ((∃ y, s.train? j = some y ∧ y.owner = .cab d i) ↔ (1 ≤ i ∧ i ≤ 3 ∧ (s.handles d).get i = j)) := by
    rcases l with l | l
    · exact ⟨l.rising, fun d i j hj _ => l.names d i j hj⟩
    · exact l
  obtain ⟨i1, i3, empty⟩ := handles_lowest _ _ low
  let u := (s.putHandles c ((s.handles c).set i k)).putTrain k { x with owner := .cab c i }
  have key : RegisterLaw u ∧ HandleLaw u := by
    constructor
    · exact putTrain_register (s.putHandles c ((s.handles c).set i k)) k _ x h (by rfl)
        (r.of_who (s := s) r.rising (fun _ => rfl) id)
    · refine ⟨putD_wf _ _ _ _ wf, fun d j n hn => ?_⟩
      have he : u.handles d = (s.putHandles c ((s.handles c).set i k)).handles d := rfl
      have ht : u.train? n = if n = k then some { x with owner := .cab c i } else s.train? n := putTrain_train? _ _ _ _
      rw [he, ht, handles_put _ _ _ _ wf]
      by_cases e : n = k
      · subst e
        simp only [if_true, Option.some.injEq]
        constructor
        · rintro ⟨y, rfl, ho⟩
          simp only [Owner.cab.injEq] at ho
          obtain ⟨rfl, rfl⟩ := ho
          simp [handles_get_set, i1, i3]
        · rintro ⟨a, b, q⟩
          refine ⟨_, rfl, ?_⟩
          split at q
          · next e =>
            subst e
            rw [handles_get_set] at q
            split at q
            · next e => simp [e.1]
            · exact absurd q (free _ _)
          · exact absurd q (free _ _)
      · simp only [e, if_false]
        rw [names d j n hn e]
        constructor
        · rintro ⟨a, b, q⟩
          refine ⟨a, b, ?_⟩
          split
          · next e' =>
            subst e'
            rw [handles_get_set]
            split
            · next f => rw [f.1, empty] at q; exact absurd q.symm hn
            · exact q
          · exact q
        · rintro ⟨a, b, q⟩
          refine ⟨a, b, ?_⟩
          split at q
          · next e' =>
            subst e'
            rw [handles_get_set] at q
            split at q
            · exact absurd q.symm e
            · exact q
          · exact q
  have keep : ∀ v : State, RegisterLaw v ∧ HandleLaw v → RegisterLaw (v.restartKeepAlive c) ∧ HandleLaw (v.restartKeepAlive c) := by
    intro v hv
    unfold State.restartKeepAlive
    split
    · exact hv
    · exact ⟨hv.1.of_who (s := v) hv.1.rising (fun _ => rfl) id, hv.2.of_who (s := v) rfl (fun _ => rfl)⟩
  have eq : (s.putHandles c ((s.handles c).set i k)).updTrain k (fun t => { t with owner := .cab c i }) = u := by
    unfold State.updTrain
    rw [show (s.putHandles c ((s.handles c).set i k)).train? k = some x from h]
  unfold State.giveToCab
  rw [low]
  dsimp only
  rw [eq]
  split
  · exact keep _ key
  · exact key

/-! ### Entering and retiring -/

theorem slotOf_none {s : State} {n k : Nat} {x : Train} (h : s.slotOf n = none) (e : s.train? k = some x) : x.number ≠ n := by
  unfold State.slotOf at h
  simp only [Option.map_eq_none_iff, List.find?_eq_none, decide_eq_true_eq] at h
  exact h (k, x) (rowsGet_mem _ _ _ e)

/-- R42: a new train in an empty slot of 1 to 48 under a number of its own. -/
theorem newTrain_register (s : State) (k : Nat) (x : Train) (empty : s.train? k = none) (range : 1 ≤ k ∧ k ≤ 48)
    (number : s.slotOf x.number = none) (mode : s.mc.mode ≠ .setup) (r : RegisterLaw s) : RegisterLaw (s.putTrain k x) where
  rising := Tab.put_wf _ _ _ r.rising
  slots := fun j hj => by
    rcases keys_put _ _ _ _ hj with rfl | hj
    · exact range
    · exact r.slots j hj
  numbers := fun i j y z hy hz e => by
    rw [putTrain_train?] at hy hz
    split at hy
    · next a =>
      split at hz
      · next b => rw [a, b]
      · simp only [Option.some.injEq] at hy
        subst hy
        exact absurd e.symm (slotOf_none number hz)
    · split at hz
      · simp only [Option.some.injEq] at hz
        subst hz
        exact absurd e (slotOf_none number hy)
      · exact r.numbers i j y z hy hz e
  setup := fun m => absurd m mode

theorem noHandle {s : State} {k : Nat} (l : HandleLaw s) (e : s.train? k = none) (z : k ≠ 0) (c i : Nat) :
    (s.handles c).get i ≠ k := fun q => by
  obtain ⟨a, b⟩ := handles_get_range _ _ (by rw [q]; exact z)
  obtain ⟨x, hx, _⟩ := (l.names c i k z).mpr ⟨a, b, q⟩
  rw [e] at hx; contradiction

theorem enterRefusal_none {s : State} {st : Nat} {a : EnterAsk} (h : s.enterRefusal st a = none) :
    s.mc.mode ≠ .setup ∧ s.slotOf a.number = none ∧ (∃ k, lowestFree s.tr.trains 1 Config.trainSlots = some k) ∧
      (st ≠ 0 → ∃ i, (s.handles st).lowest = some i) := by
  unfold State.enterRefusal at h
  split at h
  · contradiction
  · split at h
    · contradiction
    · next mode =>
      split at h
      · contradiction
      · split at h
        · contradiction
        · split at h
          · contradiction
          · split at h
            · contradiction
            · next number =>
              split at h
              · contradiction
              · split at h
                · contradiction
                · next slot =>
                  split at h
                  · contradiction
                  · next handle =>
                    refine ⟨mode, by simpa using number, ?_, fun z => ?_⟩
                    · cases e : lowestFree s.tr.trains 1 Config.trainSlots with
                      | none => simp [e] at slot
                      | some k => exact ⟨k, rfl⟩
                    · cases e : (s.handles st).lowest with
                      | none => simp [e, z] at handle
                      | some i => exact ⟨i, rfl⟩

theorem ownEnterTrain_register (s : State) (st : Nat) (a : EnterAsk) (r : RegisterLaw s) :
    RegisterLaw (ownEnterTrain s st a).1 ∧ (HandleLaw s → HandleLaw (ownEnterTrain s st a).1) := by
  unfold ownEnterTrain
  split
  · exact ⟨r, id⟩
  · next h =>
    obtain ⟨mode, number, ⟨k, slot⟩, handle⟩ := enterRefusal_none h
    obtain ⟨a1, a48, empty, _⟩ := lowestFree_spec _ _ _ _ slot
    simp only [slot, Option.getD_some]
    have empty : s.train? k = none := empty
    have z : k ≠ 0 := by omega
    have range : 1 ≤ k ∧ k ≤ 48 := by unfold Config.trainSlots at a48; omega
    have here : ∀ o, (s.putTrain k (a.train o)).train? k = some (a.train o) := fun o => by simp [putTrain_train?]
    have put : ∀ o, RegisterLaw (s.putTrain k (a.train o)) := fun o =>
      newTrain_register s k _ empty range number mode r
    have others : HandleLaw s → ∀ o, ∀ d i j, j ≠ 0 → j ≠ k →
        ((∃ y, (s.putTrain k (a.train o)).train? j = some y ∧ y.owner = .cab d i) ↔
          (1 ≤ i ∧ i ≤ 3 ∧ ((s.putTrain k (a.train o)).handles d).get i = j)) := fun l o d i j hj e => by
      rw [putTrain_train?, if_neg e]; exact l.names d i j hj
    have rest : ∀ u : State, RegisterLaw u →
        RegisterLaw (if a.span.any s.plan.isBridge then
          (a.span.foldl State.clearStray ((u.putSpeed k {}).joinUrgent k)).wantArbitrate
          else a.span.foldl State.clearStray ((u.putSpeed k {}).joinUrgent k)) ∧
        (HandleLaw u → HandleLaw (if a.span.any s.plan.isBridge then
          (a.span.foldl State.clearStray ((u.putSpeed k {}).joinUrgent k)).wantArbitrate
          else a.span.foldl State.clearStray ((u.putSpeed k {}).joinUrgent k))) := by
      intro u hu
      have w : Within u (a.span.foldl State.clearStray ((u.putSpeed k {}).joinUrgent k)) :=
        (((putSpeed_rail u k {}).trans (joinUrgent_rail _ _)).toWithin).trans (Calm.foldl clearStray_calm _ _).toWithin
      exact (Within.ite (w.trans (wantArbitrate_rail _).toWithin) w).register hu
    have bridge : ∀ u : State, u.plan = s.plan →
        (if a.span.any (a.span.foldl State.clearStray ((u.putSpeed k {}).joinUrgent k)).plan.isBridge then
          (a.span.foldl State.clearStray ((u.putSpeed k {}).joinUrgent k)).wantArbitrate
          else a.span.foldl State.clearStray ((u.putSpeed k {}).joinUrgent k)) =
        (if a.span.any s.plan.isBridge then
          (a.span.foldl State.clearStray ((u.putSpeed k {}).joinUrgent k)).wantArbitrate
          else a.span.foldl State.clearStray ((u.putSpeed k {}).joinUrgent k)) := by
      intro u hu
      have w : Within u (a.span.foldl State.clearStray ((u.putSpeed k {}).joinUrgent k)) :=
        (((putSpeed_rail u k {}).trans (joinUrgent_rail _ _)).toWithin).trans (Calm.foldl clearStray_calm _ _).toWithin
      have e : (a.span.foldl State.clearStray ((u.putSpeed k {}).joinUrgent k)).plan = s.plan := by
        rw [← hu]; unfold State.plan; rw [w.pm]
      rw [e]
    show RegisterLaw (s.enter st k a) ∧ (HandleLaw s → HandleLaw (s.enter st k a))
    unfold State.enter
    dsimp only
    by_cases c : st ≠ 0
    · simp only [c, ne_eq, not_false_eq_true, if_true]
      obtain ⟨i, low⟩ := handle c
      have plan : ((s.putTrain k (a.train .nobody)).giveToCab k st).plan = s.plan := by rw [giveToCab_frame]; rfl
      rw [bridge _ plan]
      have low' : ((s.putTrain k (a.train .nobody)).handles st).lowest = some i := low
      constructor
      · refine (rest _ ?_).1
        have up : ∀ v : State, RegisterLaw v → ∀ g : Train → Train, (∀ x, (g x).number = x.number) → RegisterLaw (v.updTrain k g) := by
          intro v hv g hg
          unfold State.updTrain
          split
          · exact hv
          · next y e => exact putTrain_register v k _ y e (hg y) hv
        unfold State.giveToCab
        rw [low']
        dsimp only
        have b : RegisterLaw (((s.putTrain k (a.train .nobody)).putHandles st
            (((s.putTrain k (a.train .nobody)).handles st).set i k)).updTrain k (fun t => { t with owner := .cab st i })) :=
          up ((s.putTrain k (a.train .nobody)).putHandles st (((s.putTrain k (a.train .nobody)).handles st).set i k))
            ((put .nobody).of_who (s := s.putTrain k (a.train .nobody)) (put .nobody).rising (fun _ => rfl) id) _ fun _ => rfl
        split
        · unfold State.restartKeepAlive
          split
          · exact b
          · exact b.of_who (s := _) b.rising (fun _ => rfl) id
        · exact b
      · intro l
        have g := giveToCab_register (s.putTrain k (a.train .nobody)) k st _ (here _)
          (fun d i => noHandle l empty z d i) z (put _) (.inr ⟨l.rising, others l _⟩) i low'
        exact (rest _ g.1).2 g.2
    · simp only [c, if_false]
      rw [bridge _ (by split <;> rfl)]
      have b : ∀ o, RegisterLaw (s.putTrain k (a.train o)) ∧ ((∀ d i, o ≠ .cab d i) → HandleLaw s → HandleLaw (s.putTrain k (a.train o))) := by
        intro o
        refine ⟨put o, fun ho l => ⟨l.rising, fun d i j hj => ?_⟩⟩
        by_cases e : j = k
        · subst e
          rw [here]
          constructor
          · rintro ⟨y, hy, q⟩
            simp only [Option.some.injEq] at hy
            subst hy
            exact absurd q (ho d i)
          · rintro ⟨_, _, q⟩
            exact absurd q (noHandle l empty z d i)
        · exact others l o d i j hj e
      have o : ∀ d i, (if a.choice = 1 then Owner.awu else Owner.supervisor) ≠ .cab d i := by intro d i; split <;> simp
      exact ⟨(rest _ (b _).1).1, fun l => (rest _ (b _).1).2 ((b _).2 o l)⟩

/-- R42, R43: a train whose record leaves its slot. -/
theorem eraseTrain_register (s : State) (k : Nat) (x : Train) (h : s.train? k = some x) (v : Bool) (r : RegisterLaw s) :
    RegisterLaw { s.dropHandle x.owner with tr := { (s.dropHandle x.owner).tr with
      trains := (s.dropHandle x.owner).tr.trains.erase k, vacated := v } } ∧
    (HandleLaw s → HandleLaw { s.dropHandle x.owner with tr := { (s.dropHandle x.owner).tr with
      trains := (s.dropHandle x.owner).tr.trains.erase k, vacated := v } }) := by
  have tr : (s.dropHandle x.owner).tr.trains = s.tr.trains ∧ (s.dropHandle x.owner).mc = s.mc := by
    unfold State.dropHandle
    split
    · dsimp only
      split <;> exact ⟨rfl, rfl⟩
    · exact ⟨rfl, rfl⟩
  have z : k ≠ 0 := by have := r.slots k (mem_keys_of_get? _ _ _ h); omega
  have get : ∀ j, (s.tr.trains.erase k).get? j = if j = k then none else s.train? j := by
    intro j
    by_cases e : j = k
    · subst e; simp [Tab.get?_erase_same _ _ r.rising]
    · simp only [e, if_false]; exact Tab.get?_erase_ne _ e
  rw [tr.1]
  constructor
  · exact
      { rising := Tab.erase_wf _ _ r.rising
        slots := fun j hj => r.slots j (keys_erase _ _ _ hj)
        numbers := fun i j y z hy hz e => by
          have hy : (s.tr.trains.erase k).get? i = some y := hy
          have hz : (s.tr.trains.erase k).get? j = some z := hz
          rw [get] at hy hz
          split at hy
          · contradiction
          · split at hz
            · contradiction
            · exact r.numbers i j y z hy hz e
        setup := fun m => by
          have m : (s.dropHandle x.owner).mc.mode = .setup := m
          rw [tr.2] at m
          have := r.setup m
          show rowsErase s.tr.trains.rows k = []
          rw [this]; rfl }
  · intro l
    refine ⟨(dropHandle_spec s x.owner l.rising).1, fun c i j hj => ?_⟩
    show (∃ y, (s.tr.trains.erase k).get? j = some y ∧ _) ↔ (1 ≤ i ∧ i ≤ 3 ∧ ((s.dropHandle x.owner).handles c).get i = j)
    rw [dropHandle_get s k x h z l c i, get]
    by_cases e : j = k
    · subst e
      simp only [if_true]
      constructor
      · rintro ⟨y, q, _⟩; contradiction
      · rintro ⟨_, _, q⟩
        split at q
        · exact absurd q.symm z
        · contradiction
    · simp only [e, if_false]
      rw [l.names c i j hj, emptied_eq e hj]

theorem retireFromIu_calm (s : State) (k n : Nat) : (s.retireFromIu k n).tr = s.tr ∧ (s.retireFromIu k n).mc = s.mc := by
  have key : ∀ (l : List StackEntry) (u : State),
      (l.foldl (fun s e => s.notice .stackDropped e.route) u).tr = u.tr ∧
        (l.foldl (fun s e => s.notice .stackDropped e.route) u).mc = u.mc := by
    intro l
    induction l with
    | nil => exact fun _ => ⟨rfl, rfl⟩
    | cons e l ih => exact fun u => ih _
  exact key _ _

theorem retire_register (s : State) (k : Nat) (x : Train) (h : s.train? k = some x) (r : RegisterLaw s) :
    RegisterLaw (s.retire k x) ∧ (HandleLaw s → HandleLaw (s.retire k x)) := by
  have both : ∀ u v : State, (RegisterLaw u → RegisterLaw v ∧ (HandleLaw u → HandleLaw v)) →
      RegisterLaw u ∧ (HandleLaw s → HandleLaw u) → RegisterLaw v ∧ (HandleLaw s → HandleLaw v) :=
    fun u v f g => ⟨(f g.1).1, fun l => (f g.1).2 (g.2 l)⟩
  have within : ∀ u v : State, Within u v → RegisterLaw u ∧ (HandleLaw s → HandleLaw u) →
      RegisterLaw v ∧ (HandleLaw s → HandleLaw v) := fun u v w => both u v w.register
  have same : ∀ u v : State, v.tr = u.tr → v.mc = u.mc → RegisterLaw u ∧ (HandleLaw s → HandleLaw u) →
      RegisterLaw v ∧ (HandleLaw s → HandleLaw v) := fun u v t m => both u v fun hu =>
    ⟨hu.of_who (by rw [t]; exact hu.rising) (fun j => by simp only [State.train?, t]) (by rw [m]; exact id),
      fun l => l.of_who (by rw [t]) fun j => by simp only [State.train?, t]⟩
  have record : RegisterLaw (s.retireRecord k x) ∧ (HandleLaw s → HandleLaw (s.retireRecord k x)) := by
    unfold State.retireRecord
    dsimp only
    refine within _ _ (Within.foldl (fun s y =>
      Within.ite (putStray_calm s y true).toWithin (sectionLeft_rail s y).toWithin) _ _) ?_
    exact eraseTrain_register s k x h _ r
  have parts : ∀ (l : List Block) (u : State), RegisterLaw u ∧ (HandleLaw s → HandleLaw u) →
      RegisterLaw (l.foldl (State.retirePart k x.number) u) ∧ (HandleLaw s → HandleLaw (l.foldl (State.retirePart k x.number) u)) := by
    intro l
    induction l with
    | nil => exact fun _ h => h
    | cons b l ih =>
      intro u hu
      refine ih _ ?_
      cases b with
      | tr => exact hu
      | iu => exact same _ _ (retireFromIu_calm _ _ _).1 (retireFromIu_calm _ _ _).2 hu
      | ss => exact within _ _ (putSs_rail u _).toWithin hu
      | tc => exact within _ _ (dropTurnsOf_rail u x.number).toWithin hu
      | awu =>
        have base : Inner u { u with awu := { u.awu with dwells := u.awu.dwells.erase k } } :=
          putAwu_fields u _ rfl rfl rfl rfl rfl
        exact within _ _ (Within.ite (base.trans (endDemo_inner _ _)).toWithin base.toWithin) hu
  unfold State.retire
  have all := parts (fullOrder s.order) _ record
  dsimp only
  exact within _ _ (Within.ite (wantArbitrate_rail _).toWithin (.refl _)) all

end Sys2Proof.Machine
end

