-- ==== Sys2Proof/Laws/PerInstr.lean ====
section
/-! SUPPORT. One lemma per command about its operands: what a request's code names, and what WellFormed asks of its frame. -/
namespace Sys2Proof.Laws

/-- R172: the request code of a row names a request, and a well-formed row's frame has a length byte that can be sent. -/
def Plain.Statement (i : Instr) : Prop :=
  ∀ code f, Machine.requestOf i = some (code, f) →
    namesRequest code = true ∧ code < 256 ∧ (i.wellFormed = true → f.params.length ≤ 255 ∧ f.order.Nodup)

theorem Plain.ofFrame {i : Instr} {c : Nat} {g : Frame} (h : Machine.requestOf i = some (c, g))
    (n : namesRequest c = true) (b : c < 256) (w : i.wellFormed = g.wellFormed) : Plain.Statement i := by
  intro code f e
  cases h.symm.trans e
  refine ⟨n, b, fun v => ?_⟩
  rw [w] at v
  simpa [Frame.wellFormed] using v

theorem Plain.ofNone {i : Instr} (h : Machine.requestOf i = none) : Plain.Statement i :=
  fun _ _ e => absurd (h.symm.trans e) (by simp)

theorem Plain.powerUp : Plain.Statement .powerUp := Plain.ofNone rfl
theorem Plain.resetPin : Plain.Statement .resetPin := Plain.ofNone rfl
theorem Plain.planClear (f : Frame) : Plain.Statement (.planClear f) := Plain.ofFrame rfl rfl (by decide) rfl
theorem Plain.planWrite (f : Frame) : Plain.Statement (.planWrite f) := Plain.ofFrame rfl rfl (by decide) rfl
theorem Plain.planRead (f : Frame) : Plain.Statement (.planRead f) := Plain.ofFrame rfl rfl (by decide) rfl
theorem Plain.planCheck (f : Frame) : Plain.Statement (.planCheck f) := Plain.ofFrame rfl rfl (by decide) rfl
theorem Plain.planSave (f : Frame) : Plain.Statement (.planSave f) := Plain.ofFrame rfl rfl (by decide) rfl
theorem Plain.saveEnd (matched : Bool) : Plain.Statement (.saveEnd matched) := Plain.ofNone rfl
theorem Plain.planLoad (f : Frame) : Plain.Statement (.planLoad f) := Plain.ofFrame rfl rfl (by decide) rfl
theorem Plain.goRun (f : Frame) : Plain.Statement (.goRun f) := Plain.ofFrame rfl rfl (by decide) rfl
theorem Plain.goQuiet (f : Frame) : Plain.Statement (.goQuiet f) := Plain.ofFrame rfl rfl (by decide) rfl
theorem Plain.stopAll (f : Frame) : Plain.Statement (.stopAll f) := Plain.ofFrame rfl rfl (by decide) rfl
theorem Plain.resume (f : Frame) : Plain.Statement (.resume f) := Plain.ofFrame rfl rfl (by decide) rfl
theorem Plain.resetLayout (f : Frame) : Plain.Statement (.resetLayout f) := Plain.ofFrame rfl rfl (by decide) rfl
theorem Plain.enterTrain (f : Frame) : Plain.Statement (.enterTrain f) := Plain.ofFrame rfl rfl (by decide) rfl
theorem Plain.retireTrain (f : Frame) : Plain.Statement (.retireTrain f) := Plain.ofFrame rfl rfl (by decide) rfl
theorem Plain.acquireTrain (f : Frame) : Plain.Statement (.acquireTrain f) := Plain.ofFrame rfl rfl (by decide) rfl
theorem Plain.releaseTrain (f : Frame) : Plain.Statement (.releaseTrain f) := Plain.ofFrame rfl rfl (by decide) rfl
theorem Plain.setSpeed (f : Frame) : Plain.Statement (.setSpeed f) := Plain.ofFrame rfl rfl (by decide) rfl
theorem Plain.reverseTrain (f : Frame) : Plain.Statement (.reverseTrain f) := Plain.ofFrame rfl rfl (by decide) rfl
theorem Plain.hold (f : Frame) : Plain.Statement (.hold f) := Plain.ofFrame rfl rfl (by decide) rfl
theorem Plain.unhold (f : Frame) : Plain.Statement (.unhold f) := Plain.ofFrame rfl rfl (by decide) rfl
theorem Plain.setAuto (f : Frame) : Plain.Statement (.setAuto f) := Plain.ofFrame rfl rfl (by decide) rfl
theorem Plain.keepAlive (f : Frame) : Plain.Statement (.keepAlive f) := Plain.ofFrame rfl rfl (by decide) rfl
theorem Plain.seekTrain (f : Frame) : Plain.Statement (.seekTrain f) := Plain.ofFrame rfl rfl (by decide) rfl
theorem Plain.readTrainField (f : Frame) : Plain.Statement (.readTrainField f) := Plain.ofFrame rfl rfl (by decide) rfl
theorem Plain.readTrainRecord (f : Frame) : Plain.Statement (.readTrainRecord f) := Plain.ofFrame rfl rfl (by decide) rfl
theorem Plain.keepAliveExpiry (cab : Nat) (order : List Block) : Plain.Statement (.keepAliveExpiry cab order) := Plain.ofNone rfl
theorem Plain.setRoute (f : Frame) : Plain.Statement (.setRoute f) := Plain.ofFrame rfl rfl (by decide) rfl
theorem Plain.cancelRoute (f : Frame) : Plain.Statement (.cancelRoute f) := Plain.ofFrame rfl rfl (by decide) rfl
theorem Plain.approachTimerExpiry (slot : Nat) (order : List Block) : Plain.Statement (.approachTimerExpiry slot order) := Plain.ofNone rfl
theorem Plain.pointTest (f : Frame) : Plain.Statement (.pointTest f) := Plain.ofFrame rfl rfl (by decide) rfl
theorem Plain.readRoute (f : Frame) : Plain.Statement (.readRoute f) := Plain.ofFrame rfl rfl (by decide) rfl
theorem Plain.readSection (f : Frame) : Plain.Statement (.readSection f) := Plain.ofFrame rfl rfl (by decide) rfl
theorem Plain.readPoint (f : Frame) : Plain.Statement (.readPoint f) := Plain.ofFrame rfl rfl (by decide) rfl
theorem Plain.readSignal (f : Frame) : Plain.Statement (.readSignal f) := Plain.ofFrame rfl rfl (by decide) rfl
theorem Plain.clearFault (f : Frame) : Plain.Statement (.clearFault f) := Plain.ofFrame rfl rfl (by decide) rfl
theorem Plain.pulseExpiry (point : Nat) : Plain.Statement (.pulseExpiry point) := Plain.ofNone rfl
theorem Plain.throwTimeout (point : Nat) (order : List Block) : Plain.Statement (.throwTimeout point order) := Plain.ofNone rfl
theorem Plain.homeTurntable (f : Frame) : Plain.Statement (.homeTurntable f) := Plain.ofFrame rfl rfl (by decide) rfl
theorem Plain.turn (f : Frame) : Plain.Statement (.turn f) := Plain.ofFrame rfl rfl (by decide) rfl
theorem Plain.withdrawTurn (f : Frame) : Plain.Statement (.withdrawTurn f) := Plain.ofFrame rfl rfl (by decide) rfl
theorem Plain.readTurntable (f : Frame) : Plain.Statement (.readTurntable f) := Plain.ofFrame rfl rfl (by decide) rfl
theorem Plain.turntableTimerExpiry (order : List Block) : Plain.Statement (.turntableTimerExpiry order) := Plain.ofNone rfl
theorem Plain.startDemo (f : Frame) : Plain.Statement (.startDemo f) := Plain.ofFrame rfl rfl (by decide) rfl
theorem Plain.stopDemo (f : Frame) : Plain.Statement (.stopDemo f) := Plain.ofFrame rfl rfl (by decide) rfl
theorem Plain.readBoard (f : Frame) : Plain.Statement (.readBoard f) := Plain.ofFrame rfl rfl (by decide) rfl
theorem Plain.readPanel (f : Frame) : Plain.Statement (.readPanel f) := Plain.ofFrame rfl rfl (by decide) rfl
theorem Plain.demoTimeout (order : List Block) : Plain.Statement (.demoTimeout order) := Plain.ofNone rfl
theorem Plain.dwellEnd (slot : Nat) (order : List Block) : Plain.Statement (.dwellEnd slot order) := Plain.ofNone rfl
theorem Plain.cooldownExpiry (panel : Nat) : Plain.Statement (.cooldownExpiry panel) := Plain.ofNone rfl
theorem Plain.clearStatus (f : Frame) : Plain.Statement (.clearStatus f) := Plain.ofFrame rfl rfl (by decide) rfl
theorem Plain.setNoticeMask (f : Frame) : Plain.Statement (.setNoticeMask f) := Plain.ofFrame rfl rfl (by decide) rfl
theorem Plain.identify (f : Frame) : Plain.Statement (.identify f) := Plain.ofFrame rfl rfl (by decide) rfl
theorem Plain.fetchReply (clocked : Nat) : Plain.Statement (.fetchReply clocked) := Plain.ofNone rfl
theorem Plain.fetchNotice (stage : FetchStage) : Plain.Statement (.fetchNotice stage) := Plain.ofNone rfl
theorem Plain.layoutTick (lines : ConsoleLevels) (order : List Block) : Plain.Statement (.layoutTick lines order) := Plain.ofNone rfl
theorem Plain.scanCompletion (fdi : List Bool) (order : List Block) : Plain.Statement (.scanCompletion fdi order) := Plain.ofNone rfl
theorem Plain.orderCompletion : Plain.Statement .orderCompletion := Plain.ofNone rfl
theorem Plain.unknownRequest (code : Byte) (f : Frame) : Plain.Statement (.unknownRequest code f) := Plain.ofNone rfl

end Sys2Proof.Laws
end

