-- ==== Sys2Proof/Laws/References.lean ====
section
/-! SUPPORT. Looking up a train by its number or its handle, resolving a reference or a selector (R44, R52), and what a
frame that passes the link's tests comes to. -/
namespace Sys2Proof.Machine

/-! ### Rows and look-ups -/

theorem get?_of_mem {α : Type} (t : Tab α) (k : Nat) (x : α) (h : (k, x) ∈ t.rows) (w : t.Wf) : t.get? k = some x := by
  unfold Tab.Wf Tab.keys at w
  unfold Tab.get?
  generalize t.rows = l at *
  induction l with
  | nil => simp at h
  | cons r l ih =>
    obtain ⟨i, y⟩ := r
    simp only [List.map_cons, List.pairwise_cons] at w
    unfold rowsGet
    rcases List.mem_cons.1 h with h | h
    · cases h; simp
    · have := w.1 k (List.mem_map.2 ⟨(k, x), h, rfl⟩)
      have : i ≠ k := by omega
      simp [this, ih h w.2]

/-- R42: a number is found at the slot of the one train that has it. -/
theorem slotOf_some {s : State} (r : RegisterLaw s) {k n : Nat} {x : Train} (h : s.train? k = some x) (e : x.number = n) :
    s.slotOf n = some k := by
  have hm : (k, x) ∈ s.tr.trains.rows := rowsGet_mem _ _ _ h
  unfold State.slotOf
  cases hf : s.tr.trains.rows.find? (fun r => decide (r.2.number = n)) with
  | none =>
    have := List.find?_eq_none.1 hf _ hm
    simp [e] at this
  | some y =>
    obtain ⟨j, y⟩ := y
    have h1 := List.find?_some hf
    simp only [decide_eq_true_eq] at h1
    have h3 : s.train? j = some y := get?_of_mem s.tr.trains j y (List.mem_of_find?_eq_some hf) r.rising
    rw [Option.map_some]
    exact congrArg some (r.numbers j k y x h3 h (h1.trans e.symm))

theorem slotOf_absent {s : State} (w : s.tr.trains.Wf) {n : Nat} (h : ∀ k x, s.train? k = some x → x.number ≠ n) :
    s.slotOf n = none := by
  unfold State.slotOf
  rw [Option.map_eq_none_iff, List.find?_eq_none]
  intro r hr
  obtain ⟨k, x⟩ := r
  simpa using h k x (get?_of_mem _ _ _ hr w)

/-! ### References and selectors -/

theorem State.names.resolves {s : State} {st ref k : Nat} {x : Train} (h : s.names st ref k x) (r : RegisterLaw s) :
    s.resolveRef st ref = .ok k := by
  obtain ⟨t, z, h | h⟩ := h
  · obtain ⟨h1, h2, h3, h4⟩ := h
    simp [State.resolveRef, h1, h2, h3, slotOf_some r t h4]
  · obtain ⟨h1, h2, h3, h4⟩ := h
    simp [State.resolveRef, h1, h2, h3, h4, z]

theorem State.badRef.refuses {s : State} {st ref : Nat} {r : Reason} (h : s.badRef st ref r) (w : s.tr.trains.Wf) :
    s.resolveRef st ref = .error r := by
  unfold State.resolveRef
  rcases h with ⟨h1, h2, h3⟩ | ⟨h1, h2, h3, h4, h5⟩ | ⟨h1, h2, h3⟩ | ⟨h1, h2, h3, h4, h5⟩
  · have : ¬ (1 ≤ ref ∧ ref ≤ 9999) := by omega
    simp [h1, h3, this]
  · simp [h1, h2, h3, h5, slotOf_absent w h4]
  · have : ¬ (1 ≤ ref ∧ ref ≤ 3) := by omega
    simp [h1, h3, this]
  · simp [h1, h2, h3, h4, h5]

theorem keys_filter_eq {α : Type} (t : Tab α) (k : Nat) (x : α) (h : t.get? k = some x) (w : t.Wf) :
    t.keys.filter (fun j => decide (j = k)) = [k] := by
  have m := mem_keys_of_get? _ _ _ h
  have n : t.keys.Nodup := w.imp (fun h => Nat.ne_of_lt h)
  have one : t.keys.filter (· == k) = [k] := by
    rw [List.filter_beq, List.count_eq_one_of_mem n m, List.replicate_one]
  exact one

/-- R52: the slots selected are those of the register that the selector names. -/
theorem State.selects.selected {s : State} {st form ref : Nat} {p : Nat → Bool} (h : s.selects st form ref p)
    (r : RegisterLaw s) : s.selected st (form, ref) = .ok (s.tr.trains.keys.filter p) := by
  unfold State.selected
  rcases h with ⟨h1, k, x, h2, h3⟩ | ⟨h1, h2, h3, h4, h5⟩ | ⟨h1, h2, h3⟩
  · rw [show p = (fun j => decide (j = k)) from funext h3, keys_filter_eq _ _ _ h2.1 r.rising]
    simp [h1, h2.resolves r, Except.map]
  · rw [show p = _ from funext h5]
    have : ¬ (st ≠ 0 ∧ ref ≠ st) := by omega
    simp [h1, h2, h3, this]
  · rw [show p = (fun _ => true) from funext h3]
    simp [h1, h2]

theorem State.badSelector.refuses {s : State} {st form ref : Nat} {r : Reason} (h : s.badSelector st form ref r)
    (w : s.tr.trains.Wf) : s.selected st (form, ref) = .error r := by
  unfold State.selected
  rcases h with ⟨h1, h2⟩ | ⟨h1, h2, h3, h4⟩ | ⟨h1, h2, h3, h4⟩ | ⟨h1, h2, h3⟩ | ⟨h1, h2⟩
  · simp [h1, h2.refuses w, Except.map]
  · have : ¬ (1 ≤ ref ∧ ref ≤ 24) := by omega
    simp [h1, h2, h4, this]
  · simp [h1, h2, h3, h4]
  · simp [h1, h2, h3]
  · have : form ≠ 0 ∧ form ≠ 1 ∧ form ≠ 2 := by omega
    simp [this, h2]

/-! ### Frames that pass the tests -/

theorem openFrame_parts (s : State) (f : Frame) :
    (s.openFrame f).pm = s.pm ∧ (s.openFrame f).fs = s.fs ∧ (s.openFrame f).tr = s.tr ∧ (s.openFrame f).iu = s.iu ∧
      (s.openFrame f).ss = s.ss ∧ (s.openFrame f).tc = s.tc ∧ (s.openFrame f).awu = s.awu ∧
      (s.openFrame f).mc = s.mc ∧ (s.openFrame f).clp = s.clp ∧ (s.openFrame f).due = s.due :=
  ⟨rfl, rfl, rfl, rfl, rfl, rfl, rfl, rfl, rfl, rfl⟩

theorem answered_refused (code st : Nat) (close : State → State) (f : Frame) (w : State) (r : Reason) (p : List Byte)
    (h : f.station.toNat = st) :
    State.answered code st close (w, .refused r p) = w.answeredWith f code (.refused r p) := by
  simp [State.answered, State.answeredWith, Answer.isRefused, h]

theorem answered_done (code st : Nat) (close : State → State) (f : Frame) (w : State) (p : List Byte)
    (h : f.station.toNat = st) :
    State.answered code st close (w, .done p) = (close w).answeredWith f code (.done p) := by
  simp [State.answered, State.answeredWith, Answer.isRefused, h]

theorem answered_accepted (code st : Nat) (close : State → State) (f : Frame) (w : State) (p : List Byte)
    (h : f.station.toNat = st) :
    State.answered code st close (w, .accepted p) = (close w).answeredWith f code (.accepted p) := by
  simp [State.answered, State.answeredWith, Answer.isRefused, h]

end Sys2Proof.Machine
end

