-- ==== Sys2Proof/Tests/Slice0.lean ====
section
/-! SUPPORT. Tests on a small layout: what WellFormed refuses, one or two steps of each command, the manual's worked values,
and for each statement with hypotheses a state and operands that meet them. -/
open Sys2Proof Sys2Proof.Machine
namespace Sys2Proof.Tests
set_option Elab.async false

/-! ### A small layout

Staging section 1, section 2 with point 1, platform 3; the bridge 90 with roads 1 (index 0, section 91) and 2 (index 8,
section 92). Route 5 runs from signal 1 over sections 2 and 3 with point 1 normal. -/

/-- A REQUEST frame as the host sends it whole. -/
def frame (code st : Nat) (ps : List Byte) : Frame :=
  ⟨BitVec.ofNat 8 st, ps, frameCheck ([1#8, BitVec.ofNat 8 st, byte code, byte ps.length] ++ ps), 6 + ps.length, []⟩

/-- The plan of the layout. -/
def layout : Plan :=
  { sections := ⟨[
      (1, ⟨200, 0, .staging, 60, [⟨2, false, none⟩], [], 0⟩),
      (2, ⟨100, 1, .plain, 60, [⟨3, false, some (1, .normal)⟩], [⟨1, false, none⟩], 0⟩),
      (3, ⟨300, 2, .platform, 60, [], [⟨2, false, none⟩], 1⟩),
      (90, ⟨600, 3, .bridge, 20, [], [], 0⟩),
      (91, ⟨300, 4, .road, 20, [], [], 0⟩),
      (92, ⟨300, 5, .road, 20, [], [], 0⟩)]⟩,
    points := ⟨[(1, ⟨2, 10, 11, 6, 7, 3, 20, 40⟩)]⟩,
    signals := ⟨[(1, ⟨.main, 2, .east, 1, 16, some 17, some 18, some 19, none⟩)]⟩,
    routes := ⟨[(5, ⟨.main, 1, 0, [2, 3], [(1, .normal)], [], [], none⟩)]⟩,
    roads := ⟨[(1, ⟨0, 91, false⟩), (2, ⟨8, 92, false⟩)]⟩,
    demos := ⟨[(1, ⟨.run 5 25, 62, 120⟩), (2, ⟨.turn 2 .a, 61, 60⟩)]⟩,
    buttons := ⟨[(257, ⟨9, 30, 1⟩)]⟩,
    boards := ⟨[(1, ⟨[3]⟩)]⟩,
    turntable := {
      present := true, bridge := 90, indexBit := 12, homeBit := 13, lockBit := 14, cwBit := 20, acwBit := 21,
      releaseBit := 22 },
    device := { console1 := 1, console2 := 4, inputLength := 16, outputLength := 40 } }

/-- Engine 61 of cab 12 stands on the bridge. -/
def engine : Train :=
  { number := 61, cls := .lightEngine, length := 300, owner := .cab 12 1, span := [90], dir := .east,
    sense := .forward, state := .active, auto := false, overrun := false, requested := 0, granted := 0, route := none,
    dwell := none }

/-- Train 62 of the AWU stands in the staging section, facing signal 1. -/
def visitor : Train :=
  { engine with
    number := 62, cls := .demo, length := 150, owner := .awu, span := [1], auto := true }

/-- Input bits that read clear. -/
def clears (l : List Nat) : Tab InBit := ⟨l.map (fun n => (n, { value := false }))⟩

/-- RUN, the turntable LOCKED at 0, the two trains, everything else clear. -/
def running : State :=
  { pm := { plan := layout, valid := true },
    fs := { inLen := 16, outLen := 40, inputs := clears [1, 2, 4, 5, 7, 9, 12, 13], image := ⟨[(16, true)]⟩ },
    tr := {
      trains := ⟨[(1, engine), (2, visitor)]⟩, handles := ⟨[(12, { h1 := 1 })]⟩,
      keepAlive := ⟨[(12, .counting 100)]⟩ },
    iu := { points := ⟨[(1, { state := .normal })]⟩ },
    tc := { state := .locked, pos := some 0 },
    mc := { mode := .run } }

/-- The same layout in SETUP, with no train. -/
def setup : State := { running with tr := {}, mc := { mode := .setup } }

/-- The state after a command. -/
def after (c : Instr) (s : State) : State :=
  match exec c s with
  | .next t => t
  | _ => s

/-- The answer a command leaves in the reply holder. -/
def answer (c : Instr) (s : State) : Option Answer := (after c s).clp.holder.map Reply.answer

/-! ### What WellFormed refuses -/

/-- A frame whose length byte cannot count its parameters (R172). -/
def longFrame : Frame := ⟨0#8, List.replicate 256 0#8, 0#16, 0, []⟩
/-- A frame whose order names a block twice (log entry 3). -/
def twiceFrame : Frame := ⟨0#8, [], 0#16, 0, [.tr, .tr]⟩

theorem test_wf_long_frame : Instr.wellFormed (.goRun longFrame) = false := by decide +kernel
theorem test_wf_order_of_a_frame : Instr.wellFormed (.setRoute twiceFrame) = false := by decide
theorem test_wf_frame : Instr.wellFormed (.turn (frame 0x51 12 [2#8, 0#8, 4#8, 1#8, 0#8, 1#8])) = true := by decide
theorem test_wf_keep_alive_cab : Instr.wellFormed (.keepAliveExpiry 0 []) = false ∧
    Instr.wellFormed (.keepAliveExpiry 25 []) = false ∧ Instr.wellFormed (.keepAliveExpiry 24 []) = true := by decide
theorem test_wf_keep_alive_order : Instr.wellFormed (.keepAliveExpiry 1 [.iu, .iu]) = false := by decide
theorem test_wf_approach_slot : Instr.wellFormed (.approachTimerExpiry 33 []) = false ∧
    Instr.wellFormed (.approachTimerExpiry 0 []) = false := by decide
theorem test_wf_approach_order : Instr.wellFormed (.approachTimerExpiry 1 [.tc, .tc]) = false := by decide
theorem test_wf_pulse_point : Instr.wellFormed (.pulseExpiry 121) = false ∧
    Instr.wellFormed (.pulseExpiry 0) = false := by decide
theorem test_wf_throw_point : Instr.wellFormed (.throwTimeout 121 []) = false ∧
    Instr.wellFormed (.throwTimeout 0 []) = false := by decide
theorem test_wf_throw_order : Instr.wellFormed (.throwTimeout 1 [.ss, .tr, .ss]) = false := by decide
theorem test_wf_turntable_order : Instr.wellFormed (.turntableTimerExpiry [.tc, .tc]) = false := by decide
theorem test_wf_demo_order : Instr.wellFormed (.demoTimeout [.awu, .awu]) = false := by decide
theorem test_wf_dwell_slot : Instr.wellFormed (.dwellEnd 49 []) = false ∧ Instr.wellFormed (.dwellEnd 0 []) = false := by
  decide
theorem test_wf_dwell_order : Instr.wellFormed (.dwellEnd 1 [.awu, .awu]) = false := by decide
theorem test_wf_cooldown_panel : Instr.wellFormed (.cooldownExpiry 7) = false ∧
    Instr.wellFormed (.cooldownExpiry 0) = false := by decide
theorem test_wf_tick_order : Instr.wellFormed (.layoutTick ⟨false, false, false⟩ [.tr, .tr]) = false := by decide
theorem test_wf_scan_length : Instr.wellFormed (.scanCompletion (List.replicate 15 false) []) = false ∧
    Instr.wellFormed (.scanCompletion (List.replicate 521 false) []) = false := by decide +kernel
theorem test_wf_scan_order :
    Instr.wellFormed (.scanCompletion (List.replicate 16 false) [.iu, .iu]) = false := by decide
theorem test_wf_unknown_code : Instr.wellFormed (.unknownRequest 0x20#8 (frame 0x20 0 [])) = false ∧
    Instr.wellFormed (.unknownRequest 0x25#8 longFrame) = false := by decide +kernel
theorem test_no_word_spells_a_command : decodeTableWord 8 0x20 = none := rfl
theorem test_front_stays_without_a_word : State.reset.withFetchWord 8 0x20 = State.reset := rfl

/-! ### Steps of the commands -/

/-- R124: two trains that join in one event stand behind the list in ascending slot order. -/
theorem test_joins_of_one_event_ascend :
    (State.orderJoins [7] { running with ss := { urgent := [7, 5, 2] } }).ss.urgent = [7, 2, 5] := by decide +kernel

theorem test_reset_is_power_up : State.powerUp {} = State.reset := by decide +kernel
theorem test_power_up_loads_the_store :
    (after .powerUp { running with pm := { store := some layout } }).plan = layout := by decide +kernel
theorem test_power_up_lights_stop_lamps :
    (after .powerUp { running with pm := { store := some layout } }).out 16 = true := by decide +kernel
theorem test_reset_pin_leaves_setup_without_trains :
    ((after .resetPin running).mc.mode, (after .resetPin running).tr) = (.setup, {}) := by decide +kernel
theorem test_plan_clear_keeps_the_mode :
    ((after (.planClear (frame 0x10 0 [])) setup).plan, (after (.planClear (frame 0x10 0 [])) setup).mc.mode) =
      ({}, .setup) := by decide +kernel
theorem test_plan_clear_outside_setup :
    answer (.planClear (frame 0x10 0 [])) running = some (.refused .badMode []) := by decide +kernel
theorem test_plan_write_a_board :
    ((after (.planWrite (frame 0x11 0 [8#8, 0#8, 2#8, 0#8, 1#8, 3#8])) setup).plan.boards.get? 2, (after (.planWrite (frame 0x11 0 [8#8, 0#8, 2#8, 0#8, 1#8, 3#8])) setup).pm.valid) =
      (some ⟨[3]⟩, false) := by decide +kernel
theorem test_plan_write_of_a_cab :
    answer (.planWrite (frame 0x11 3 [8#8, 0#8, 2#8, 0#8, 1#8, 3#8])) setup =
      some (.refused .notPermitted []) := by decide +kernel
theorem test_plan_read_a_road :
    answer (.planRead (frame 0x12 24 [4#8, 0#8, 2#8])) running = some (.done [8#8, 92#8, 0#8]) := by decide +kernel
theorem test_plan_read_out_of_range :
    answer (.planRead (frame 0x12 0 [4#8, 0#8, 21#8])) running = some (.refused .range []) := by decide +kernel
theorem test_plan_check_passes : answer (.planCheck (frame 0x13 0 [])) setup = some (.done []) := by decide +kernel
theorem test_plan_check_names_the_empty_plan :
    answer (.planCheck (frame 0x13 0 [])) State.reset =
      some (.refused .planInvalid [2#8, 0#8, 0#8, 0#8]) := by decide +kernel
theorem test_plan_save_blanks_the_store :
    (after (.planSave (frame 0x14 0 [])) running).pm =
      { plan := layout, valid := true, store := none, saving := true } := by decide +kernel
theorem test_plan_save_of_an_unchecked_plan :
    answer (.planSave (frame 0x14 0 [])) State.reset = some (.refused .planInvalid []) := by decide +kernel
theorem test_save_end_stores_the_plan :
    (after (.saveEnd true) { running with pm := { running.pm with saving := true } }).pm =
      { plan := layout, valid := true, store := some layout } := by decide +kernel
theorem test_save_end_that_fails_notices :
    (after (.saveEnd false) { running with pm := { running.pm with saving := true } }).clp.notices =
      [⟨.planSaveFailed, 0, 1, 0⟩] := by decide +kernel
theorem test_plan_load_from_a_blank_store :
    answer (.planLoad (frame 0x15 0 [])) setup = some (.refused .noSuch []) := by decide +kernel
theorem test_plan_load_takes_the_stored_plan :
    (after (.planLoad (frame 0x15 0 [])) { State.reset with pm := { store := some layout } }).plan =
      layout := by decide +kernel
theorem test_go_run_marks_occupied_sections_stray :
    ((after (.goRun (frame 0x20 0 [])) setup).stray 1, (after (.goRun (frame 0x20 0 [])) setup).stray 2) =
      (true, false) := by decide +kernel
theorem test_go_run_of_a_cab :
    answer (.goRun (frame 0x20 1 [])) setup = some (.refused .notPermitted []) := by decide +kernel
theorem test_go_quiet : (after (.goQuiet (frame 0x21 0 [])) running).mc.mode = .quiet := by decide +kernel
theorem test_go_quiet_in_setup :
    answer (.goQuiet (frame 0x21 0 [])) setup = some (.refused .badMode []) := by decide +kernel
theorem test_stop_all_by_a_cab :
    (after (.stopAll (frame 0x22 24 [])) running).mc = { mode := .stop, remembered := some .run } := by decide +kernel
theorem test_stop_all_broadcasts :
    (after (.stopAll (frame 0x22 24 [])) running).ss.port = some ⟨0, 0, .forward, true⟩ := by decide +kernel
theorem test_resume_goes_back :
    (after (.resume (frame 0x23 0 [])) { running with mc := { mode := .stop, remembered := some .quiet } }).mc =
      { mode := .quiet } := by decide +kernel
theorem test_resume_with_a_fault_present :
    answer (.resume (frame 0x23 0 [])) { running with mc := { mode := .stop, remembered := some .quiet }, fs := { running.fs with chain := .fault } } =
      some (.refused .faultPresent []) := by decide +kernel
theorem test_reset_layout_empties_the_register :
    ((after (.resetLayout (frame 0x24 0 [])) running).tr, (after (.resetLayout (frame 0x24 0 [])) running).tc) =
      ({}, { state := .locked, pos := some 0 }) := by decide +kernel
theorem test_reset_layout_of_a_cab :
    answer (.resetLayout (frame 0x24 12 [])) running = some (.refused .notPermitted []) := by decide +kernel
theorem test_enter_train_takes_the_lowest_slot :
    ((after (.enterTrain (frame 0x30 0 [0#8, 9#8, 0#8, 0#8, 150#8, 1#8, 3#8, 0#8, 0#8, 0#8]))
      { running with fs := { running.fs with inputs := clears [1, 4, 5, 7, 9, 12, 13] } }).train? 3) =
    some { engine with number := 9, cls := .express, length := 150, owner := .supervisor, span := [3] } := by decide +kernel
theorem test_enter_train_on_a_clear_section :
    answer (.enterTrain (frame 0x30 0 [0#8, 9#8, 0#8, 0#8, 150#8, 1#8, 3#8, 0#8, 0#8, 0#8])) running =
      some (.refused .conflict []) := by decide +kernel
theorem test_retire_train_leaves_a_stray_section :
    ((after (.retireTrain (frame 0x31 0 [0#8, 61#8])) running).train? 1, (after (.retireTrain (frame 0x31 0 [0#8, 61#8])) running).stray 90) =
      (none, true) := by decide +kernel
theorem test_retire_train_of_a_cab_off_staging :
    answer (.retireTrain (frame 0x31 12 [0#8, 1#8])) running = some (.refused .notPermitted []) := by decide +kernel
theorem test_acquire_train_of_another_owner :
    answer (.acquireTrain (frame 0x32 12 [0#8, 62#8, 255#8])) running =
      some (.refused .notOwner []) := by decide +kernel
theorem test_acquire_train_by_the_supervisor :
    ((after (.acquireTrain (frame 0x32 0 [0#8, 61#8, 255#8])) running).train? 1).map Train.owner =
      some .supervisor := by decide +kernel
theorem test_release_train_empties_the_handle :
    ((after (.releaseTrain (frame 0x33 12 [0#8, 1#8])) running).handles 12, (after (.releaseTrain (frame 0x33 12 [0#8, 1#8])) running).keepAliveOf 12) =
      ({}, .absent) := by decide +kernel
theorem test_release_train_at_an_empty_handle :
    answer (.releaseTrain (frame 0x33 12 [0#8, 2#8])) running = some (.refused .noSuch []) := by decide +kernel
theorem test_set_speed_is_at_most_63 :
    ((after (.setSpeed (frame 0x34 12 [0#8, 1#8, 255#8])) running).train? 1).map Train.requested =
      some 63 := by decide +kernel
theorem test_set_speed_of_handle_4 :
    answer (.setSpeed (frame 0x34 12 [0#8, 4#8, 9#8])) running = some (.refused .range []) := by decide +kernel
theorem test_reverse_train_turns_the_head :
    ((after (.reverseTrain (frame 0x35 12 [0#8, 1#8])) running).train? 1).map (fun x => (x.dir, x.sense)) =
      some (.west, .backward) := by decide +kernel
theorem test_reverse_train_with_a_grade_asked_for :
    answer (.reverseTrain (frame 0x35 12 [0#8, 1#8])) { running with tr := { running.tr with trains := ⟨[(1, { engine with requested := 1 })]⟩ } } =
      some (.refused .busy []) := by decide +kernel
theorem test_hold_one :
    ((after (.hold (frame 0x36 12 [0#8, 0#8, 1#8])) running).train? 1).map Train.state =
      some .held := by decide +kernel
theorem test_hold_all_of_a_cab :
    answer (.hold (frame 0x36 12 [2#8, 0#8, 0#8])) running = some (.refused .notPermitted []) := by decide +kernel
theorem test_unhold_all :
    ((after (.unhold (frame 0x37 0 [2#8, 0#8, 0#8])) { running with tr := { running.tr with trains := ⟨[(1, { engine with state := .held })]⟩ } }).train? 1).map Train.state =
      some .active := by decide +kernel
theorem test_set_auto_clear :
    ((after (.setAuto (frame 0x38 0 [0#8, 0#8, 62#8, 1#8])) running).train? 2).map Train.auto =
      some false := by decide +kernel
theorem test_set_auto_of_no_value :
    answer (.setAuto (frame 0x38 0 [0#8, 0#8, 62#8, 2#8])) running = some (.refused .range []) := by decide +kernel
theorem test_keep_alive_restarts_the_countdown :
    (after (.keepAlive (frame 0x39 12 [])) { running with tr := { running.tr with keepAlive := ⟨[(12, .counting 1)]⟩ } }).keepAliveOf 12 =
      .counting 100 := by decide +kernel
theorem test_seek_train :
    answer (.seekTrain (frame 0x3A 24 [0#8, 62#8])) running = some (.done [2#8, 0#8, 62#8]) := by decide +kernel
theorem test_seek_train_out_of_range :
    answer (.seekTrain (frame 0x3A 24 [39#8, 16#8])) running = some (.refused .range []) := by decide +kernel
theorem test_read_train_field_at_the_cursor :
    answer (.readTrainField (frame 0x3B 0 [4#8])) { running with tr := { running.tr with cursor := 1 } } =
      some (.done [1#8, 0#8, 61#8, 1#8, 90#8]) := by decide +kernel
theorem test_read_train_field_advances :
    answer (.readTrainField (frame 0x3B 0 [4#8])) { running with tr := { running.tr with cursor := 1, repeatField := some 4 } } =
      some (.done [2#8, 0#8, 62#8, 1#8, 1#8]) := by decide +kernel
theorem test_read_train_record_at_the_end :
    answer (.readTrainRecord (frame 0x3C 0 [])) running = some (.done [0#8]) := by decide +kernel
theorem test_read_train_record_has_25_bytes :
    (answer (.readTrainRecord (frame 0x3C 0 [])) { running with tr := { running.tr with cursor := 1 } }).map (fun a => match a with | .done p => p.length | _ => 0) =
      some 25 := by decide +kernel
theorem test_set_route_clears_at_once :
    answer (.setRoute (frame 0x40 0 [0#8, 5#8, 0#8, 62#8, 0#8, 0#8])) running =
      some (.accepted [0#8, 1#8]) := by decide +kernel
theorem test_set_route_shows_caution :
    ((after (.setRoute (frame 0x40 0 [0#8, 5#8, 0#8, 62#8, 0#8, 0#8])) running).signal 1).aspect =
      .caution := by decide +kernel
theorem test_cancel_route_with_the_approach_occupied :
    ((after (.cancelRoute (frame 0x41 0 [0#8, 5#8])) (after (.fetchReply 99) (after (.setRoute (frame 0x40 0 [0#8, 5#8, 0#8, 62#8, 0#8, 0#8])) running))).route? 1).map (fun r => (r.state, r.approach)) =
      some (.cancelling, some 300) := by decide +kernel
theorem test_cancel_route_that_is_not_set :
    answer (.cancelRoute (frame 0x41 0 [0#8, 5#8])) running = some (.refused .noSuch []) := by decide +kernel
theorem test_point_test_commands_the_point :
    (after (.pointTest (frame 0x42 0 [1#8, 1#8])) setup).point 1 =
      { state := .movingR, pulse := some (.reverse, 3), throw := some 20 } := by decide +kernel
theorem test_point_test_outside_setup :
    answer (.pointTest (frame 0x42 0 [1#8, 1#8])) running = some (.refused .badMode []) := by decide +kernel
theorem test_read_route_not_set :
    answer (.readRoute (frame 0x43 0 [0#8, 5#8])) running = some (.done [2#8]) := by decide +kernel
theorem test_read_section_of_the_bridge :
    answer (.readSection (frame 0x44 0 [90#8])) running =
      some (.done [1#8, 0#8, 0#8, 0#8, 0#8, 255#8, 0#8, 0#8, 61#8]) := by decide +kernel
theorem test_read_point :
    answer (.readPoint (frame 0x45 0 [1#8])) running =
      some (.done [0#8, 0#8, 255#8, 0#8, 1#8, 0#8, 0#8]) := by decide +kernel
theorem test_read_signal_at_stop :
    answer (.readSignal (frame 0x46 0 [1#8])) running =
      some (.done [0#8, 0#8, 0#8, 0#8, 0#8, 1#8, 0#8, 0#8, 0#8, 255#8]) := by decide +kernel
theorem test_clear_fault_of_a_point :
    ((after (.clearFault (frame 0x47 0 [0#8, 0#8, 1#8])) { running with iu := { points := ⟨[(1, { state := .failed, fault := true })]⟩ } }).point 1) =
      { state := .normal } := by decide +kernel
theorem test_clear_fault_of_a_cab :
    answer (.clearFault (frame 0x47 12 [2#8, 0#8, 0#8])) running =
      some (.refused .notPermitted []) := by decide +kernel
theorem test_home_turntable_releases_the_lock :
    ((after (.homeTurntable (frame 0x50 0 [])) running).tc.phase, (after (.homeTurntable (frame 0x50 0 [])) running).out 22) =
      (some .release, true) := by decide +kernel
theorem test_home_turntable_while_moving :
    answer (.homeTurntable (frame 0x50 0 [])) { running with tc := { running.tc with state := .moving } } =
      some (.refused .busy []) := by decide +kernel
theorem test_turn_granted :
    answer (.turn (frame 0x51 12 [2#8, 0#8, 4#8, 1#8, 0#8, 1#8])) running =
      some (.accepted [1#8, 6#8, 1#8]) := by decide +kernel
theorem test_turn_plans_8_steps_clockwise :
    ((after (.turn (frame 0x51 12 [2#8, 0#8, 4#8, 1#8, 0#8, 1#8])) running).tc.move, (after (.turn (frame 0x51 12 [2#8, 0#8, 4#8, 1#8, 0#8, 1#8])) running).tc.burst) =
      (some ⟨8, .a, .clockwise, 8⟩, some 12) := by decide +kernel
theorem test_withdraw_turn_of_the_served_request :
    answer (.withdrawTurn (frame 0x52 12 [0#8, 0#8, 1#8])) (after (.fetchReply 99) (after (.turn (frame 0x51 12 [2#8, 0#8, 4#8, 1#8, 0#8, 1#8])) running)) =
      some (.refused .busy []) := by decide +kernel
theorem test_withdraw_turn_of_nothing :
    answer (.withdrawTurn (frame 0x52 0 [1#8, 2#8, 0#8, 255#8])) running =
      some (.refused .noSuch []) := by decide +kernel
theorem test_read_turntable :
    answer (.readTurntable (frame 0x53 0 [])) running =
      some (.done [2#8, 255#8, 255#8, 0#8, 255#8, 255#8, 255#8, 255#8, 0#8, 255#8, 0#8, 0#8]) := by decide +kernel
theorem test_start_demo :
    answer (.startDemo (frame 0x60 0 [1#8])) running = some (.accepted [1#8]) := by decide +kernel
theorem test_start_demo_outside_run :
    answer (.startDemo (frame 0x60 0 [1#8])) setup = some (.refused .badMode []) := by decide +kernel
theorem test_stop_demo_ends_it :
    ((after (.stopDemo (frame 0x61 0 [1#8])) { running with awu := { running := some ⟨1, 62, 1, 1, 5⟩ } }).awu.running, Tab.getD 0 (after (.stopDemo (frame 0x61 0 [1#8])) { running with awu := { running := some ⟨1, 62, 1, 1, 5⟩ } }).awu.cooldown 1) =
      (none, 200) := by decide +kernel
theorem test_stop_demo_that_does_not_wait :
    answer (.stopDemo (frame 0x61 0 [1#8])) running = some (.refused .noSuch []) := by decide +kernel
theorem test_read_board_without_a_line :
    answer (.readBoard (frame 0x62 0 [1#8])) running = some (.done [0#8, 0#8]) := by decide +kernel
theorem test_read_panel_has_four_buttons :
    (answer (.readPanel (frame 0x63 0 [1#8])) running).map (fun a => match a with | .done p => (p.length, p.take 4) | _ => (0, [])) =
      some (24, [4#8, 1#8, 1#8, 0#8]) := by decide +kernel
theorem test_clear_status :
    (after (.clearStatus (frame 0x70 0 [])) { running with clp := { dropped := true, noticeLost := true } }).clp.dropped =
      false := by decide +kernel
theorem test_clear_status_of_a_cab :
    answer (.clearStatus (frame 0x70 12 [])) running = some (.refused .notPermitted []) := by decide +kernel
theorem test_set_notice_mask :
    (after (.setNoticeMask (frame 0x71 0 [31#8, 0#8, 1#8])) running).clp.mask = 0x1F0001#21 := by decide +kernel
theorem test_set_notice_mask_beyond_21_bits :
    answer (.setNoticeMask (frame 0x71 0 [32#8, 0#8, 0#8])) running = some (.refused .range []) := by decide +kernel
theorem test_identify :
    answer (.identify (frame 0x72 24 [])) running =
      some (.done [240#8, 1#8, 0#8, 16#8, 0#8, 40#8]) := by decide +kernel
theorem test_keep_alive_expiry :
    ((after (.keepAliveExpiry 12 []) { running with tr := { running.tr with keepAlive := ⟨[(12, .counting 1)]⟩ } }).keepAliveOf 12, (after (.keepAliveExpiry 12 []) { running with tr := { running.tr with keepAlive := ⟨[(12, .counting 1)]⟩ } }).clp.notices) =
      (.expired, [⟨.cabExpired, 12, 1, 0⟩]) := by decide +kernel
theorem test_approach_timer_expiry_retires_the_route :
    ((after (.approachTimerExpiry 1 []) { running with iu := { running.iu with routes := ⟨[(1, ⟨5, none, 0, .cancelling, [.reserved, .reserved], 0, some 1⟩)]⟩, marks := ⟨[(2, .route 1), (3, .route 1)]⟩ } }).route? 1, (after (.approachTimerExpiry 1 []) { running with iu := { running.iu with routes := ⟨[(1, ⟨5, none, 0, .cancelling, [.reserved, .reserved], 0, some 1⟩)]⟩, marks := ⟨[(2, .route 1), (3, .route 1)]⟩ } }).mark 3) =
      (none, .free) := by decide +kernel
theorem test_pulse_expiry_ends_the_output :
    ((after (.pulseExpiry 1) { running with iu := { running.iu with points := ⟨[(1, { state := .movingR, pulse := some (.reverse, 1), throw := some 1 })]⟩ }, fs := { running.fs with image := ⟨[(11, true)]⟩ } }).out 11, ((after (.pulseExpiry 1) { running with iu := { running.iu with points := ⟨[(1, { state := .movingR, pulse := some (.reverse, 1), throw := some 1 })]⟩ }, fs := { running.fs with image := ⟨[(11, true)]⟩ } }).point 1).pulse) =
      (false, none) := by decide +kernel
theorem test_throw_timeout_fails_the_point :
    ((after (.throwTimeout 1 []) { running with iu := { running.iu with points := ⟨[(1, { state := .movingR, pulse := some (.reverse, 1), throw := some 1 })]⟩ }, fs := { running.fs with image := ⟨[(11, true)]⟩ } }).point 1, (after (.throwTimeout 1 []) { running with iu := { running.iu with points := ⟨[(1, { state := .movingR, pulse := some (.reverse, 1), throw := some 1 })]⟩ }, fs := { running.fs with image := ⟨[(11, true)]⟩ } }).clp.notices) =
      ({ state := .failed, fault := true }, [⟨.pointFailed, 1, 1, 0⟩]) := by decide +kernel
theorem test_turntable_timer_expiry_faults :
    ((after (.turntableTimerExpiry []) { running with tc := { state := .moving, pos := some 3, timer := some 1 } }).tc, (after (.turntableTimerExpiry []) { running with tc := { state := .moving, pos := some 3, timer := some 1 } }).clp.notices) =
      ({ state := .faulted, pos := some 3 }, [⟨.turntableFault, 2, 1, 0⟩]) := by decide +kernel
theorem test_demo_timeout :
    ((after (.demoTimeout []) { running with awu := { running := some ⟨1, 62, 0, 0, 1⟩ } }).awu.running, (after (.demoTimeout []) { running with awu := { running := some ⟨1, 62, 0, 0, 1⟩ } }).clp.notices) =
      (none, [⟨.demoEnded, 1, 1, 2⟩]) := by decide +kernel
theorem test_dwell_end_restores_the_grade_and_asks_for_the_route :
    ((after (.dwellEnd 2 []) { running with tr := { running.tr with trains := ⟨[(2, { visitor with dwell := some 1 })]⟩ }, awu := { dwells := ⟨[(2, ⟨25, 5⟩)]⟩ } }).train? 2).map (fun x => (x.requested, x.dwell, x.route)) =
      some (25, none, some 1) := by decide +kernel
theorem test_cooldown_expiry :
    (after (.cooldownExpiry 1) { running with awu := { cooldown := ⟨[(1, 1)]⟩ } }).awu.cooldown =
      ⟨[]⟩ := by decide +kernel
theorem test_fetch_reply_of_an_empty_holder :
    (after (.fetchReply 7) running).linkOut.take 5 = [1#8, 0#8, 0#8, 0#8, 0#8] := by decide +kernel
theorem test_fetch_reply_cut_short_keeps_the_reply :
    (after (.fetchReply 6) { running with clp := { holder := some ⟨0x20, .done []⟩ } }).clp.holder =
      some ⟨0x20, .done []⟩ := by decide +kernel
theorem test_fetch_notice_takes_the_safety_notice_first :
    (after (.fetchNotice (.whole 10)) { running with clp := { notices := [⟨.routeSet, 57, 1, 0⟩, ⟨.boardChanged, 3, 2, 0⟩, ⟨.pointFailed, 4, 1, 0⟩] } }).clp.notices =
      [⟨.routeSet, 57, 1, 0⟩, ⟨.boardChanged, 3, 2, 0⟩] := by decide +kernel
theorem test_layout_tick_samples_twice :
    (after (.layoutTick ⟨true, false, false⟩ []) (after (.layoutTick ⟨true, false, false⟩ []) running)).mc =
      { mode := .stop, remembered := some .run, ticks := 2 } := by decide +kernel
theorem test_scan_with_a_mismatch_is_discarded :
    ((after (.scanCompletion (List.replicate 24 false) []) running).fs.chain, (after (.scanCompletion (List.replicate 24 false) []) running).fs.inputs) =
      (.suspect, running.fs.inputs) := by decide +kernel
theorem test_scan_twice_set_is_occupied :
    (after (.scanCompletion ((List.range 16).map (fun n => decide (n ∈ [0, 1, 3, 6, 8, 10, 11, 14, 15])) ++ [false, true, false, true, true, false, true, false]) []) (after (.scanCompletion ((List.range 16).map (fun n => decide (n ∈ [0, 1, 3, 6, 8, 10, 11, 14, 15])) ++ [true, false, true, false, false, true, false, true]) []) running)).clp.notices =
      [⟨.overrun, 62, 1, 0⟩] := by decide +kernel
theorem test_order_completion_takes_the_urgent_train :
    (after .orderCompletion { running with ss := { urgent := [2, 1], port := some ⟨61, 0, .forward, false⟩ } }).ss =
      { urgent := [1], port := some ⟨62, 0, .forward, false⟩ } := by decide +kernel
theorem test_order_completion_sends_the_refresh :
    (after .orderCompletion { running with ss := { refresh := 2, port := some ⟨61, 0, .forward, false⟩ } }).ss =
      { refresh := 1, port := some ⟨61, 0, .forward, false⟩ } := by decide +kernel
theorem test_unknown_request :
    answer (.unknownRequest 0x25#8 (frame 0x25 0 [])) running =
      some (.refused .unknownRequest []) := by decide +kernel

/-! ### The manual's worked values -/

theorem test_broadcast_characters : stopAllOrder.characters = [0x7E#8, 0x00#8, 0x00#8, 0x80#8, 0xFE#8] := by decide
theorem test_braking_of_the_goods_train :
    brakingLimit 6 120 = 37 ∧ brakingLimit 6 50 = 24 ∧ brakingLimit 6 0 = 0 := by decide
theorem test_barred_sector : planMove 10 40 .either (some 44) = some ⟨16, .b, .clockwise, 6⟩ ∧
    planMove 10 40 .a (some 44) = some ⟨40, .a, .clockwise, 30⟩ := by decide
theorem test_opposite_goes_clockwise : planMove 0 24 .a none = some ⟨24, .a, .clockwise, 24⟩ := by decide
theorem test_engine_62_turns_back : planMove 8 24 .b none = some ⟨0, .b, .anticlockwise, 8⟩ := by decide


/-! ### The statements' hypotheses are met: helpers -/

/-- A property of the rows of a table holds of all it holds. -/
theorem rows_all {α : Type} {t : Tab α} {P : Nat → α → Prop} (h : ∀ r ∈ t.rows, P r.1 r.2) (k : Nat) (x : α)
    (e : t.get? k = some x) : P k x := h (k, x) (rowsGet_mem _ _ _ e)

/-- What is absent is nothing. -/
theorem absent {α : Type} {o : Option α} {x : α} (h : o = none) (e : o = some x) : False := by
  rw [h] at e
  cases e

theorem carries_frame (code st : Nat) (ps : List Byte) (h : st ≤ 24) (l : ps.length ≤ 64) :
    Carries (frame code st ps) code st ps where
  carried := rfl
  sender := by simp [frame]; omega
  cab := h
  length := l
  check := rfl
  clocked := Nat.le_refl _

theorem registerLaw_of (s : State) (a : s.tr.trains.Wf) (b : ∀ k ∈ s.tr.trains.keys, 1 ≤ k ∧ k ≤ 48)
    (c : ∀ r ∈ s.tr.trains.rows, ∀ q ∈ s.tr.trains.rows, r.2.number = q.2.number → r.1 = q.1)
    (d : s.mc.mode ≠ .setup) : RegisterLaw s where
  rising := a
  slots := b
  numbers j k x y hj hk e := c (j, x) (rowsGet_mem _ _ _ hj) (k, y) (rowsGet_mem _ _ _ hk) e
  setup h := absurd h d

theorem routeLaw_of (s : State) (a : s.iu.routes.Wf) (b : ∀ k ∈ s.iu.routes.keys, 1 ≤ k ∧ k ≤ 32)
    (c : s.iu.routes.rows.length ≤ 1) (e : s.iu.stack = []) (d : s.mc.mode ≠ .setup) : RouteLaw s where
  rising := a
  slots := b
  entries := by
    intro j k g hj hk
    have only : ∀ n, s.entrySignal n = some g → ∃ r, (n, r) ∈ s.iu.routes.rows := by
      intro n hn
      unfold State.entrySignal at hn
      cases h : s.route? n with
      | none => simp [h] at hn
      | some r => exact ⟨r, rowsGet_mem _ _ _ h⟩
    obtain ⟨r, hr⟩ := only j hj
    obtain ⟨q, hq⟩ := only k hk
    match h : s.iu.routes.rows with
    | [] => rw [h] at hr; cases hr
    | [x] =>
      rw [h] at hr hq
      have p1 := List.mem_singleton.mp hr
      have p2 := List.mem_singleton.mp hq
      exact (congrArg Prod.fst p1).trans (congrArg Prod.fst p2).symm
    | x :: y :: l => rw [h] at c; simp at c
  few := by simp [e]
  once := by simp [e]
  levels := by simp [e]
  setup h := absurd h d

theorem running_register : RegisterLaw running :=
  registerLaw_of _ (by decide) (by decide) (by decide) (by decide)
theorem running_routes : RouteLaw running := routeLaw_of _ (by decide) (by decide) (by decide) rfl (by decide)
theorem running_still : running.Still := ⟨rfl, .inr rfl, .inr (.inr rfl), .inr ⟨rfl, rfl, rfl⟩⟩
theorem running_quiet : running.Quiet := ⟨rfl, .inr rfl⟩

/-- Route 5 set for train 62, which is asked for grade 25 and has been granted 2. -/
def cleared : State :=
  after (.layoutTick ⟨false, false, false⟩ []) (after (.fetchReply 99)
    (after (.setSpeed (frame 0x34 0 [0#8, 62#8, 25#8])) (after (.fetchReply 99)
      (after (.setRoute (frame 0x40 0 [0#8, 5#8, 0#8, 62#8, 0#8, 0#8])) running))))

theorem test_cleared_route_lets_the_train_go :
    ((cleared.signal 1).aspect, (cleared.train? 2).map Train.granted, (cleared.route? 1).map ActiveRoute.state) =
      (.caution, some 2, some .cleared) := by decide +kernel

theorem cleared_register : RegisterLaw cleared :=
  registerLaw_of _ (by decide +kernel) (by decide +kernel) (by decide +kernel) (by decide +kernel)
theorem cleared_routes : RouteLaw cleared :=
  routeLaw_of _ (by decide +kernel) (by decide +kernel) (by decide +kernel) (by decide +kernel) (by decide +kernel)
theorem cleared_aspects : AspectLaw cleared where
  rising := cleared_register.rising
  signals := by decide +kernel
  shown signal g h := rows_all (t := cleared.plan.signals)
    (P := fun k _ => (cleared.signal k).aspect = cleared.aspectOf k) (by decide +kernel) signal g h
theorem cleared_grades : GradeLaw cleared where
  rising := cleared_register.rising
  below slot x h := rows_all (t := cleared.tr.trains) (P := fun k x => x.granted ≤ cleared.targetOf k x)
    (by decide +kernel) slot x h

/-! ### The statements' hypotheses are met: the machine and the link -/

/-- EveryCommandAnswers: a well-formed command. -/
theorem witness_EveryCommandAnswers : (Instr.throwTimeout 120 [.iu, .tr]).wellFormed = true := by decide

theorem handleLaw_running : HandleLaw running where
  rising := by decide
  names := by
    intro cab handle slot h0
    constructor
    · rintro ⟨x, h, e⟩
      have all := rows_all (t := running.tr.trains)
        (P := fun k x => ∀ c j, x.owner = .cab c j → c = 12 ∧ j = 1 ∧ k = 1)
        (by simp [running, engine, visitor]) slot x h cab handle e
      obtain ⟨rfl, rfl, rfl⟩ := all
      decide
    · rintro ⟨h1, h3, e⟩
      by_cases c : cab = 12
      · subst c
        have : handle = 1 ∨ handle = 2 ∨ handle = 3 := by omega
        rcases this with rfl | rfl | rfl
        · exact ⟨engine, by rw [← e]; rfl, by decide⟩
        · exact absurd e (fun h => h0 (h.symm.trans rfl))
        · exact absurd e (fun h => h0 (h.symm.trans rfl))
      · have : running.handles cab = {} := by
          unfold State.handles running Tab.getD
          simp [rowsGet, Ne.symm c]
        rw [this] at e
        have : handle = 1 ∨ handle = 2 ∨ handle = 3 := by omega
        rcases this with rfl | rfl | rfl <;> exact absurd e (fun h => h0 (h.symm.trans rfl))

/-- NoticeLawKept, RouteLawKept, TurnVisitorAndModeLawsKept, RegisterAndHandleLawsKept, PlanAndChainLawsKept,
AspectLawKept, GradeLawKept: a tick on a layout with a cleared route and a train under way. -/
theorem witness_the_laws_and_a_step :
    ModeLaw cleared ∧ NoticeLaw cleared.clp ∧ RouteLaw cleared ∧ TurnLaw cleared ∧ VisitorLaw cleared ∧
      RegisterLaw cleared ∧ PlanForm cleared.plan ∧ (∀ p, cleared.pm.store = some p → PlanForm p) ∧ PlanLaw cleared ∧
      ChainLaw cleared ∧ AspectLaw cleared ∧ GradeLaw cleared ∧
      ∃ t, step { cleared with pending := [.layoutTick ⟨false, false, false⟩ []] } = .next t :=
  ⟨⟨by decide +kernel, by decide +kernel⟩,
    ⟨by decide +kernel, by decide +kernel, by decide +kernel,
      fun _ h => (absent (by decide +kernel) h).elim⟩,
    cleared_routes,
    ⟨by decide +kernel, by decide +kernel, by decide +kernel⟩,
    ⟨by decide +kernel, by decide +kernel,
      fun _ h => (absent (by decide +kernel) h).elim⟩,
    cleared_register,
    by constructor <;> decide +kernel,
    fun _ h => (absent (by decide +kernel) h).elim,
    fun _ => by decide +kernel,
    ⟨by decide +kernel, fun _ => by decide +kernel⟩, cleared_aspects, cleared_grades, ⟨_, rfl⟩⟩

/-- RegisterAndHandleLawsKept: the law of handles. -/
theorem witness_HandleLaw : HandleLaw running ∧ RegisterLaw running ∧ ModeLaw running :=
  ⟨handleLaw_running, running_register, by decide, by decide⟩

/-- PlanChangesOnlyInSetup: a PLAN CLEAR that empties the plan, and a PLAN CHECK that sets the flag. -/
theorem witness_PlanChangesOnlyInSetup :
    (∃ t, exec (.planClear (frame 0x10 0 [])) setup = .next t ∧ t.plan ≠ setup.plan) ∧
      ∃ (s t : State), s.pm.valid = false ∧ exec (.planCheck (frame 0x13 0 [])) s = .next t ∧ t.pm.valid = true :=
  ⟨⟨after (.planClear (frame 0x10 0 [])) setup, rfl, by decide +kernel⟩,
    { setup with pm := { plan := layout } },
    after (.planCheck (frame 0x13 0 [])) { setup with pm := { plan := layout } }, rfl, rfl, by decide +kernel⟩

/-- ProceedIsProved: a signal at CAUTION, and a train that runs on no route. -/
theorem witness_ProceedIsProved :
    (RouteLaw cleared ∧ AspectLaw cleared ∧ cleared.plan.signals.get? 1 ≠ none ∧ (cleared.signal 1).aspect ≠ .stop) ∧
      GradeLaw cleared ∧ cleared.train? 1 ≠ none ∧ cleared.startRoute 1 = none :=
  ⟨⟨cleared_routes, cleared_aspects, by decide +kernel, by decide +kernel⟩, cleared_grades, by decide +kernel,
    by decide +kernel⟩

/-- FramesTheLinkKeeps: a frame cut one byte short, a reply held, a bad check, 65 parameters, station 40, station 25 and a
parameter too many. -/
theorem witness_FramesTheLinkKeeps :
    requestOf (.goRun (frame 0x20 0 [])) = some (0x20, frame 0x20 0 []) ∧
      frameComplete { frame 0x20 0 [] with clocked := 5 } = false ∧ frameComplete (frame 0x20 0 []) = true ∧
      (after (.goRun (frame 0x20 0 [])) running).clp.holder ≠ none ∧ running.listening ∧
      ({ frame 0x20 0 [] with check := 0#16 } : Frame).check ≠ frameCheck (frameBytes (frame 0x20 0 []) 0x20) ∧
      64 < (frame 0x20 0 (List.replicate 65 0#8)).params.length ∧ (frame 0x20 40 []).station = 40#8 ∧
      24 < (frame 0x20 25 []).station.toNat ∧ 0x20 ∈ bareRequests ∧ (frame 0x20 0 [0#8]).params ≠ [] ∧
      (frame 0x20 40 []).check = frameCheck (frameBytes (frame 0x20 40 []) 0x20) := by
  have whole : frameComplete (frame 0x20 0 []) = true ∧ frameComplete { frame 0x20 0 [] with clocked := 5 } = false ∧
      (after (.goRun (frame 0x20 0 [])) running).clp.holder ≠ none := by decide +kernel
  have checked : ({ frame 0x20 0 [] with check := 0#16 } : Frame).check ≠ frameCheck (frameBytes (frame 0x20 0 []) 0x20) ∧
      (frame 0x20 40 []).check = frameCheck (frameBytes (frame 0x20 40 []) 0x20) := by decide +kernel
  exact ⟨rfl, whole.2.1, whole.1, whole.2.2, rfl, checked.1, by decide, rfl, by decide, by decide, by decide, checked.2⟩

/-- UnknownRequestAnswered: the code after the last of a block, cut short and complete, with and without a reply held. -/
theorem witness_UnknownRequestAnswered :
    namesRequest (0x25#8).toNat = false ∧ namesRequest (0x24#8).toNat = true ∧
      frameComplete (frame 0x25 0 []) = true ∧ frameComplete { frame 0x25 0 [] with clocked := 5 } = false ∧
      running.listening ∧ (after (.goRun (frame 0x20 0 [])) running).clp.holder ≠ none :=
  ⟨by decide, by decide, by decide, by decide, rfl, by decide +kernel⟩

/-- FetchReplyReturnsTheHolder: a refusal held. -/
theorem witness_FetchReplyReturnsTheHolder :
    match ({ running with clp := { holder := some ⟨0x20, .refused .badMode []⟩ } } : State).clp.holder with
    | none => ([3#8, 3#8, 0x20#8, 0#8] : List Byte) = [0#8, 0#8, 0#8, 0#8]
    | some ⟨code, .done p⟩ => ([3#8, 3#8, 0x20#8, 0#8] : List Byte) = [1#8, 0#8, byte code, byte p.length] ++ p
    | some ⟨code, .accepted p⟩ => ([3#8, 3#8, 0x20#8, 0#8] : List Byte) = [2#8, 0#8, byte code, byte p.length] ++ p
    | some ⟨code, .refused r p⟩ =>
      ([3#8, 3#8, 0x20#8, 0#8] : List Byte) = [3#8, byte r.code, byte code, byte p.length] ++ p := by decide

/-- The notice table of the manual's example of a fetch cut short, as its second row has it. -/
def fetching : CLP :=
  { notices := [⟨.routeSet, 57, 1, 0⟩, ⟨.boardChanged, 3, 2, 0⟩, ⟨.pointFailed, 4, 1, 0⟩],
    selection := some ⟨⟨.routeSet, 57, 1, 0⟩, 2, 0, true⟩ }

theorem fetching_law : NoticeLaw fetching :=
  ⟨by decide, by decide, by decide, by rintro x rfl'; cases rfl'; decide⟩

/-- FetchNoticeCollects: the entry that stands first, the selection, and its own entry. -/
theorem witness_FetchNoticeCollects :
    NoticeLaw fetching ∧
      (∃ pre e post, fetching.notices = pre ++ e :: post ∧ (∀ x ∈ pre, e.cause.code < x.cause.code) ∧
        (∀ x ∈ post, e.cause.code ≤ x.cause.code) ∧ pre.length = 2) ∧
      (∃ x, fetching.selection = some x ∧ x.present = true ∧
        ∃ pre e post, fetching.notices = pre ++ e :: post ∧ x.entry.cause = e.cause ∧ x.entry.subject = e.subject) :=
  ⟨fetching_law, ⟨[⟨.routeSet, 57, 1, 0⟩, ⟨.boardChanged, 3, 2, 0⟩], ⟨.pointFailed, 4, 1, 0⟩, [], rfl, by decide, by decide,
    rfl⟩, ⟨_, rfl, rfl, [], _, _, rfl, rfl, rfl⟩⟩

/-- A notice table with 32 entries, the oldest an OPERATION one. -/
def full : CLP :=
  { notices := ⟨.routeSet, 1, 1, 0⟩ :: (List.range 31).map (fun n => ⟨.stray, n + 1, 1, 0⟩) }

theorem full_law : NoticeLaw full :=
  ⟨by decide +kernel, by decide +kernel, by decide +kernel, fun _ h => by cases h⟩

/-- NoticeRecording: a repeat; a new entry; a SAFETY notice that evicts, and an OPERATION one that is dropped. -/
theorem witness_NoticeRecording :
    NoticeLaw fetching ∧ (∃ pre e post, fetching.notices = pre ++ e :: post ∧ e.cause = .boardChanged ∧ e.subject = 3) ∧
      (∀ e ∈ fetching.notices, ¬(e.cause = .stray ∧ e.subject = 1)) ∧ fetching.notices.length < 32 ∧
      NoticeLaw full ∧ full.notices.length = 32 ∧ (∀ e ∈ full.notices, ¬(e.cause = .overrun ∧ e.subject = 1)) ∧
      (∃ pre e post, full.notices = pre ++ e :: post ∧ (∀ x ∈ pre, x.cause.rank < e.cause.rank) ∧
        (∀ x ∈ post, x.cause.rank ≤ e.cause.rank) ∧ Cause.overrun.rank < e.cause.rank) ∧
      (∀ e ∈ full.notices, ¬(e.cause = .routeSet ∧ e.subject = 2)) ∧
      ∀ x ∈ full.notices, x.cause.rank ≤ Cause.routeSet.rank :=
  ⟨fetching_law, ⟨[_], _, _, rfl, rfl, rfl⟩, by decide, by decide, full_law, by decide +kernel, by decide +kernel,
    ⟨[], _, _, rfl, by decide, by decide +kernel, by decide⟩, by decide +kernel, by decide +kernel⟩

/-- AttnAndStatusByte: a request with its first byte clocked. -/
theorem witness_AttnAndStatusByte :
    requestOf (.goRun (frame 0x20 0 [])) = some (0x20, frame 0x20 0 []) ∧ 1 ≤ (frame 0x20 0 []).clocked ∧
      ∃ t, exec (.goRun (frame 0x20 0 [])) running = .next t := ⟨rfl, by decide, _, rfl⟩

/-- LinkRequests: each request, from the supervisor and from the last cab, with the greatest mask and the first beyond. -/
theorem witness_LinkRequests :
    running.listening ∧ Carries (frame 0x70 0 []) 0x70 0 [] ∧ Carries (frame 0x70 24 []) 0x70 24 [] ∧
      Carries (frame 0x71 0 [0x1F#8, 0xFF#8, 0xFF#8]) 0x71 0 [0x1F#8, 0xFF#8, 0xFF#8] ∧
      Carries (frame 0x71 0 [0x20#8, 0#8, 0#8]) 0x71 0 [0x20#8, 0#8, 0#8] ∧ Carries (frame 0x72 24 []) 0x72 24 [] := by
  refine ⟨rfl, ?_, ?_, ?_, ?_, ?_⟩ <;> exact carries_frame _ _ _ (by decide) (by decide)

/-! ### The statements' hypotheses are met: the train register -/

/-- A property of the trains of a state holds of each. -/
theorem trains_all {s : State} {P : Nat → Train → Prop} (h : ∀ r ∈ s.tr.trains.rows, P r.1 r.2) (k : Nat) (x : Train)
    (e : s.train? k = some x) : P k x := rows_all h k x e

theorem engine_named : running.names 12 1 1 engine := ⟨rfl, by decide, .inr ⟨by decide, by decide, by decide, by decide⟩⟩
theorem visitor_named : running.names 0 62 2 visitor := ⟨rfl, by decide, .inl ⟨rfl, by decide, by decide, rfl⟩⟩

/-- SeekTrain: a train present, 9999 absent, and the first numbers out of range. -/
theorem witness_SeekTrain :
    RegisterLaw running ∧ running.listening ∧ Carries (frame 0x3A 24 [0#8, 62#8]) 0x3A 24 [0#8, 62#8] ∧
      running.train? 2 = some visitor ∧ visitor.number = pair 0#8 62#8 ∧ pair 0x27#8 0x0F#8 = 9999 ∧
      (∀ k x, running.train? k = some x → x.number ≠ pair 0x27#8 0x0F#8) ∧ pair 0#8 0#8 = 0 ∧
      9999 < pair 0x27#8 0x10#8 :=
  ⟨running_register, rfl, carries_frame _ _ _ (by decide) (by decide), rfl, rfl, by decide,
    trains_all (P := fun _ x => x.number ≠ pair 0x27#8 0x0F#8) (by decide), by decide, by decide⟩

/-- RegisterReads: the cursor at a train, a repeat that advances over an empty slot, a repeat past the last train, the
last field and the first that is none, and a record at the cursor and at the end. -/
theorem witness_RegisterReads :
    running.tr.trains.Wf ∧ Carries (frame 0x3B 0 [13#8]) 0x3B 0 [13#8] ∧ Carries (frame 0x3C 24 []) 0x3C 24 [] ∧
      (∃ s : State, s.tr.cursor = 1 ∧ s.tr.repeatField = some 13 ∧ s.listening ∧ s.train? 3 = some engine ∧
        (∀ k, s.tr.cursor < k → k < 3 → s.train? k = none)) ∧
      (∃ s : State, s.tr.cursor = 3 ∧ s.tr.repeatField = some 13 ∧ s.listening ∧
        ∀ k, s.tr.cursor < k → s.train? k = none) ∧
      (∃ s : State, s.tr.cursor = 1 ∧ s.tr.vacated = false ∧ s.train? 1 = some engine ∧ engine.span.length ≤ 6) ∧
      13 < (14#8).toNat := by
  refine ⟨by decide, carries_frame _ _ _ (by decide) (by decide), carries_frame _ _ _ (by decide) (by decide),
    ⟨{ tr := { trains := ⟨[(1, visitor), (3, engine)]⟩, cursor := 1, repeatField := some 13 } }, rfl, rfl, rfl, rfl, ?_⟩,
    ⟨{ tr := { trains := ⟨[(1, visitor), (3, engine)]⟩, cursor := 3, repeatField := some 13 } }, rfl, rfl, rfl, ?_⟩,
    ⟨{ tr := { trains := ⟨[(1, engine)]⟩, cursor := 1 } }, rfl, rfl, rfl, by decide⟩, by decide⟩
  · intro k h1 h2
    have : k = 2 := by simp at h1; omega
    subst this; rfl
  · intro k h
    simp only [State.train?, Tab.get?, rowsGet]
    rw [if_neg (by simp at h; omega), if_neg (by simp at h; omega)]

/-- AcquireTrain: a cab with a free handle and a train of nobody; a train of the cab; a train of another owner; three
handles taken; and the supervisor. -/
theorem witness_AcquireTrain :
    RegisterLaw running ∧ running.tr.handles.Wf ∧ running.tr.keepAlive.Wf ∧ running.listening ∧
      Carries (frame 0x32 12 [0#8, 62#8, 255#8]) 0x32 12 [0#8, 62#8, 255#8] ∧ running.train? 2 = some visitor ∧
      visitor.owner = .awu ∧ engine.owner = .cab 12 1 ∧
      (∃ s : State, RegisterLaw s ∧ s.train? 1 = some { engine with owner := .nobody } ∧ (s.handles 12).get 2 = 0 ∧
        ∀ j, 1 ≤ j → j < 2 → (s.handles 12).get j ≠ 0) ∧
      Carries (frame 0x32 0 [0#8, 61#8, 1#8]) 0x32 0 [0#8, 61#8, 1#8] :=
  ⟨running_register, by decide, by decide, rfl, carries_frame _ _ _ (by decide) (by decide), rfl, rfl, rfl,
    ⟨{ running with tr := { running.tr with trains := ⟨[(1, { engine with owner := .nobody })]⟩ } },
      registerLaw_of _ (by decide) (by decide) (by decide) (by decide), rfl, rfl,
      fun j h1 h2 => by have : j = 1 := by omega
                        subst this; decide⟩,
    carries_frame _ _ _ (by decide) (by decide)⟩

theorem number_9999_absent : running.badRef 0 (pair 0x27#8 0x0F#8) .noSuch := by
  have e : pair 0x27#8 0x0F#8 = 9999 := by decide
  rw [e]
  exact .inr (.inl ⟨rfl, by omega, by omega, trains_all (P := fun _ x => x.number ≠ 9999) (by decide), rfl⟩)

/-- ReferencesResolve: number 0, 10000 and 9999 absent; handles 0, 4 and the empty handle 3. -/
theorem witness_ReferencesResolve :
    running.tr.trains.Wf ∧ running.listening ∧ running.badRef 0 (pair 0#8 0#8) .range ∧
      running.badRef 0 (pair 0x27#8 0x10#8) .range ∧ running.badRef 0 (pair 0x27#8 0x0F#8) .noSuch ∧
      running.badRef 12 (pair 0#8 0#8) .range ∧ running.badRef 12 (pair 0#8 4#8) .range ∧
      running.badRef 12 (pair 0#8 3#8) .noSuch ∧ Carries (frame 0x31 12 [0#8, 3#8]) 0x31 12 [0#8, 3#8] ∧
      Carries (frame 0x40 12 [0#8, 5#8, 0#8, 3#8, 0#8, 1#8]) 0x40 12 [0#8, 5#8, 0#8, 3#8, 0#8, 1#8] :=
  ⟨by decide, rfl, .inl ⟨rfl, .inl rfl, rfl⟩, .inl ⟨rfl, .inr (by decide), rfl⟩,
    number_9999_absent,
    .inr (.inr (.inl ⟨by decide, .inl rfl, rfl⟩)), .inr (.inr (.inl ⟨by decide, .inr (by decide), rfl⟩)),
    .inr (.inr (.inr ⟨by decide, by decide, by decide, by decide +kernel, rfl⟩)), carries_frame _ _ _ (by decide) (by decide),
    carries_frame _ _ _ (by decide) (by decide)⟩

/-- SetSpeedAndRelease: a cab's train with the grades 63 and 255. -/
theorem witness_SetSpeedAndRelease :
    RegisterLaw running ∧ running.Quiet ∧ running.listening ∧ running.names 12 (pair 0#8 1#8) 1 engine ∧
      running.tr.handles.Wf ∧ running.tr.keepAlive.Wf ∧
      Carries (frame 0x34 12 [0#8, 1#8, 63#8]) 0x34 12 [0#8, 1#8, 63#8] ∧
      Carries (frame 0x34 12 [0#8, 1#8, 255#8]) 0x34 12 [0#8, 1#8, 255#8] ∧
      Carries (frame 0x33 12 [0#8, 1#8]) 0x33 12 [0#8, 1#8] :=
  ⟨running_register, running_quiet, rfl, engine_named, by decide, by decide, carries_frame _ _ _ (by decide) (by decide),
    carries_frame _ _ _ (by decide) (by decide), carries_frame _ _ _ (by decide) (by decide)⟩

/-- ReverseTrain: a train at rest on one section, and one asked for grade 1. -/
theorem witness_ReverseTrain :
    RegisterLaw running ∧ running.listening ∧ Carries (frame 0x35 12 [0#8, 1#8]) 0x35 12 [0#8, 1#8] ∧
      running.names 12 (pair 0#8 1#8) 1 engine ∧ engine.state ≠ .turning ∧ engine.granted = 0 ∧ engine.requested = 0 ∧
      running.Quiet ∧ running.Still ∧ running.iu.marks.Wf ∧ running.iu.routes.Wf ∧
      (∀ k r, running.route? k = some r → ¬(r.state = .occupied ∧ r.train = some 1)) ∧
      ({ engine with requested := 1 } : Train).requested ≠ 0 :=
  ⟨running_register, rfl, carries_frame _ _ _ (by decide) (by decide), engine_named, by decide, rfl, rfl, running_quiet,
    running_still, by decide, by decide, fun _ _ h => (absent rfl h).elim, by decide⟩

/-- SelectorRequests: ONE, CAB 12 and ALL; the refusals of CAB 0, CAB 25, another cab, ALL of a cab and form 3. -/
theorem witness_SelectorRequests :
    RegisterLaw running ∧ running.Quiet ∧ running.listening ∧
      running.selects 12 0 (pair 0#8 1#8) (fun k => decide (k = 1)) ∧
      running.selects 0 1 (pair 0#8 12#8) (fun k => decide (k = 1 ∨ k = 0 ∨ k = 0)) ∧
      running.selects 0 2 0 (fun _ => true) ∧ running.badSelector 0 1 (pair 0#8 0#8) .range ∧
      running.badSelector 0 1 (pair 0#8 25#8) .range ∧ running.badSelector 12 1 (pair 0#8 11#8) .notPermitted ∧
      running.badSelector 12 2 0 .notPermitted ∧ running.badSelector 0 3 0 .range ∧
      Carries (frame 0x36 12 [0#8, 0#8, 1#8]) 0x36 12 [0#8, 0#8, 1#8] ∧
      Carries (frame 0x38 0 [2#8, 0#8, 0#8, 1#8]) 0x38 0 [2#8, 0#8, 0#8, 1#8] :=
  ⟨running_register, running_quiet, rfl, .inl ⟨rfl, 1, engine, engine_named, fun _ => rfl⟩,
    .inr (.inl ⟨rfl, by decide, by decide, .inl rfl, fun _ => rfl⟩), .inr (.inr ⟨rfl, rfl, fun _ => rfl⟩),
    .inr (.inl ⟨rfl, rfl, .inl rfl, rfl⟩), .inr (.inl ⟨rfl, rfl, .inr (by decide), rfl⟩),
    .inr (.inr (.inl ⟨rfl, by decide, by decide, rfl⟩)), .inr (.inr (.inr (.inl ⟨rfl, by decide, rfl⟩))),
    .inr (.inr (.inr (.inr ⟨by decide, rfl⟩))), carries_frame _ _ _ (by decide) (by decide),
    carries_frame _ _ _ (by decide) (by decide)⟩

/-- KeepAlive: a cab with a train and one without; a countdown at 2 and at its last tick. -/
theorem witness_KeepAlive :
    running.listening ∧ Carries (frame 0x39 12 []) 0x39 12 [] ∧ running.handles 12 ≠ {} ∧ running.handles 11 = {} ∧
      running.Quiet ∧ RegisterLaw running ∧ running.tr.keepAlive.Wf ∧
      (∃ s : State, s.Quiet ∧ RegisterLaw s ∧ s.keepAliveOf 12 = .counting 2) ∧
      ∃ s : State, s.Quiet ∧ RegisterLaw s ∧ s.tr.keepAlive.Wf ∧ s.keepAliveOf 12 = .counting 1 :=
  ⟨rfl, carries_frame _ _ _ (by decide) (by decide), by decide, by decide, running_quiet, running_register, by decide,
    ⟨{ running with tr := { running.tr with keepAlive := ⟨[(12, .counting 2)]⟩ } }, ⟨rfl, .inr rfl⟩,
      registerLaw_of _ (by decide) (by decide) (by decide) (by decide), rfl⟩,
    ⟨{ running with tr := { running.tr with keepAlive := ⟨[(12, .counting 1)]⟩ } }, ⟨rfl, .inr rfl⟩,
      registerLaw_of _ (by decide) (by decide) (by decide) (by decide), by decide, rfl⟩⟩

/-- A wagon stands on platform 3. -/
def wagon : State := { running with fs := { running.fs with inputs := clears [1, 4, 5, 7, 9, 12, 13] } }

theorem wagon_register : RegisterLaw wagon := registerLaw_of _ (by decide) (by decide) (by decide) (by decide)

/-- EnterTrain: an entry on the platform passes every test; the same on a clear section fails the seventh. -/
theorem witness_EnterTrain :
    RegisterLaw wagon ∧ wagon.tr.handles.Wf ∧ wagon.tr.stray.Wf ∧ wagon.listening ∧
      Carries (frame 0x30 0 [0x27#8, 0x0F#8, 5#8, 0#8, 150#8, 1#8, 3#8, 0#8, 0#8, 1#8]) 0x30 0
        ([0x27#8, 0x0F#8, 5#8, 0#8, 150#8, byte 1] ++ [3#8] ++ [0#8, 0#8, 1#8]) ∧
      ¬(1#8 = 1#8 ∧ (0 : Nat) ≠ 0) ∧ wagon.mc.mode ≠ .setup ∧
      ¬(pair 0x27#8 0x0F#8 = 0 ∨ 9999 < pair 0x27#8 0x0F#8 ∨ 5 < (5#8).toNat ∨ 1 < (0#8).toNat ∨ 1 < (1#8).toNat ∨
        [3] = ([] : List Nat) ∨ ¬[3].Nodup ∨ ∃ x ∈ [3], x = 0 ∨ 240 < x ∨ wagon.plan.sections.get? x = none) ∧
      (∀ pre x y (post : List Nat), [3] ≠ pre ++ x :: y :: post) ∧
      (∀ k y, wagon.train? k = some y → y.number ≠ pair 0x27#8 0x0F#8) ∧
      (∀ x ∈ [3], wagon.occupied x = true ∧ wagon.inSpan x = false ∧ wagon.mark x = .free) ∧ wagon.train? 3 = none ∧
      running.occupied 3 = false :=
  ⟨wagon_register, by decide, by decide, rfl, carries_frame _ _ _ (by decide) (by decide), by decide, by decide,
    by decide, by intro pre x y post h; have := congrArg List.length h; simp at this; omega,
    trains_all (P := fun _ x => x.number ≠ pair 0x27#8 0x0F#8) (by decide), by decide, rfl, by decide⟩

/-- RetireTrain: a train at rest on the staging section and one at rest off it. -/
theorem witness_RetireTrain :
    RegisterLaw running ∧ running.tr.handles.Wf ∧ running.tr.keepAlive.Wf ∧ running.tr.stray.Wf ∧ running.awu.dwells.Wf ∧
      (running.tc.queue.filter (fun e => decide (e.train = some visitor.number))).length ≤ 1 ∧
      Carries (frame 0x31 0 [0#8, 62#8]) 0x31 0 [0#8, 62#8] ∧ running.listening ∧
      running.names 0 (pair 0#8 62#8) 2 visitor ∧ visitor.granted = 0 ∧ visitor.state ≠ .turning ∧
      (∃ sec ∈ visitor.span, ∃ g, running.plan.sections.get? sec = some g ∧ g.kind = .staging) ∧
      running.names 12 (pair 0#8 1#8) 1 engine ∧
      ¬(∃ sec ∈ engine.span, ∃ g, running.plan.sections.get? sec = some g ∧ g.kind = .staging) := by
  refine ⟨running_register, by decide, by decide, by decide, by decide, by decide,
    carries_frame _ _ _ (by decide) (by decide), rfl, visitor_named, rfl, by decide, ⟨1, by decide, _, rfl, rfl⟩,
    engine_named, ?_⟩
  rintro ⟨sec, h, g, e, k⟩
  have : sec = 90 := by simpa [engine] using h
  subst this
  have : g = ⟨600, 3, .bridge, 20, [], [], 0⟩ := (Option.some.inj e).symm
  subst this
  cases k

/-! ### The statements' hypotheses are met: Plan Memory and the modes -/

/-- PlanRecordRoundTrip: a record at the ends of its ranges, and the bytes that store it. -/
theorem witness_PlanRecordRoundTrip :
    Record.ranged 4 (.road ⟨47, 240, true⟩) ∧
      decodeAll parsePlanWrite [4#8, 0#8, 20#8, 0#8, 47#8, 240#8, 1#8] =
        some ⟨4, 20, some (some (.road ⟨47, 240, true⟩))⟩ := ⟨by simp [Record.ranged], by decide⟩

/-- PlanWriteStoresOneRecord: a point record in SETUP, a removal, and a removal of a record that cannot be removed. -/
theorem witness_PlanWriteStoresOneRecord :
    setup.listening ∧ Record.ranged 1 (.point ⟨2, 10, 11, 6, 7, 3, 20, 40⟩) ∧
      Carries (frame 0x11 0 ([byte 1] ++ two 120 ++ 0#8 :: (Record.point ⟨2, 10, 11, 6, 7, 3, 20, 40⟩).bytes)) 0x11 0
        ([byte 1] ++ two 120 ++ 0#8 :: (Record.point ⟨2, 10, 11, 6, 7, 3, 20, 40⟩).bytes) ∧
      Carries (frame 0x11 0 ([byte 8] ++ two 1 ++ [1#8])) 0x11 0 ([byte 8] ++ two 1 ++ [1#8]) ∧
      setup.mc.mode = .setup ∧ setup.pm.saving = false ∧ keyInRange 1 120 = true ∧ keyInRange 1 121 = false ∧
      setup.plan.points.Wf ∧ setup.iu.points.Wf ∧ setup.iu.signals.Wf ∧ setup.due.turnEnds = [] ∧
      ({ setup with pm := { setup.pm with saving := true } } : State).pm.saving = true ∧ running.mc.mode ≠ .setup :=
  ⟨rfl, by simp [Record.ranged], carries_frame _ _ _ (by decide) (by decide), carries_frame _ _ _ (by decide) (by decide),
    rfl, rfl, by decide, by decide, by decide, by decide, by decide, rfl, rfl, by decide⟩

/-- PlanRead: the last class, a key beyond the classes, an absent road and the summary. -/
theorem witness_PlanRead :
    Carries (frame 0x12 24 [10#8, 0#8, 5#8]) 0x12 24 [10#8, 0#8, 5#8] ∧ running.listening ∧
      keyInRange 4 (pair 0#8 20#8) = true ∧ running.plan.lookup 4 20 = none ∧ keyInRange 4 (pair 0#8 21#8) = false ∧
      running.plan.lookup 4 (pair 0#8 2#8) = some (.road ⟨8, 92, false⟩) ∧ pair 0#8 0#8 = 0 ∧
      Carries (frame 0x12 24 [255#8, 0#8, 0#8]) 0x12 24 [255#8, 0#8, 0#8] :=
  ⟨carries_frame _ _ _ (by decide) (by decide), rfl, by decide, rfl, by decide, rfl, by decide,
    carries_frame _ _ _ (by decide) (by decide)⟩

/-- PlanCheckAndSave: a plan that passes and one that does not; a save to start and a save in flight. -/
theorem witness_PlanCheckAndSave :
    setup.listening ∧ Carries (frame 0x13 0 []) 0x13 0 [] ∧ setup.plan.check = none ∧
      State.reset.plan.check = some (2, 0, 0) ∧ Carries (frame 0x14 0 []) 0x14 0 [] ∧ setup.pm.saving = false ∧
      ({ setup with pm := { setup.pm with saving := true } } : State).pm.saving = true :=
  ⟨rfl, carries_frame _ _ _ (by decide) (by decide), by decide +kernel, by decide +kernel,
    carries_frame _ _ _ (by decide) (by decide), rfl, rfl⟩

theorem layout_form : PlanForm layout :=
  ⟨by decide, by decide, by decide, by decide, by decide, by decide, by decide, by decide, by decide, by decide⟩

/-- PassedPlanIsSound: the layout. -/
theorem witness_PassedPlanIsSound : PlanForm layout ∧ layout.check = none := ⟨layout_form, by decide +kernel⟩

/-- PlanClearAndLoad: a store that holds the layout, and a blank one. -/
theorem witness_PlanClearAndLoad :
    Carries (frame 0x10 0 []) 0x10 0 [] ∧ Carries (frame 0x15 0 []) 0x15 0 [] ∧ setup.listening ∧
      setup.mc.mode = .setup ∧ setup.pm.saving = false ∧ setup.due.turnEnds = [] ∧ PlanForm layout ∧ PlanForm {} ∧
      ({ setup with pm := { setup.pm with store := some layout } } : State).pm.store = some layout ∧
      setup.pm.store = none :=
  ⟨carries_frame _ _ _ (by decide) (by decide), carries_frame _ _ _ (by decide) (by decide), rfl, rfl, rfl, rfl,
    layout_form, ⟨by decide, by decide, by decide, by decide, by decide, by decide, by decide, by decide, by decide,
      by decide⟩, rfl, rfl⟩

/-- STOP, entered from RUN. -/
def stopped : State := { running with mc := { mode := .stop, remembered := some .run } }

/-- ModeRequestsThatChangeNothing: each refusal, and RUN asked for in RUN. -/
theorem witness_ModeRequestsThatChangeNothing :
    running.listening ∧ running.Quiet ∧ Carries (frame 0x20 0 []) 0x20 0 [] ∧ running.mc.mode = .run ∧
      stopped.mc.mode = .stop ∧ stopped.Quiet ∧ setup.mc.mode = .setup ∧ setup.pm.valid = true ∧
      State.reset.pm.valid = false ∧ Carries (frame 0x23 24 []) 0x23 24 [] ∧
      ({ stopped with fs := { stopped.fs with chain := .fault } } : State).fs.chain = .fault :=
  ⟨rfl, running_quiet, carries_frame _ _ _ (by decide) (by decide), rfl, rfl, ⟨rfl, .inr rfl⟩, rfl, rfl, rfl,
    carries_frame _ _ _ (by decide) (by decide), rfl⟩

/-- ChangesOfMode: out of SETUP, to QUIET, to STOP and out of it, with nothing waiting. -/
theorem witness_ChangesOfMode :
    setup.listening ∧ setup.tr.trains.Wf ∧ setup.tr.stray.Wf ∧ setup.mc.mode = .setup ∧ setup.pm.valid = true ∧
      running.mc.mode = .run ∧ running.tr.trains.Wf ∧ stopped.mc.mode = .stop ∧ stopped.mc.remembered = some .run ∧
      stopped.fs.chain ≠ .fault ∧ Carries (frame 0x22 24 []) 0x22 24 [] ∧ running.due.settled = true ∧
      running.iu.stack = [] ∧ running.awu.queue = [] ∧ running.awu.running = none ∧ running.tc.queue = [] ∧
      running.tc.burst = none ∧ running.tc.stopEnd = false ∧ running.tc.state ≠ .halted :=
  ⟨rfl, by decide, by decide, rfl, rfl, rfl, by decide, rfl, rfl, by decide, carries_frame _ _ _ (by decide) (by decide),
    rfl, rfl, rfl, rfl, rfl, rfl, rfl, by decide⟩

/-- ResetLayout: from RUN, of the supervisor and of a cab. -/
theorem witness_ResetLayout :
    running.listening ∧ Carries (frame 0x24 0 []) 0x24 0 [] ∧ Carries (frame 0x24 24 []) 0x24 24 [] ∧
      PlanForm running.plan :=
  ⟨rfl, carries_frame _ _ _ (by decide) (by decide), carries_frame _ _ _ (by decide) (by decide), layout_form⟩

/-! ### The statements' hypotheses are met: the Interlocking Unit -/

/-- The route record of route 5. -/
def five : RouteRec := ⟨.main, 1, 0, [2, 3], [(1, .normal)], [], [], none⟩

theorem not_barred (s : State) (x : Nat) (a : s.mark x = .free) (b : s.occupied x = false) (c : s.inSpan x = false)
    (d : s.stray x = false) : ¬s.bars x := by
  unfold State.bars
  simp [a, b, c, d]

theorem running_free (x : Nat) (h : x ∈ [2, 3]) : ¬running.bars x := by
  have : x = 2 ∨ x = 3 := by simpa using h
  rcases this with rfl | rfl <;> exact not_barred _ _ (by decide) (by decide) (by decide) (by decide)

theorem running_placed : ¬running.stuck (1, .normal) := fun h => h (.inl ⟨rfl, .inl rfl⟩)

/-- Every route check passes for route 5 and train 62. -/
theorem running_checks (c i : Nat) : ¬running.failsCheck 5 (some 62) c i := by
  have five' : running.plan.routes.get? 5 = some five := rfl
  match c with
  | 0 => exact fun h => h
  | 1 => rintro ⟨-, h⟩; rw [five'] at h; cases h
  | 2 =>
    rintro ⟨-, n, e, h⟩
    cases e
    exact h 2 visitor rfl rfl
  | 3 =>
    rintro ⟨d, r, e, -, h, -⟩
    exact absent rfl h
  | 4 =>
    rintro ⟨d, pre, post, h, e, b, -⟩
    rw [five'] at h
    cases h
    exact running_free i (by rw [show ([2, 3] : List Nat) = pre ++ i :: post from e]; simp) b
  | 5 =>
    rintro ⟨d, pre, q, post, h, e, b, -⟩
    rw [five'] at h
    cases h
    have : (i, q) ∈ [((1, .normal) : Nat × Pos)] := by
      rw [show [((1, .normal) : Nat × Pos)] = pre ++ (i, q) :: post from e]; simp
    rw [List.mem_singleton.mp this] at b
    exact running_placed b
  | 6 =>
    rintro ⟨d, e, h, r, -⟩
    rw [five'] at h
    cases h
    cases r
  | 7 =>
    rintro ⟨-, h⟩
    exact h 1 (by decide) (by decide) rfl
  | n + 8 => exact fun h => h

/-- Section 3 is occupied: check 4 is the first to fail, at section 3. -/
theorem wagon_blocks :
    wagon.failsCheck 5 none 4 3 ∧ ∀ c i, c < 4 → ¬wagon.failsCheck 5 none c i := by
  have five' : wagon.plan.routes.get? 5 = some five := rfl
  refine ⟨⟨five, [2], [], five', rfl, .inr (.inl (by decide)), ?_⟩, ?_⟩
  · intro y h
    rw [List.mem_singleton.mp h]
    exact not_barred _ _ (by decide) (by decide) (by decide) (by decide)
  · intro c i h
    match c with
    | 0 => exact fun h => h
    | 1 => rintro ⟨-, h⟩; rw [five'] at h; cases h
    | 2 => rintro ⟨-, n, e, -⟩; cases e
    | 3 => rintro ⟨d, r, e, -, h, -⟩; exact absent rfl h
    | n + 4 => omega

/-- SetRouteRefusedOrStacked: a check that fails first, with room on the stack; the routes 0 and 401. -/
theorem witness_SetRouteRefusedOrStacked :
    wagon.mc.mode = .run ∧ RegisterLaw wagon ∧ RouteLaw wagon ∧ wagon.listening ∧
      Carries (frame 0x40 12 [0#8, 5#8, 0#8, 0#8, 3#8, 1#8]) 0x40 12 [0#8, 5#8, 0#8, 0#8, 3#8, 1#8] ∧
      wagon.asksFor 12 (pair 0#8 0#8) none ∧ wagon.working = true ∧ 1 ≤ pair 0#8 5#8 ∧ pair 0#8 5#8 ≤ 400 ∧
      (wagon.failsCheck 5 none 4 3 ∧ ∀ c i, c < 4 → ¬wagon.failsCheck 5 none c i) ∧
      (∀ e ∈ wagon.iu.stack, e.route ≠ pair 0#8 5#8) ∧ wagon.iu.stack.length < 16 ∧ wagon.Quiet ∧
      pair 0#8 0#8 = 0 ∧ 400 < pair 1#8 145#8 ∧ stopped.working = false :=
  ⟨rfl, wagon_register, routeLaw_of _ (by decide) (by decide) (by decide) rfl (by decide), rfl,
    carries_frame _ _ _ (by decide) (by decide), .inl ⟨rfl, rfl⟩, by decide, by decide, by decide, wagon_blocks, by decide,
    by decide, ⟨rfl, .inr rfl⟩, by decide, by decide, by decide⟩

/-- SetRouteActivates: route 5 for train 62, with nothing to move. -/
theorem witness_SetRouteActivates :
    RouteLaw running ∧ RegisterLaw running ∧ running.iu.marks.Wf ∧ running.iu.points.Wf ∧ running.Still ∧
      running.working = true ∧ running.listening ∧
      Carries (frame 0x40 0 [0#8, 5#8, 0#8, 62#8, 0#8, 0#8]) 0x40 0 [0#8, 5#8, 0#8, 62#8, 0#8, 0#8] ∧
      running.asksFor 0 62 (some 62) ∧ (∀ c i, ¬running.failsCheck 5 (some 62) c i) ∧
      running.plan.routes.get? 5 = some five ∧ (five.sections ++ five.overlap).Nodup ∧
      ((five.points ++ five.flanks).map Prod.fst).Nodup ∧
      (∃ k x, running.train? k = some x ∧ some 62 = some x.number ∧ some 2 = some k) ∧
      0 = ((five.points ++ five.flanks).filter (fun x => decide ((running.point x.1).state ≠ x.2.settled))).length :=
  ⟨running_routes, running_register, by decide, by decide, running_still, by decide, rfl,
    carries_frame _ _ _ (by decide) (by decide), .inr (.inl ⟨by decide, rfl, rfl⟩), running_checks, rfl, by decide,
    by decide, ⟨2, visitor, rfl, rfl, rfl⟩, by decide⟩

/-- Route 5 set for no train by cab 12, its approach free. -/
def routed (state : RouteState) (approach : Option Nat) : State :=
  { running with
    fs := { running.fs with inputs := clears [0, 1, 2, 4, 5, 7, 9, 12, 13] },
    tr := { running.tr with trains := ⟨[(1, engine)]⟩ },
    iu := { running.iu with
      routes := ⟨[(1, ⟨5, none, 12, state, [.reserved, .reserved], 0, approach⟩)]⟩,
      marks := ⟨[(2, .route 1), (3, .route 1)]⟩ } }

theorem routed_routes (state : RouteState) (a : Option Nat) : RouteLaw (routed state a) :=
  routeLaw_of _ (by simp [routed, Tab.Wf, Tab.keys]) (by simp [routed, Tab.keys]) (by simp [routed]) rfl (by simp [routed, running])
theorem routed_register (state : RouteState) (a : Option Nat) : RegisterLaw (routed state a) :=
  registerLaw_of _ (by simp [routed, Tab.Wf, Tab.keys]) (by simp [routed, Tab.keys]) (by simp [routed])
    (by simp [routed, running])
theorem routed_still (state : RouteState) (a : Option Nat) : (routed state a).Still :=
  ⟨rfl, .inr rfl, .inr (.inr rfl), .inr ⟨rfl, rfl, rfl⟩⟩

/-- CancelRoute: a CLEARED route of the sending cab with its approach free; and the last tick of an approach timer. -/
theorem witness_CancelRoute :
    RouteLaw (routed .cleared none) ∧ RegisterLaw (routed .cleared none) ∧ (routed .cleared none).iu.marks.Wf ∧
      (routed .cleared none).iu.points.Wf ∧ (routed .cleared none).listening ∧
      Carries (frame 0x41 12 [0#8, 5#8]) 0x41 12 [0#8, 5#8] ∧
      (routed .cleared none).route? 1 = some ⟨5, none, 12, .cleared, [.reserved, .reserved], 0, none⟩ ∧
      (routed .cleared none).mc.mode ≠ .setup ∧ (routed .cleared none).Still ∧
      (routed .cleared none).routeRec ⟨5, none, 12, .cleared, [.reserved, .reserved], 0, none⟩ = some five ∧
      (∀ m ∈ [SectionMark.reserved, .reserved], m = .reserved) ∧ ((five.points ++ five.flanks).map Prod.fst).Nodup ∧
      (routed .cleared none).occupied 1 = false ∧ (routed .cleared none).inSpan 1 = false ∧
      (routed .cancelling (some 1)).route? 1 = some ⟨5, none, 12, .cancelling, [.reserved, .reserved], 0, some 1⟩ ∧
      (routed .cancelling (some 1)).tr.trains.Wf ∧ (routed .cancelling (some 1)).Still :=
  ⟨routed_routes _ _, routed_register _ _, by decide, by decide, rfl, carries_frame _ _ _ (by decide) (by decide), rfl,
    by decide, routed_still _ _, rfl, by decide, by decide, by decide, by decide, rfl, by decide, routed_still _ _⟩

/-- PointTest: point 1 free to move in SETUP; the points 0, 121 and the absent 120. -/
theorem witness_PointTest :
    setup.listening ∧ Carries (frame 0x42 0 [1#8, 1#8]) 0x42 0 [1#8, 1#8] ∧ setup.mc.mode = .setup ∧
      setup.plan.points.get? 1 = some ⟨2, 10, 11, 6, 7, 3, 20, 40⟩ ∧ setup.point 1 = { state := .normal } ∧
      setup.occupied 2 = false ∧ setup.due.turnEnds = [] ∧ setup.iu.points.Wf ∧
      (setup.point 1).state ≠ Pos.reverse.settled ∧ (setup.point 1).state = Pos.normal.settled ∧
      setup.plan.points.get? 120 = none ∧ running.mc.mode ≠ .setup :=
  ⟨rfl, carries_frame _ _ _ (by decide) (by decide), rfl, rfl, rfl, by decide, rfl, by decide, by decide, by decide, rfl,
    by decide⟩

/-- ClearFault: a failed point, a train, the field fault flag; and a cab that may clear none of them. -/
theorem witness_ClearFault :
    running.listening ∧ RegisterLaw running ∧ Carries (frame 0x47 0 [0#8, 0#8, 1#8]) 0x47 0 [0#8, 0#8, 1#8] ∧
      running.plan.points.get? 1 = some ⟨2, 10, 11, 6, 7, 3, 20, 40⟩ ∧ running.Still ∧ running.iu.points.Wf ∧
      Carries (frame 0x47 0 [1#8, 0#8, 62#8]) 0x47 0 [1#8, 0#8, 62#8] ∧ running.train? 2 = some visitor ∧
      visitor.number = pair 0#8 62#8 ∧ running.Quiet ∧
      Carries (frame 0x47 0 [2#8, 0#8, 0#8]) 0x47 0 [2#8, 0#8, 0#8] ∧
      Carries (frame 0x47 24 [2#8, 0#8, 0#8]) 0x47 24 [2#8, 0#8, 0#8] :=
  ⟨rfl, running_register, carries_frame _ _ _ (by decide) (by decide), rfl, running_still, by decide,
    carries_frame _ _ _ (by decide) (by decide), rfl, by decide, running_quiet,
    carries_frame _ _ _ (by decide) (by decide), carries_frame _ _ _ (by decide) (by decide)⟩

/-- Point 1 in motion, both its timers at their last tick, with route 5 waiting for it or without. -/
def throwing (routes : Tab ActiveRoute) : State :=
  { running with iu := { running.iu with
    points := ⟨[(1, { state := .movingN, locks := 1, demand := some .normal, pulse := some (.normal, 1), throw := some 1 })]⟩,
    routes := routes } }

/-- The route that waits for the point. -/
def waiting : ActiveRoute := ⟨5, none, 0, .setting, [.reserved, .reserved], 1, none⟩

/-- PointTimers: a pulse and a throw at their last tick, for a point no route waits on and for one that a route does. -/
theorem witness_PointTimers :
    ((throwing ⟨[]⟩).point 1).pulse = some (.normal, 1) ∧ ((throwing ⟨[]⟩).point 1).throw = some 1 ∧
      (throwing ⟨[]⟩).plan.points.get? 1 = some ⟨2, 10, 11, 6, 7, 3, 20, 40⟩ ∧ (throwing ⟨[]⟩).iu.points.Wf ∧
      (throwing ⟨[]⟩).iu.marks.Wf ∧ (throwing ⟨[]⟩).Still ∧ (∀ k, (throwing ⟨[]⟩).route? k = none) ∧
      (throwing ⟨[(1, waiting)]⟩).Still ∧ (throwing ⟨[(1, waiting)]⟩).iu.routes.Wf ∧
      (throwing ⟨[(1, waiting)]⟩).route? 1 = some waiting ∧
      (throwing ⟨[(1, waiting)]⟩).routeRec waiting = some five ∧ waiting.state = .setting ∧ waiting.moving ≠ 0 ∧
      (1, Pos.normal) ∈ five.points ++ five.flanks ∧
      ∀ k r, (throwing ⟨[(1, waiting)]⟩).route? k = some r → k = 1 :=
  ⟨rfl, rfl, rfl, by decide, by decide, ⟨rfl, .inr rfl, .inr (.inr rfl), .inr ⟨rfl, rfl, rfl⟩⟩, fun _ => rfl,
    ⟨rfl, .inr rfl, .inr (.inr rfl), .inr ⟨rfl, rfl, rfl⟩⟩, by decide, rfl, rfl, rfl, by decide, by decide,
    rows_all (t := (throwing ⟨[(1, waiting)]⟩).iu.routes) (P := fun k _ => k = 1) (by decide)⟩

/-- InterlockingReads: a route active for no train and not stacked; a section marked; a point; a signal over the route. -/
theorem witness_InterlockingReads :
    (routed .cleared none).listening ∧ Carries (frame 0x43 24 [0#8, 5#8]) 0x43 24 [0#8, 5#8] ∧
      (routed .cleared none).plan.routes.get? (pair 0#8 5#8) ≠ none ∧
      (routed .cleared none).route? 1 = some ⟨5, none, 12, .cleared, [.reserved, .reserved], 0, none⟩ ∧
      (∀ e ∈ (routed .cleared none).iu.stack, e.route ≠ pair 0#8 5#8) ∧
      Carries (frame 0x44 24 [3#8]) 0x44 24 [3#8] ∧ (routed .cleared none).mark 3 = .route 1 ∧
      (routed .cleared none).sectionMark ⟨5, none, 12, .cleared, [.reserved, .reserved], 0, none⟩ 3 = some .reserved ∧
      (routed .cleared none).spanOf 3 = none ∧ Carries (frame 0x45 24 [1#8]) 0x45 24 [1#8] ∧
      (routed .cleared none).plan.points.get? 1 ≠ none ∧ Carries (frame 0x46 24 [1#8]) 0x46 24 [1#8] ∧
      RouteLaw (routed .cleared none) ∧ (routed .cleared none).plan.signals.get? 1 ≠ none ∧ five.entry = 1 :=
  ⟨rfl, carries_frame _ _ _ (by decide) (by decide), by decide, rfl, by decide,
    carries_frame _ _ _ (by decide) (by decide), rfl, rfl, rfl, carries_frame _ _ _ (by decide) (by decide), by decide,
    carries_frame _ _ _ (by decide) (by decide), routed_routes _ _, by decide, rfl⟩

/-! ### The statements' hypotheses are met: the turntable -/

theorem bridge_alone (k : Nat) (x : Train) (h : running.train? k = some x) (b : 90 ∈ x.span) : x = engine :=
  trains_all (s := running) (P := fun _ x => 90 ∈ x.span → x = engine) (by decide) k x h b

/-- HomeTurntable: the bridge free for homing, the lock confirmed or not; the bridge not free; the turntable moving. -/
theorem witness_HomeTurntable :
    running.listening ∧ Carries (frame 0x50 0 []) 0x50 0 [] ∧ running.tr.trains.Wf ∧ running.working = true ∧
      running.plan.turntable.present = true ∧ running.tc.state ∉ [.homing, .unlocking, .moving, .locking] ∧
      (running.mark running.plan.turntable.bridge = .free ∧ running.stray running.plan.turntable.bridge = false ∧
        ∀ k x, running.train? k = some x → running.plan.turntable.bridge ∈ x.span →
          x.span = [running.plan.turntable.bridge] ∧ x.granted = 0) ∧
      running.due.settled = true ∧ running.input running.plan.turntable.lockBit = true ∧
      (∃ s : State, s.stray 90 = true ∧ s.plan = layout ∧ s.working = true) ∧ Carries (frame 0x50 24 []) 0x50 24 [] :=
  ⟨rfl, carries_frame _ _ _ (by decide) (by decide), by decide, by decide, rfl, by decide,
    ⟨by decide, by decide, fun k x h b => by rw [bridge_alone k x h b]; exact ⟨rfl, rfl⟩⟩, rfl, by decide,
    ⟨{ running with tr := { running.tr with stray := ⟨[(90, true)]⟩ } }, by decide, rfl, by decide⟩,
    carries_frame _ _ _ (by decide) (by decide)⟩

theorem engine_may_turn : running.mayTurn (some 61) where
  free := by decide
  clean := by decide
  alone k x h b := by rw [bridge_alone k x h b]; rfl
  stands n e := ⟨1, engine, rfl, Option.some.inj e, rfl, rfl, .inl rfl⟩

/-- The tests of a TURN of engine 61 to road 2, end A. -/
theorem turn_tests_pass :
    ¬running.working = false ∧ ¬((2#8).toNat = 0 ∨ 20 < (2#8).toNat ∨ 2 < (0#8).toNat ∨
        (∃ n, some 61 = some n ∧ (n = 0 ∨ 9999 < n))) ∧
      ¬(running.tc.state = .unindexed ∨ running.tc.state = .faulted) ∧ ¬running.plan.roads.get? (2#8).toNat = none ∧
      ¬(∃ n, some 61 = some n ∧ ∀ k x, running.train? k = some x → x.number ≠ n) ∧
      ¬(∃ k x, running.train? k = some x ∧ some 61 = some x.number ∧
        running.plan.lengthOf running.plan.turntable.bridge < x.length) ∧
      ¬(some 61 ≠ none ∧ ∃ y ∈ running.tc.queue, y.train = some 61) ∧ ¬6 ≤ running.tc.queue.length := by
  refine ⟨by decide, ?_, by decide, by decide, ?_, ?_, by simp [running], by decide⟩
  · rintro (h | h | h | ⟨n, e, h⟩)
    · exact absurd h (by decide)
    · exact absurd h (by decide)
    · exact absurd h (by decide)
    · have := Option.some.inj e
      omega
  · rintro ⟨n, e, h⟩
    exact h 1 engine rfl (Option.some.inj e)
  · rintro ⟨k, x, h, -, l⟩
    have := trains_all (s := running) (P := fun _ x => x.length ≤ 600) (by decide) k x h
    have : running.plan.lengthOf running.plan.turntable.bridge = 600 := by decide
    omega

/-- Turn: engine 61 granted with 8 steps; the same with none, to road 1; a turntable that is not free. -/
theorem witness_Turn :
    RegisterLaw running ∧ running.listening ∧
      Carries (frame 0x51 12 [2#8, 0#8, 4#8, 1#8, 0#8, 1#8]) 0x51 12 [2#8, 0#8, 4#8, 1#8, 0#8, 1#8] ∧
      running.asksFor 12 (pair 0#8 1#8) (some 61) ∧ running.due.settled = true ∧ running.free = true ∧
      running.tc.queue = [] ∧ running.tc.burst = none ∧ running.mayTurn (some 61) ∧ running.tc.pos = some 0 ∧
      running.plan.roads.get? 2 = some ⟨8, 92, false⟩ ∧ planMove 0 8 .a none = some ⟨8, .a, .clockwise, 8⟩ ∧
      running.plan.roads.get? 1 = some ⟨0, 91, false⟩ ∧ planMove 0 0 .a none = some ⟨0, .a, .clockwise, 0⟩ ∧
      running.attemptIdle ∧ running.tc.returnHeld = none ∧ stopped.free = false :=
  ⟨running_register, rfl, carries_frame _ _ _ (by decide) (by decide),
    .inr (.inr ⟨by decide, by decide, 1, engine, engine_named, rfl⟩), rfl, by decide, rfl, rfl, engine_may_turn, rfl, rfl,
    by decide, rfl, by decide, .inr (.inr rfl), rfl, by decide⟩

/-- MovePlanned: the stop sector at 47, the positions at the ends; HALTED past the target. -/
theorem witness_MovePlanned :
    (47 < 48 ∧ ∀ b, some 47 = some b → b < 48) ∧
      ∃ s : State, s.tc.state = .halted ∧ s.tc.move = some ⟨0, .a, .anticlockwise, 0⟩ ∧ s.tc.pos = some 47 ∧
        s.plan.turntable.stopSector = none :=
  ⟨⟨by decide, fun b e => by have := Option.some.inj e; omega⟩,
    { running with tc := { state := .halted, pos := some 47, move := some ⟨0, .a, .anticlockwise, 0⟩ } }, rfl, rfl, rfl,
    rfl⟩

/-- Engine 61 on its way to road 2 with a burst of cab 12, a plain alignment of cab 4 behind it. -/
def turning (state : TableState) : State :=
  { running with
    tr := { running.tr with trains := ⟨[(1, { engine with state := .turning }), (2, visitor)]⟩ },
    tc := {
      state := state, pos := some 3, timer := some 1, move := some ⟨8, .a, .clockwise, 1⟩,
      queue := [⟨some 61, 2, .a, 12, 6, 6, true⟩, ⟨none, 1, .a, 4, 9, 9, false⟩], served := some 1,
      returnHeld := some false, burst := some 12 } }

theorem turning_register (state : TableState) : RegisterLaw (turning state) :=
  registerLaw_of _ (by simp [turning, Tab.Wf, Tab.keys]) (by simp [turning, Tab.keys]) (by simp [turning, engine, visitor])
    (by simp [turning, running])

/-- WithdrawTurn: cab 4's alignment withdrawn by its own station and by the supervisor; the request being served. -/
theorem witness_WithdrawTurn :
    RegisterLaw (turning .moving) ∧ (turning .moving).listening ∧
      Carries (frame 0x52 4 [1#8, 1#8, 0#8, 255#8]) 0x52 4 [1#8, 1#8, 0#8, 255#8] ∧
      (turning .moving).tc.queue = [⟨some 61, 2, .a, 12, 6, 6, true⟩] ++ ⟨none, 1, .a, 4, 9, 9, false⟩ :: [] ∧
      (turning .moving).tc.served ≠ some (1 + 1) ∧ (turning .moving).tc.served = some (0 + 1) ∧
      (turning .moving).due.settled = true ∧ (turning .moving).free = false ∧
      Carries (frame 0x52 0 [0#8, 0#8, 61#8]) 0x52 0 [0#8, 0#8, 61#8] ∧
      (turning .moving).asksFor 0 (pair 0#8 61#8) (some 61) ∧ Carries (frame 0x52 0 [0#8, 0#8, 0#8]) 0x52 0 [0#8, 0#8, 0#8] :=
  ⟨turning_register _, rfl, carries_frame _ _ _ (by decide) (by decide), rfl, by decide, rfl, rfl, by decide,
    carries_frame _ _ _ (by decide) (by decide), .inr (.inl ⟨by decide, rfl, rfl⟩),
    carries_frame _ _ _ (by decide) (by decide)⟩

/-- TurntableTimerExpiry: a step timeout with a train aboard and the bridge occupied; a timer one tick before its last. -/
theorem witness_TurntableTimerExpiry :
    (turning .moving).tc.timer = some 1 ∧ (turning .moving).tc.state = .moving ∧ (turning .moving).due.settled = true ∧
      (turning .moving).tc.queue = [] ++ ⟨some 61, 2, .a, 12, 6, 6, true⟩ :: [⟨none, 1, .a, 4, 9, 9, false⟩] ∧
      (turning .moving).tc.served = some (([] : List TurnReq).length + 1) ∧ (turning .moving).attemptIdle ∧
      RegisterLaw (turning .moving) ∧ (turning .moving).train? 1 = some { engine with state := .turning } ∧
      (turning .moving).tc.returnHeld = some false ∧
      (turning .moving).occupied (engine.span.getLast?.getD 0) = true ∧ (turning .moving).fs.image.Wf ∧
      ∃ s : State, s.tc.timer = some 2 :=
  ⟨rfl, rfl, rfl, rfl, rfl, .inr (.inr rfl), turning_register _, rfl, rfl, by decide, by decide,
    { tc := { timer := some 2 } }, rfl⟩

/-- TurntableSensors: the states with what each needs. -/
theorem witness_TurntableSensors :
    (turning .moving).tc.move = some ⟨8, .a, .clockwise, 1⟩ ∧ (turning .moving).tc.pos = some 3 ∧
      (turning .halted).tc.state = .halted ∧ (turning .unlocking).tc.state = .unlocking ∧
      (turning .unlocking).mc.mode ≠ .stop ∧
      (turning .locking).tc.queue = [] ++ ⟨some 61, 2, .a, 12, 6, 6, true⟩ :: [⟨none, 1, .a, 4, 9, 9, false⟩] ∧
      (turning .locking).tc.served = some (([] : List TurnReq).length + 1) ∧ (turning .locking).clp.notices.length ≤ 30 ∧
      (∃ s : State, s.tc.state = .homing ∧ s.tc.phase = some .seek ∧ s.tc.index = some 47 ∧ s.tc.served = none) ∧
      (∃ s : State, s.tc.state = .homing ∧ s.tc.phase = some .release) ∧
      (∃ s : State, s.tc.state = .homing ∧ s.tc.phase = some .engage) ∧ running.tc.state = .locked ∧
      running.tc.served = none ∧ running.plan.turntable.present = true ∧ running.fs.image.Wf ∧ [20, 21, 22].Nodup :=
  ⟨rfl, rfl, rfl, rfl, by decide, rfl, rfl, by decide,
    ⟨{ tc := { state := .homing, phase := some .seek, index := some 47 } }, rfl, rfl, rfl, rfl⟩,
    ⟨{ tc := { state := .homing, phase := some .release } }, rfl, rfl⟩,
    ⟨{ tc := { state := .homing, phase := some .engage } }, rfl, rfl⟩, rfl, rfl, rfl, by decide, by decide⟩

/-! ### The statements' hypotheses are met: automatic working, the field and time -/

/-- Demo 1 runs on train 62 with a visitor waiting for demo 2. -/
def showing : State :=
  { running with awu := { running := some ⟨1, 62, 1, 1, 1⟩, queue := [⟨2, 0, 0⟩] }, mc := { mode := .run } }

/-- VisitorQueue: a demo to admit while another runs; one to take out again; a press; and a head whose train is ready. -/
theorem witness_VisitorQueue :
    showing.listening ∧ Carries (frame 0x60 0 [2#8]) 0x60 0 [2#8] ∧ Carries (frame 0x61 0 [2#8]) 0x61 0 [2#8] ∧
      showing.plan.demos.get? 2 ≠ none ∧ showing.plan.demos.get? 16 = none ∧ showing.mc.mode = .run ∧ showing.Quiet ∧
      showing.awu.running ≠ none ∧ (∃ v ∈ showing.awu.queue, v.demo = (2#8).toNat) ∧
      showing.awu.running.map Running.demo ≠ some (2#8).toNat ∧
      (∃ s : State, s.Quiet ∧ s.mc.mode = .run ∧ s.awu.running ≠ none ∧ s.awu.queue = []) ∧
      ∃ (s : State) (v : Visitor), RegisterLaw s ∧ s.mc.mode = .run ∧ s.awu.running = none ∧ s.awu.queue = v :: [] ∧
        s.plan.demos.get? v.demo = some ⟨.run 5 25, 62, 120⟩ ∧ s.train? 2 = some visitor ∧ visitor.owner = .awu ∧
        visitor.auto = true ∧ visitor.granted = 0 :=
  ⟨rfl, carries_frame _ _ _ (by decide) (by decide), carries_frame _ _ _ (by decide) (by decide), by decide, rfl, rfl,
    ⟨rfl, .inr rfl⟩, by decide, ⟨⟨2, 0, 0⟩, by decide, rfl⟩, by decide,
    ⟨{ showing with awu := { showing.awu with queue := [] } }, ⟨rfl, .inr rfl⟩, rfl, by decide, rfl⟩,
    { running with awu := { queue := [⟨1, 0, 0⟩] } }, ⟨1, 0, 0⟩,
    registerLaw_of _ (by decide) (by decide) (by decide) (by decide), rfl, rfl, rfl, rfl, rfl, rfl, rfl, rfl⟩

/-- Demo 1 at its last tick, nobody waiting. -/
def ending : State := { showing with awu := { showing.awu with queue := [] } }

/-- DemosEnd: a demo at its last tick and one stopped, no route set and no turn asked for its train. -/
theorem witness_DemosEnd :
    RegisterLaw ending ∧ RouteLaw ending ∧ ending.Quiet ∧ ending.awu.running = some ⟨1, 62, 1, 1, 1⟩ ∧
      ending.awu.queue = [] ∧ (∀ k, ending.route? k = none) ∧ ending.tc.queue = [] ∧ ending.train? 2 = some visitor ∧
      visitor.number = 62 ∧ ending.listening ∧ Carries (frame 0x61 0 [1#8]) 0x61 0 [1#8] ∧
      ending.plan.demos.get? 1 ≠ none :=
  ⟨registerLaw_of _ (by decide) (by decide) (by decide) (by decide),
    routeLaw_of _ (by decide) (by decide) (by decide) rfl (by decide), ⟨rfl, .inr rfl⟩, rfl, rfl, fun _ => rfl, rfl, rfl, rfl,
    rfl, carries_frame _ _ _ (by decide) (by decide), by decide⟩

/-- TurntableBoardAndPanelReads: the three requests, the last board and panel, and the modes of the views. -/
theorem witness_TurntableBoardAndPanelReads :
    running.listening ∧ Carries (frame 0x53 24 []) 0x53 24 [] ∧ Carries (frame 0x62 24 [1#8]) 0x62 24 [1#8] ∧
      Carries (frame 0x62 24 [8#8]) 0x62 24 [8#8] ∧ Carries (frame 0x63 24 [6#8]) 0x63 24 [6#8] ∧
      running.plan.boards.get? 1 = some ⟨[3]⟩ ∧ running.plan.boards.get? 8 = none ∧ running.awu.views.Wf ∧
      running.plan.boards.Wf ∧ running.tr.trains.Wf ∧ running.mc.mode = .run ∧ running.console boardHold = false ∧
      (∃ s : State, s.mc.mode = .run ∧ s.console boardHold = true) ∧ setup.mc.mode = .setup :=
  ⟨rfl, carries_frame _ _ _ (by decide) (by decide), carries_frame _ _ _ (by decide) (by decide),
    carries_frame _ _ _ (by decide) (by decide), carries_frame _ _ _ (by decide) (by decide), rfl, rfl, by decide,
    by decide, by decide, rfl, by decide,
    ⟨{ running with
        pm := { running.pm with plan := { layout with device := { layout.device with console3 := 3 } } },
        awu := { line3 := { accepted := true } } }, rfl, by decide⟩, rfl⟩

/-- Train 62 at the last tick of its dwell. -/
def dwelling : State :=
  { running with
    tr := { running.tr with trains := ⟨[(1, engine), (2, { visitor with dwell := some 1 })]⟩ },
    awu := { dwells := ⟨[(2, ⟨25, 5⟩)]⟩, cooldown := ⟨[(1, 1), (6, 2)]⟩ } }

/-- DwellAndCooldown: a dwell and a cooldown at their last tick; a cooldown with two ticks to go; a dwell in STOP. -/
theorem witness_DwellAndCooldown :
    dwelling.train? 2 = some { visitor with dwell := some 1 } ∧ dwelling.working = true ∧
      dwelling.awu.dwells.get? 2 = some ⟨25, 5⟩ ∧ dwelling.tr.trains.Wf ∧ dwelling.Still ∧
      Tab.getD 0 dwelling.awu.cooldown 1 = 1 ∧ Tab.getD 0 dwelling.awu.cooldown 6 ≠ 1 ∧ dwelling.awu.cooldown.Wf ∧
      ({ dwelling with mc := stopped.mc } : State).working = false :=
  ⟨rfl, by decide, rfl, by decide, ⟨rfl, .inr rfl, .inr (.inr rfl), .inr ⟨rfl, rfl, rfl⟩⟩, rfl, by decide, by decide,
    by decide⟩

/-- The raw bits of the layout as it stands. -/
def still : List Bool := (List.range 16).map (fun n => decide (n ∉ [1, 2, 4, 5, 7, 9, 12, 13]))

/-- ScanCompletion: a good scan that brings nothing new, a mismatch in each chain state, and a bit at rest. -/
theorem witness_ScanCompletion :
    (∀ i, i < 8 → (still ++ [true, false, true, false, false, true, false, true]).getD (running.fs.inLen + i) false =
        [true, false, true, false, false, true, false, true].getD i false) ∧
      running.fs.check = .a ∧ running.fs.inputs.Wf ∧ running.Quiet ∧ running.fs.chain ≠ .suspect ∧
      (∀ n, n < running.fs.inLen → (still ++ [true, false, true, false, false, true, false, true]).getD n false =
        (Tab.getD {} running.fs.inputs n).value) ∧
      (∃ s : State, s.fs.chain = .suspect ∧ s.working = true) ∧
      (∃ s : State, s.Quiet ∧ s.fs.chain = .fault ∧ s.fs.recovery = 7) ∧
      ({ value := true } : InBit).count = 0 ∧ false ≠ ({ value := true } : InBit).value ∧
      layout.device.clearDebounce = (if false then 2 else layout.device.clearDebounce) ∧ 1 ≤ layout.device.clearDebounce :=
  ⟨by decide, rfl, by decide, running_quiet, by decide, by decide,
    ⟨{ running with fs := { running.fs with chain := .suspect } }, rfl, by decide⟩,
    ⟨{ running with fs := { running.fs with chain := .fault, recovery := 7 } }, ⟨rfl, .inr rfl⟩, rfl, rfl⟩, rfl, by decide,
    rfl, by decide⟩

/-- A train of two sections whose tail has cleared; and one whose only section has. -/
def trailing : State := { wagon with tr := { wagon.tr with trains := ⟨[(1, engine), (2, { visitor with span := [2, 3] })]⟩ } }

/-- TrackingFollowsTheReport: a section in a span, one with no candidate, one with one candidate, and the two trims. -/
theorem witness_TrackingFollowsTheReport :
    RegisterLaw running ∧ running.train? 2 = some visitor ∧ 1 ∈ visitor.span ∧
      (∀ j y, running.train? j = some y → 1 ∈ y.span → j = 2) ∧ visitor.state ≠ .lost ∧
      running.spanOf 3 = none ∧ (running.candidates running 3).length ≠ 1 ∧
      (∃ s : State, RegisterLaw s ∧ s.spanOf 2 = none ∧ s.candidates s 2 = [(2, .east)] ∧ s.train? 2 = some visitor ∧
        s.occupied 2 = true) ∧ visitor.span.length ≤ 6 ∧
      RegisterLaw trailing ∧ trailing.train? 2 = some { visitor with span := [2, 3] } ∧ trailing.occupied 2 = false ∧
      trailing.occupied 3 = true ∧
      ∃ s : State, RegisterLaw s ∧ s.train? 2 = some visitor ∧ visitor.span = [1] ∧ s.occupied 1 = false ∧
        visitor.state = .active :=
  ⟨running_register, rfl, by decide, trains_all (s := running) (P := fun j y => 1 ∈ y.span → j = 2) (by decide),
    by decide, rfl, by decide,
    ⟨{ running with fs := { running.fs with inputs := clears [2, 4, 5, 7, 9, 12, 13] } },
      registerLaw_of _ (by decide) (by decide) (by decide) (by decide), rfl, by decide +kernel, rfl, by decide⟩, by decide,
    registerLaw_of _ (by decide) (by decide) (by decide) (by decide), rfl, by decide, by decide,
    { running with fs := { running.fs with inputs := clears [0, 1, 2, 4, 5, 7, 9, 12, 13] } },
    registerLaw_of _ (by decide) (by decide) (by decide) (by decide), rfl, rfl, by decide, rfl⟩

/-- LayoutTick: a layout with every timer running, none at its last tick; a line that has been sampled once. -/
theorem witness_LayoutTick :
    ∃ s : State, s.due.settled = true ∧ s.turnIdle ∧ s.iu.stack = [] ∧ s.awu.queue = [] ∧
      (∀ c ∈ [s.plan.device.console1, s.plan.device.console2, s.plan.device.console3], c ≠ 1 ∧ c ≠ 5) ∧
      (∀ r, s.awu.running = some r → 1 < r.remaining) ∧
      (∀ k x n, s.train? k = some x → x.dwell = some n → 1 < n) ∧ s.tc.timer = some 2 ∧ s.awu.cooldown.Wf ∧
      s.iu.points.Wf ∧ (s.point 1).throw = some 2 ∧ s.tr.trains.Wf ∧ s.awu.dwells.Wf ∧ s.tr.keepAlive.Wf ∧
      s.awu.dwells.get? 2 ≠ none ∧ s.fs.image.Wf ∧ s.plan.buttons.Wf ∧ s.lamp 257 = .flash ∧
      s.awu.line1.sample1 = true := by
  refine ⟨{ running with
      pm := { running.pm with plan := { layout with device := { layout.device with console1 := 2 } } },
      tc := { state := .locking, timer := some 2 },
      iu := { points := ⟨[(1, { state := .movingN, pulse := some (.normal, 1), throw := some 2 })]⟩ },
      tr := { running.tr with trains := ⟨[(1, engine), (2, { visitor with dwell := some 2 })]⟩ },
      awu := {
        running := some ⟨1, 62, 1, 1, 2⟩, dwells := ⟨[(2, ⟨25, 5⟩)]⟩, cooldown := ⟨[(1, 2)]⟩, lamps := ⟨[(257, .flash)]⟩,
        line1 := { sample1 := true } } }, rfl, .inl (by decide), rfl, rfl, by decide, ?_, ?_, rfl, by decide, by decide, rfl,
    by decide, by decide, by decide, by decide, by decide, by decide, rfl, rfl⟩
  · intro r h
    cases h
    decide
  · intro k x n h
    exact rows_all (t := (⟨[(1, engine), (2, { visitor with dwell := some 2 })]⟩ : Tab Train))
      (P := fun _ x => x.dwell = some n → 1 < n) (by simp [engine, visitor]; omega) k x h

/-- OrderCompletion: a broadcast pending; an urgent train; a refresh that goes on and one that wraps; an order at the ends
of its ranges. -/
theorem witness_OrderCompletion :
    (∃ s : State, s.ss.port ≠ none ∧ s.ss.broadcast = true) ∧
      (∃ s : State, s.ss.port ≠ none ∧ s.ss.broadcast = false ∧ s.ss.urgent = 2 :: [] ∧ s.train? 2 = some visitor) ∧
      (∃ s : State, s.ss.port ≠ none ∧ s.ss.urgent = [] ∧ s.tr.trains.Wf ∧ s.train? 2 = some visitor ∧
        s.ss.refresh < 2 ∧ ∀ j y, s.train? j = some y → s.ss.refresh < j → 2 ≤ j) ∧
      (∃ s : State, s.ss.port ≠ none ∧ s.ss.urgent = [] ∧ s.train? 1 = some engine ∧
        ∀ j y, s.train? j = some y → j ≤ s.ss.refresh ∧ 1 ≤ j) ∧
      (⟨9999, 63, .backward, true⟩ : DriveOrder).number ≤ 9999 := by
  refine ⟨⟨{ ss := { port := some stopAllOrder, broadcast := true } }, by decide, rfl⟩,
    ⟨{ running with ss := { port := some stopAllOrder, urgent := [2] } }, by decide, rfl, rfl, rfl⟩,
    ⟨{ running with ss := { port := some stopAllOrder, refresh := 1 } }, by decide, rfl, by decide, rfl, by decide, ?_⟩,
    ⟨{ running with ss := { port := some stopAllOrder, refresh := 2 } }, by decide, rfl, rfl, ?_⟩, by decide⟩
  · intro j y _ h
    simp at h
    omega
  · exact rows_all (t := running.tr.trains) (P := fun j _ => j ≤ 2 ∧ 1 ≤ j) (by decide)

/-! ### The statements' hypotheses are met: sections, moving points, the turntable and the lamps -/

/-- What a sparse table holds at a key is its resting value or one of its rows. -/
theorem getD_rows {α : Type} (d : α) (t : Tab α) (k : Nat) : Tab.getD d t k = d ∨ (k, Tab.getD d t k) ∈ t.rows := by
  unfold Tab.getD
  cases h : rowsGet t.rows k with
  | none => exact .inl rfl
  | some x => exact .inr (rowsGet_mem _ _ _ h)

/-- Train 62 has entered section 2 on route 5, section 3 is still reserved for it, and it stands. -/
def entered : State :=
  { running with
    fs := { running.fs with inputs := clears [2, 4, 5, 7, 9, 12, 13] },
    tr := { running.tr with trains := ⟨[(1, engine), (2, { visitor with span := [1, 2], route := some 1 })]⟩ },
    iu := { running.iu with
      routes := ⟨[(1, ⟨5, some 2, 0, .occupied, [.entered, .reserved], 0, none⟩)]⟩,
      marks := ⟨[(2, .route 1), (3, .route 1)]⟩,
      points := ⟨[(1, { state := .normal, locks := 1, demand := some .normal })]⟩ } }

theorem entered_routes : RouteLaw entered := routeLaw_of _ (by decide) (by decide) (by decide) rfl (by decide)
theorem entered_register : RegisterLaw entered :=
  registerLaw_of _ (by decide) (by decide) (by decide) (by decide)
theorem entered_still : entered.Still := ⟨rfl, .inr rfl, .inr (.inr rfl), .inr ⟨rfl, rfl, rfl⟩⟩

theorem entered_spans : SpanLaw entered where
  span := trains_all (s := entered) (P := fun _ x => x.span ≠ [] ∧ x.span.length ≤ 6 ∧ x.span.Nodup) (by decide)
  apart j k x y sec hj hk := trains_all (s := entered)
    (P := fun j x => ∀ k y, entered.train? k = some y → sec ∈ x.span → sec ∈ y.span → j = k)
    (fun r hr => trains_all (s := entered) (P := fun k y => sec ∈ r.2.span → sec ∈ y.span → r.1 = k)
      (fun q hq ha hb => by
        have all : ∀ r ∈ entered.tr.trains.rows, ∀ q ∈ entered.tr.trains.rows, r.1 ≠ q.1 → ∀ z ∈ r.2.span, z ∉ q.2.span := by
          decide
        exact Decidable.byContradiction fun n => all r hr q hq n sec ha hb)) j x hj k y hk

/-- The one active route of `entered`. -/
theorem entered_only (slot : Nat) (r : ActiveRoute) (h : entered.route? slot = some r) :
    slot = 1 ∧ r = ⟨5, some 2, 0, .occupied, [.entered, .reserved], 0, none⟩ :=
  rows_all (t := entered.iu.routes)
    (P := fun k r => k = 1 ∧ r = ⟨5, some 2, 0, .occupied, [.entered, .reserved], 0, none⟩) (by decide) slot r h

theorem entered_mark (sec : Nat) : entered.mark sec = .free ∨ (entered.mark sec = .route 1 ∧ (sec = 2 ∨ sec = 3)) := by
  rcases getD_rows .free entered.iu.marks sec with h | h
  · exact .inl h
  · have all : ∀ m ∈ entered.iu.marks.rows, m.2 = .route 1 ∧ (m.1 = 2 ∨ m.1 = 3) := by decide
    exact .inr (all _ h)

theorem entered_reservations : ReservationLaw entered where
  routes := by decide
  marks := by decide
  known slot r h := by
    obtain ⟨rfl, rfl⟩ := entered_only slot r h
    exact ⟨five, rfl, rfl⟩
  held slot r d i sec m h e hs hm n := by
    obtain ⟨rfl, rfl⟩ := entered_only slot r h
    cases Option.some.inj e
    have : sec ∈ five.sections := List.mem_of_getElem? hs
    have : sec = 2 ∨ sec = 3 := by simpa [five] using this
    rcases this with rfl | rfl <;> decide
  overlap slot r d sec h e hs := by
    obtain ⟨rfl, rfl⟩ := entered_only slot r h
    cases Option.some.inj e
    cases hs
  backed sec slot h := by
    rcases entered_mark sec with f | ⟨f, rfl | rfl⟩
    · rw [f] at h; cases h
    · rw [f] at h; cases h
      exact ⟨_, five, .entered, 0, rfl, rfl, rfl, rfl, by decide⟩
    · rw [f] at h; cases h
      exact ⟨_, five, .reserved, 1, rfl, rfl, rfl, rfl, by decide⟩
  backedOverlap sec slot h := by
    rcases entered_mark sec with f | ⟨f, -⟩ <;> rw [f] at h <;> cases h

/-- Point 1 on its way for route 5, which is SETTING. -/
def moving : State :=
  { running with iu := { running.iu with
    points := ⟨[(1, { state := .movingN, locks := 1, demand := some .normal, pulse := some (.normal, 2), throw := some 3 })]⟩ } }

theorem moving_law : MovingLaw moving where
  points := by decide
  clear p r h _ := by
    obtain ⟨rfl, rfl⟩ := rows_all (t := moving.plan.points) (P := fun k r => k = 1 ∧ r = ⟨2, 10, 11, 6, 7, 3, 20, 40⟩)
      (by decide) p r h
    decide
  demand p q r h e _ := by
    obtain ⟨rfl, -⟩ := rows_all (t := moving.plan.points) (P := fun k _ => k = 1 ∧ True) (by decide) p r h
    cases q
    · rfl
    · exact absurd e (by decide)

/-- Engine 61 aboard, the bridge between its roads. -/
theorem turning_law : TableLaw (turning .moving) where
  present _ := rfl
  setup h := by cases h
  free _ := rfl
  served _ := ⟨⟨some 61, 2, .a, 12, 6, 6, true⟩, 0, rfl, rfl,
    fun n h => ⟨1, { engine with state := .turning }, rfl, Option.some.inj h, rfl, rfl, rfl⟩,
    fun k x h b => congrArg some (Eq.symm (rows_all
      (t := (⟨[(1, { engine with state := .turning }), (2, visitor)]⟩ : Tab Train))
      (P := fun _ x => 90 ∈ x.span → x.number = 61) (by decide) k x h b))⟩

/-- RouteLawKept, RegisterAndHandleLawsKept, TurnVisitorAndModeLawsKept, AspectLawKept: the laws of sections, moving points,
spans, the turntable and the lamps, each where it has something to say, on a checked plan outside SETUP. -/
theorem witness_the_other_laws :
    CheckedLaw entered ∧ entered.mc.mode ≠ .setup ∧ ReservationLaw entered ∧ RouteLaw entered ∧ SpanLaw entered ∧
      RegisterLaw entered ∧ MovingLaw moving ∧ ChainLaw moving ∧ CheckedLaw moving ∧ (moving.point 1).state.inFlight = true ∧
      (turning .moving).tc.state.away = true ∧ LampLaw cleared ∧
      ∃ t, step { moving with pending := [.throwTimeout 1 []] } = .next t :=
  ⟨fun _ => rfl, by decide, entered_reservations, entered_routes, entered_spans, entered_register, moving_law,
    ⟨by decide, fun _ => by decide⟩, fun _ => rfl, by decide, by decide,
    { signals := by decide +kernel
      lamps := by decide +kernel
      shown := rows_all (t := cleared.plan.signals)
        (P := fun k g => (cleared.signal k).lamps = lampsFor g.kind (cleared.signal k).aspect) (by decide +kernel)
      lit := rows_all (t := cleared.plan.buttons) (P := fun k b => cleared.lamp k = cleared.lampOf b) (by decide +kernel) },
    _, rfl⟩

/-! ### The statements' hypotheses are met: the clauses on routes -/

/-- ReverseTrain: a train at rest over two sections on its OCCUPIED route, whose second section is RESERVED; the tail is
joined to the next section on its EAST side. -/
theorem witness_ReverseTrain_on_a_route :
    RegisterLaw entered ∧ entered.listening ∧ Carries (frame 0x35 0 [0#8, 62#8]) 0x35 0 [0#8, 62#8] ∧
      entered.names 0 (pair 0#8 62#8) 2 { visitor with span := [1, 2], route := some 1 } ∧ entered.Still ∧
      entered.iu.marks.Wf ∧ entered.iu.routes.Wf ∧ entered.plan.joinedOn entered.align 1 .east 2 = true ∧
      entered.route? 1 = some ⟨5, some 2, 0, .occupied, [.entered, .reserved], 0, none⟩ ∧
      entered.routeRec ⟨5, some 2, 0, .occupied, [.entered, .reserved], 0, none⟩ = some five ∧ five.sections.Nodup ∧
      five.sections[1]? = some 3 ∧ ([SectionMark.entered, .reserved] : List _)[1]? = some .reserved ∧
      (∃ s : State, s.plan.joinedOn s.align 2 .east 1 = false ∧ s.plan.joinedOn s.align 2 .west 1 = true) :=
  ⟨entered_register, rfl, carries_frame _ _ _ (by decide) (by decide), ⟨rfl, by decide, .inl ⟨rfl, by decide, by decide, rfl⟩⟩,
    entered_still, by decide, by decide, by decide, rfl, rfl, by decide, rfl, rfl, entered, by decide, by decide⟩

/-- The approach section of signal 1 is occupied, route 5 CLEARED over the points it wants. -/
def approached : State :=
  { routed .cleared none with fs := { running.fs with inputs := clears [1, 2, 4, 5, 7, 9, 12, 13] } }

/-- A route and a stack entry of cab 12 side by side. -/
def doubled : State :=
  { entered with iu := { entered.iu with stack := [⟨5, none, 12, 6, 6⟩] }, mc := stopped.mc }

/-- CancelRoute: an OCCUPIED route, whose section behind the head is the one kept; a CLEARED one with its approach
occupied; a CANCELLING one; and a stack entry that the sender may remove but not the route. -/
theorem witness_CancelRoute_by_state :
    (RouteLaw entered ∧ Carries (frame 0x41 0 [0#8, 5#8]) 0x41 0 [0#8, 5#8] ∧ entered.Still ∧
      (entered.route? 1).map ActiveRoute.state = some .occupied ∧ five.sections.Nodup ∧ five.sections.length = 2) ∧
      (RouteLaw approached ∧ RegisterLaw approached ∧ approached.Still ∧
        (approached.route? 1).map ActiveRoute.state = some .cleared ∧ five.entry = 1 ∧
        (approached.plan.signals.get? 1).map SignalRec.approach = some 1 ∧ approached.occupied 1 = true) ∧
      ((routed .cancelling (some 9)).route? 1).map ActiveRoute.state = some .cancelling ∧
      (RegisterLaw doubled ∧ RouteLaw doubled ∧ Carries (frame 0x41 12 [0#8, 5#8]) 0x41 12 [0#8, 5#8] ∧
        doubled.Still ∧ doubled.Quiet ∧ doubled.mc.mode ≠ .setup ∧
        (∃ e, e ∈ doubled.iu.stack ∧ e.route = pair 0#8 5#8 ∧ e.station = 12) ∧
        (doubled.route? 1).map (fun r => (r.station, r.train)) = some (0, some 2) ∧ (doubled.handles 12).h1 = 1) :=
  ⟨⟨entered_routes, carries_frame _ _ _ (by decide) (by decide), entered_still, rfl, by decide, rfl⟩,
    ⟨routeLaw_of _ (by decide) (by decide) (by decide) rfl (by decide),
      registerLaw_of _ (by decide) (by decide) (by decide) (by decide), ⟨rfl, .inr rfl, .inr (.inr rfl), .inr ⟨rfl, rfl, rfl⟩⟩,
      rfl, rfl, rfl, by decide⟩, rfl,
    ⟨registerLaw_of _ (by decide) (by decide) (by decide) (by decide),
      { entered_routes with
        few := by decide
        once := by decide
        levels := by decide
        setup := fun h => by cases h },
      carries_frame _ _ _ (by decide) (by decide), ⟨rfl, .inl rfl, .inr (.inr rfl), .inl rfl⟩, ⟨rfl, .inl (.inl rfl)⟩, by decide,
      ⟨_, List.mem_singleton.mpr rfl, rfl, rfl⟩, rfl, rfl⟩⟩

/-- Point 1 lies REVERSE, so that route 5 has to move it; requests wait for a route that is not in the plan and for route
5, in STOP. -/
def reversed (stack : List StackEntry) (mc : MC) : State :=
  { running with
    iu := { running.iu with points := ⟨[(1, { state := .reverse })]⟩, stack := stack },
    mc := mc }

/-- Every route check passes for route 5, which is asked for by no train or by train 62. -/
theorem reversed_checks (stack : List StackEntry) (mc : MC) (train : Option Nat) (h : train = none ∨ train = some 62)
    (c i : Nat) : ¬(reversed stack mc).failsCheck 5 train c i := by
  have d5 : (reversed stack mc).plan.routes.get? 5 = some five := rfl
  have free : ∀ x ∈ five.sections ++ five.overlap, ¬(reversed stack mc).bars x := by
    intro x hx
    have : x = 2 ∨ x = 3 := by simpa [five] using hx
    rcases this with rfl | rfl <;> exact not_barred _ _ rfl rfl rfl rfl
  match c with
  | 0 | _ + 8 => exact fun h => h
  | 1 => exact fun h => absent h.2 d5
  | 2 =>
    rintro ⟨-, n, e, none⟩
    rcases h with rfl | rfl <;> cases e
    exact none 2 visitor rfl rfl
  | 3 => exact fun ⟨_, _, _, _, h, _⟩ => absent rfl h
  | 4 =>
    rintro ⟨d, pre, post, e, at_, bad, -⟩
    obtain rfl := Option.some.inj (d5.symm.trans e)
    exact free i (by simp [at_]) bad
  | 5 =>
    rintro ⟨d, pre, q, post, e, at_, bad, -⟩
    obtain rfl := Option.some.inj (d5.symm.trans e)
    have : (i, q) ∈ five.points ++ five.flanks := by simp [at_]
    obtain ⟨rfl, rfl⟩ : i = 1 ∧ q = .normal := by simpa [five] using this
    exact bad (.inr ⟨_, rfl, rfl, rfl, free 2 (by decide)⟩)
  | 6 => exact fun ⟨_, _, e, r, _⟩ => by cases Option.some.inj (d5.symm.trans e); cases r
  | 7 => exact fun h => h.2 1 (by decide) (by decide) rfl

/-- SetRouteActivates: route 5 for train 62 with point 1 to move; a retry scan that passes over an older request of
greater level, which ages; and the RESUME that runs it. -/
theorem witness_SetRouteActivates_and_the_scan :
    (∀ c i, ¬(reversed [] running.mc).failsCheck 5 (some 62) c i) ∧
      1 = ((five.points ++ five.flanks).filter
        (fun x => decide (((reversed [] running.mc).point x.1).state ≠ x.2.settled))).length ∧
      ((reversed [] running.mc).point 1).state ≠ Pos.normal.settled ∧
      ((reversed [] running.mc).point 1).state ≠ Pos.normal.moving ∧
      (∀ g ∈ layout.signals.rows, 10 ∉ g.2.lampBits) ∧ (∀ b ∈ layout.buttons.rows, b.2.lamp ≠ 10) ∧
      (∀ waiting, waiting = [⟨7, none, 4, 9, 9⟩, ⟨5, none, 12, 6, 6⟩] →
        RegisterLaw (reversed waiting running.mc) ∧ RouteLaw (reversed waiting running.mc) ∧
        (reversed waiting running.mc).working = true ∧
        (∀ c i, ¬(reversed waiting running.mc).failsCheck 5 none c i) ∧
        (reversed waiting running.mc).failsCheck 7 none 1 0 ∧
        (State.askRoute (reversed waiting running.mc) ⟨5, none, 12, 6, false⟩).1.failsCheck 7 none 1 0 ∧
        (reversed waiting stopped.mc).mc.mode = .stop ∧ (reversed waiting stopped.mc).mc.remembered = some .run ∧
        (reversed waiting stopped.mc).tc.state ≠ .halted ∧ (reversed waiting stopped.mc).due.settled = true) ∧
      Carries (frame 0x23 0 []) 0x23 0 [] := by
  refine ⟨reversed_checks _ _ _ (.inr rfl), by decide, by decide, by decide, by decide, by decide, ?_,
    carries_frame _ _ _ (by decide) (by decide)⟩
  rintro waiting rfl
  refine ⟨registerLaw_of _ (by decide) (by decide) (by decide) (by decide), ?_, rfl, reversed_checks _ _ _ (.inl rfl),
    ⟨rfl, rfl⟩, ⟨rfl, by decide +kernel⟩, rfl, rfl, by decide, rfl⟩
  exact
    { running_routes with
      few := by decide
      once := by decide
      levels := by decide
      setup := fun h => by cases h }

/-! ### The statements' hypotheses are met: points, the turntable and the plan -/

/-- PointTimers: a detection that ends a throw, the last that its route waits on and not the last; one that shows a locked
point away from its demand; a FAILED point without a fault that shows no position; and a drive output to take down. -/
theorem witness_PointTimers_and_detection :
    ((throwing ⟨[(1, waiting)]⟩).input 6 = true ∧ (throwing ⟨[(1, waiting)]⟩).input 7 = false ∧
      (throwing ⟨[(1, waiting)]⟩).iu.points.Wf ∧ waiting.moving = 0 + 1) ∧
      (∃ y : ActiveRoute, (throwing ⟨[(1, y)]⟩).route? 1 = some y ∧ y.state = .setting ∧ y.moving = 1 + 1) ∧
      (∃ s : State, s.plan = layout ∧ s.input 6 = false ∧ s.input 7 = false ∧ (s.point 1).state = .normal ∧
        (s.point 1).demand = some .normal ∧ 0 < (s.point 1).locks ∧ ∀ k, s.route? k = none) ∧
      (∃ s : State, s.plan = layout ∧ s.input 6 = s.input 7 ∧ (s.point 1).state = .failed ∧ (s.point 1).fault = false) ∧
      (throwing ⟨[]⟩).fs.image.Wf ∧ (∀ g ∈ layout.signals.rows, 10 ∉ g.2.lampBits) ∧
      ∀ b ∈ layout.buttons.rows, b.2.lamp ≠ 10 := by
  refine ⟨⟨by decide, by decide, by decide, rfl⟩, ⟨{ waiting with moving := 2 }, rfl, rfl, rfl⟩,
    ⟨{ entered with fs := { running.fs with inputs := clears [6, 7] }, iu := { entered.iu with routes := ⟨[]⟩ } }, rfl, by decide,
      by decide, rfl, rfl, by decide, fun _ => rfl⟩, ⟨{ throwing ⟨[]⟩ with
        fs := { running.fs with inputs := ⟨[]⟩ }, iu := { points := ⟨[(1, { state := .failed })]⟩ } }, rfl, by decide, rfl, rfl⟩,
    by decide, by decide, by decide⟩

/-- HomeTurntable: the lock reads clear. -/
theorem witness_HomeTurntable_unlocked :
    ∃ s : State, s.listening ∧ s.working = true ∧ s.plan = layout ∧ s.input s.plan.turntable.lockBit = false ∧
      s.tc.state = .locked ∧ s.tr.trains.rows = [] ∧ s.mark 90 = .free ∧ s.stray 90 = false ∧ s.due.settled = true :=
  ⟨{ running with tr := {}, fs := { running.fs with inputs := clears [14] } }, rfl, by decide, rfl, by decide, rfl, rfl, rfl, rfl,
    rfl⟩

/-- Two plain alignments wait for an empty bridge, the younger with the lower level and a follower to come. -/
def aligning (burst : Option Nat) (preempt : Bool) : State :=
  { running with
    tr := { running.tr with trains := ⟨[(2, visitor)]⟩ },
    tc := { running.tc with
      queue := [⟨none, 1, .b, 4, 9, 9, false⟩, ⟨none, 2, .a, 12, 6, 6, true⟩], burst := burst, preempt := preempt } }

theorem aligning_may_turn (burst : Option Nat) (preempt : Bool) : (aligning burst preempt).mayTurn none where
  free := rfl
  clean := rfl
  alone k x h b := absurd b (rows_all (t := (aligning burst preempt).tr.trains) (P := fun _ x => 90 ∉ x.span)
    (by simp [aligning, visitor]) k x h)
  stands n e := by cases e

/-- Turn: a grant with no burst, with the burst of the granted station, and with one that is preempted; a burst that waits
for a request that may not turn; and a TURN after whose arbitration the turntable may grant no more. -/
theorem witness_Turn_and_arbitration :
    (∀ burst preempt, RegisterLaw (aligning burst preempt) ∧ (aligning burst preempt).free = true ∧
      (aligning burst preempt).mayTurn none ∧ (aligning burst preempt).tc.pos = some 0 ∧
      (aligning burst preempt).plan.roads.get? 2 = some ⟨8, 92, false⟩ ∧
      (aligning burst preempt).tc.queue = [⟨none, 1, .b, 4, 9, 9, false⟩] ++ ⟨none, 2, .a, 12, 6, 6, true⟩ :: []) ∧
      planMove 0 8 .a none = some ⟨8, .a, .clockwise, 8⟩ ∧ (aligning (some 12) false).tc.burst = some 12 ∧
      (aligning (some 4) true).tc.preempt = true ∧
      (∃ s : State, s.free = true ∧ ¬s.mayTurn none ∧ s.tc.burst = some 12 ∧ s.tc.preempt = false ∧
        s.tc.queue = [] ++ ⟨none, 2, .a, 12, 6, 6, true⟩ :: []) ∧
      ∃ admitted : State, admitted = { running.openFrame (frame 0x51 12 [2#8, 0#8, 4#8, 1#8, 0#8, 1#8]) with
          tc := { running.tc with queue := [⟨some 61, 2, .a, 12, 6, 6, true⟩] } } ∧
        admitted.arbitrate.free = false ∧ admitted.arbitrate.due.settled = true := by
  refine ⟨fun burst preempt => ⟨registerLaw_of _ (by simp [aligning, Tab.Wf, Tab.keys]) (by simp [aligning, Tab.keys])
      (by simp [aligning]) (by simp [aligning, running]), rfl, aligning_may_turn _ _, rfl, rfl, rfl⟩, by decide, rfl, rfl,
    ⟨{ running with tc := { running.tc with queue := [⟨none, 2, .a, 12, 6, 6, true⟩], burst := some 12 } }, rfl,
      fun h => ?_, rfl, rfl, rfl⟩, _, rfl, by decide +kernel, by decide +kernel⟩
  have := h.alone 1 engine rfl (by decide)
  cases this

/-- MovePlanned: a HALTED move in STOP that RESUME takes up, on its way and on its target. -/
theorem witness_MovePlanned_resumed :
    ∃ s : State, s.listening ∧ s.tr.trains.Wf ∧ s.mc.mode = .stop ∧ s.mc.remembered = some .run ∧ s.fs.chain ≠ .fault ∧
      s.due.settled = true ∧ s.iu.stack = [] ∧ s.awu.queue = [] ∧ s.awu.running = none ∧ s.tc.state = .halted ∧
      s.tc.move = some ⟨8, .a, .clockwise, 1⟩ ∧ s.tc.pos = some 3 ∧ s.plan.turntable.present = true ∧ s.fs.image.Wf ∧
      [20, 21, 22].Nodup ∧ Carries (frame 0x23 0 []) 0x23 0 [] :=
  ⟨{ turning .halted with mc := stopped.mc }, rfl, by decide, rfl, rfl, by decide, rfl, rfl, rfl, rfl, rfl, rfl, rfl, rfl,
    by decide, by decide, carries_frame _ _ _ (by decide) (by decide)⟩

/-- FetchNoticeCollects: the empty table. -/
theorem witness_FetchNoticeCollects_none : NoticeLaw running.clp ∧ running.clp.notices = [] :=
  ⟨⟨by decide, by decide, by decide, fun _ h => by cases h⟩, rfl⟩

/-- PlanWriteStoresOneRecord and PlanClearAndLoad: a removal and a change that give up an output bit, a field out of its
table, and an output bit of the old plan that the new one leaves alone. -/
theorem witness_outputs_given_up :
    setup.plan.lookup 1 1 = some (.point ⟨2, 10, 11, 6, 7, 3, 20, 40⟩) ∧ setup.fs.image.Wf ∧
      10 ∈ (Record.point ⟨2, 10, 11, 6, 7, 3, 20, 40⟩).outputs ∧ 10 ∉ (Record.point ⟨2, 36, 11, 6, 7, 3, 20, 40⟩).outputs ∧
      240 < (241#8).toNat ∧ 511 < pair 2#8 0#8 ∧
      (∃ r ∈ setup.plan.points.rows, 10 = r.2.normalDrive ∨ 10 = r.2.reverseDrive) ∧
      ({} : Plan).signals.rows = [] ∧ ({} : Plan).buttons.rows = [] :=
  ⟨rfl, by decide, by decide, by decide, by decide, by decide, ⟨_, List.mem_singleton.mpr rfl, .inl rfl⟩, rfl, rfl⟩

/-! ### The statements' hypotheses are met: reports, tracking and the tick -/

/-- An input bit as it stands, one scan short of taking the other value. -/
def nearly (bit : Nat) : InBit := { Tab.getD {} running.fs.inputs bit with count := 1, threshold := 2 }

/-- The layout at rest, one input bit at its first scan with a new value. -/
def armed (bit : Nat) : State :=
  { running with fs := { running.fs with inputs := Tab.putD {} running.fs.inputs bit (nearly bit) } }

/-- The raw bits of the next scan, that bit changed. -/
def changing (bit : Nat) : List Bool :=
  (List.range 16).map (fun n => decide (n ∉ [1, 2, 4, 5, 7, 9, 12, 13]) != decide (n = bit)) ++
    [true, false, true, false, false, true, false, true]

/-- The state whose reports the blocks take. -/
def scanned (bit : Nat) : State :=
  let taken : FS := { (armed bit).fs.latch with check := (armed bit).fs.check.other, chain := .good }
  { armed bit with fs := taken.debounce layout.device.clearDebounce (changing bit) }

/-- ScanCompletion: the scan that brings one section, the reverse detect of a point, the index mark, and a button; and a
point whose detect inputs lie outside the chain. -/
theorem witness_ScanCompletion_reports :
    (∀ i, i < 8 → (changing 1).getD (16 + i) false = [true, false, true, false, false, true, false, true].getD i false) ∧
      (∀ n, n < 16 → (decide ((Tab.getD {} (armed 1).fs.inputs n).value ≠ (Tab.getD {} (scanned 1).fs.inputs n).value) =
        decide (n = 1))) ∧
      (((scanned 1).takeReport [2] []).due.settled = true ∧ ((scanned 1).takeReport [2] []).due.arrivals = []) ∧
      (((scanned 7).detection 1).handOn.due.settled = true ∧ ((scanned 7).detection 1).handOn.due.arrivals = []) ∧
      (((scanned 12).sensors true false false false).handOn.due.settled = true ∧
        ((scanned 12).sensors true false false false).handOn.due.arrivals = []) ∧
      (((scanned 9).press 1 1 ⟨9, 30, 1⟩).handOn.due.settled = true ∧
        ((scanned 9).press 1 1 ⟨9, 30, 1⟩).handOn.due.arrivals = []) ∧
      ∃ s : State, s.Quiet ∧ s.iu.points.Wf ∧ s.plan.points.Wf ∧ s.plan.points.get? 1 = some ⟨2, 10, 11, 20, 7, 3, 20, 40⟩ ∧
        s.plan.device.inputLength ≤ 20 ∧ (s.point 1).state = .normal := by
  refine ⟨by decide, by decide +kernel, ⟨?_, ?_⟩, ⟨?_, ?_⟩, ⟨?_, ?_⟩, ⟨?_, ?_⟩,
    { running with pm := { running.pm with plan := { layout with points := ⟨[(1, ⟨2, 10, 11, 20, 7, 3, 20, 40⟩)]⟩ } } },
    ⟨rfl, .inr rfl⟩, by decide, by decide, rfl, by decide, rfl⟩
  all_goals decide +kernel

/-- Section 3 has become occupied for the train of `entered`; section 2 for a train that has route 5 CLEARED before it. -/
theorem witness_TrackingFollowsTheReport_head :
    (∃ s : State, s.mark 3 = .route 1 ∧ RegisterLaw s ∧ (s.route? 1).map ActiveRoute.state = some .occupied ∧
      (s.spanOf 3 = none ∧ s.candidates s 3 = [(2, .east)] ∧ s.occupied 3 = true ∧ s.occupied 1 = true ∧
        s.stray 3 = false ∧ s.due.scan = false) ∧ (s.train? 2).bind Train.route = some 1 ∧
      s.train? 2 = some { visitor with span := [1, 2], route := some 1 } ∧ five.sections[1]? = some 3) ∧
      ∃ s : State, s.mark 2 = .route 1 ∧ RegisterLaw s ∧
        s.route? 1 = some ⟨5, none, 12, .cleared, [.reserved, .reserved], 0, none⟩ ∧
        (s.spanOf 2 = none ∧ s.candidates s 2 = [(2, .east)] ∧ s.occupied 2 = true ∧ s.occupied 1 = true ∧
          s.stray 2 = false ∧ s.due.scan = false) ∧ s.train? 2 = some visitor ∧
        five.sections.head? = some 2 ∧ (s.plan.signals.get? five.entry).map SignalRec.dir = some .east :=
  ⟨⟨{ entered with fs := { running.fs with inputs := clears [4, 5, 7, 9, 12, 13] } }, rfl,
      registerLaw_of _ (by decide) (by decide) (by decide) (by decide), rfl, by decide +kernel, rfl, rfl, rfl⟩,
    ⟨{ running with
        fs := { running.fs with inputs := clears [2, 4, 5, 7, 9, 12, 13] },
        iu := { running.iu with
          routes := ⟨[(1, ⟨5, none, 12, .cleared, [.reserved, .reserved], 0, none⟩)]⟩,
          marks := ⟨[(2, .route 1), (3, .route 1)]⟩ } }, rfl,
      registerLaw_of _ (by decide) (by decide) (by decide) (by decide), rfl, by decide +kernel, rfl, rfl, rfl⟩⟩

/-- TrackingFollowsTheReport: a section left while another is held, and the last one; a trigger that acts on train 62; a demo
that a trigger ends; and one head arrival to take. -/
theorem witness_TrackingFollowsTheReport_release :
    (entered.iu.routes.Wf ∧ entered.iu.marks.Wf ∧ entered.iu.points.Wf ∧ entered.mark 2 = .route 1 ∧
      (five.points.map Prod.fst).Nodup ∧ five.sections[0]? = some 2 ∧
      ([SectionMark.entered, .reserved] : List _)[1]? = some .reserved) ∧
      (∃ s : State, s.mark 3 = .route 1 ∧ s.route? 1 = some ⟨5, some 2, 0, .occupied, [.released, .entered], 0, none⟩ ∧
        s.iu.routes.Wf ∧ s.iu.marks.Wf ∧ s.iu.points.Wf) ∧
      (∃ (s : State) (g : TriggerRec), s.train? 2 = some visitor ∧ s.plan.triggers.Wf ∧ s.plan.triggers.get? 1 = some g ∧
        g.sect = 1 ∧ visitor.auto = true ∧ visitor.cls ∈ g.classes ∧ g.dir = .either) ∧
      showing.awu.running = some ⟨1, 62, 1, 1, 1⟩ ∧ showing.train? 2 = some visitor ∧
      ∃ s : State, s.due.arrivals = [⟨2, 1, .setSpeed 9⟩] :=
  ⟨⟨by decide, by decide, by decide, rfl, by decide, rfl, rfl⟩,
    ⟨{ entered with iu := { entered.iu with
        routes := ⟨[(1, ⟨5, some 2, 0, .occupied, [.released, .entered], 0, none⟩)]⟩, marks := ⟨[(3, .route 1)]⟩ } }, rfl, rfl,
      by decide, by decide, by decide⟩,
    ⟨{ running with pm := { running.pm with plan := { layout with
        triggers := ⟨[(1, ⟨1, .either, [.demo], .setSpeed 9⟩)]⟩ } } }, ⟨1, .either, [.demo], .setSpeed 9⟩, rfl, by decide, rfl, rfl, rfl,
      by decide, rfl⟩,
    rfl, rfl, { due := { arrivals := [⟨2, 1, .setSpeed 9⟩] } }, rfl⟩

/-- A demo runs on a working layout and its button flashes; train 62 may go faster, and nothing is due. -/
def ramping : State :=
  { cleared with
    pm := { cleared.pm with plan := { layout with device := { layout.device with console1 := 2 } } },
    awu := { cleared.awu with running := some ⟨1, 62, 1, 1, 2⟩, lamps := ⟨[(257, .flash)]⟩ } }

/-- What one tick of the layout leaves, where it leaves anything. -/
def ticked (s : State) : Option State :=
  match exec (.layoutTick ⟨false, false, false⟩ []) s with
  | .next t => some t
  | .fault _ => none
  | .refused _ => none

/-- LayoutTick: the tick's quiet hypotheses, its timers', its lamps' and its boards', all met by one state; its train's grade
then rises, and its lamp goes over. -/
theorem witness_LayoutTick_ramp :
    (ramping.due.settled = true ∧ ramping.iu.stack = [] ∧ ramping.awu.queue = [] ∧
      (∀ c ∈ [ramping.plan.device.console1, ramping.plan.device.console2, ramping.plan.device.console3], c ≠ 1 ∧ c ≠ 5) ∧
      ramping.awu.running.map Running.remaining = some 2 ∧ ramping.mc.mode = .run) ∧
      ramping.turnIdle ∧
      (ramping.tc.timer = none ∧ ramping.tr.keepAlive.rows = [(12, .counting 99)] ∧
        (∀ r ∈ ramping.iu.points.rows, r.2.throw = none) ∧ (∀ r ∈ ramping.iu.routes.rows, r.2.state ≠ .cancelling) ∧
        (∀ r ∈ ramping.tr.trains.rows, r.2.dwell = none)) ∧
      (ramping.lamp 257 = .flash ∧ ramping.lampOf ⟨9, 30, 1⟩ = .flash ∧ ramping.fs.image.Wf ∧ ramping.plan.buttons.Wf ∧
        ramping.plan.buttons.get? 257 = some ⟨9, 30, 1⟩ ∧ (∀ r ∈ ramping.plan.buttons.rows, r.2.lamp = 30 → r.1 = 257) ∧
        (∀ g ∈ ramping.plan.signals.rows, 30 ∉ g.2.lampBits) ∧
        ∀ r ∈ ramping.plan.points.rows, r.2.normalDrive ≠ 30 ∧ r.2.reverseDrive ≠ 30) ∧
      (ramping.awu.views.Wf ∧ ramping.plan.boards.Wf ∧ ramping.plan.boards.get? 1 = some ⟨[3]⟩) ∧
      (ticked ramping).map (fun t => ((t.train? 2).map Train.granted, t.out 30)) = some (some 4, !ramping.out 30) :=
  ⟨by decide +kernel, .inr (by decide +kernel), by decide +kernel, by decide +kernel, by decide +kernel, by decide +kernel⟩

/-! ### The statements' hypotheses are met: aspects, grades and the urgent list -/

theorem joined_of (s : State) (h : ∀ a ∈ s.iu.routes.rows, ∀ b ∈ s.iu.routes.rows,
    s.entrySignal a.1 = s.entrySignal b.1 → a.1 = b.1) (j k e : Nat) (hj : s.entrySignal j = some e)
    (hk : s.entrySignal k = some e) : j = k := by
  have row : ∀ n, s.entrySignal n = some e → ∃ r, (n, r) ∈ s.iu.routes.rows := by
    intro n hn
    cases at_ : s.route? n with
    | none => simp [State.entrySignal, at_] at hn
    | some r => exact ⟨r, rowsGet_mem _ _ _ at_⟩
  obtain ⟨r, hr⟩ := row j hj
  obtain ⟨q, hq⟩ := row k hk
  exact h _ hr _ hq (hj.trans hk.symm)

/-- A MAIN route over one section, CLEARED; a SHUNT route. -/
def line (cls : MainShunt) (entry exit sec : Nat) : RouteRec := ⟨cls, entry, exit, [sec], [], [], [], none⟩

/-- The row of a CLEARED route of one section. -/
def clearRow (route : Nat) : ActiveRoute := ⟨route, none, 0, .cleared, [.reserved], 0, none⟩

/-- Routes 6, 7 and 8 follow each other, route 9 is a SHUNT route of its own, and no train is near. -/
def chained : State :=
  { running with
    pm := { running.pm with plan := { layout with
      routes := ⟨[(6, line .main 6 7 2), (7, line .main 7 8 3), (8, line .main 8 0 91), (9, line .shunt 9 0 92)]⟩ } },
    iu := { running.iu with
      routes := ⟨[(1, clearRow 6), (2, clearRow 7), (3, clearRow 8), (4, clearRow 9)]⟩,
      marks := ⟨[(2, .route 1), (3, .route 2), (91, .route 3), (92, .route 4)]⟩ } }

theorem chained_proves (r : ActiveRoute) (d : RouteRec) (c : r.state = .cleared) (p : d.points = []) (f : d.flanks = [])
    (e : ∀ x ∈ d.sections ++ d.overlap, chained.occupied x = false ∧ chained.inSpan x = false ∧ chained.stray x = false) :
    chained.proves r d := ⟨c, by simp [p, f], e⟩

theorem chained_last (b : Nat) : ¬chained.runsInto 3 b := by
  rintro ⟨r, d, q, e, h, g, -, -, n, -⟩
  cases Option.some.inj h
  cases Option.some.inj g
  exact n rfl

theorem chained_second : chained.runsInto 2 3 :=
  ⟨_, _, _, _, rfl, rfl, rfl, rfl, by decide, rfl, rfl, rfl, chained_proves _ _ rfl rfl rfl (by decide)⟩

theorem chained_first : chained.runsInto 1 2 :=
  ⟨_, _, _, _, rfl, rfl, rfl, rfl, by decide, rfl, rfl, rfl, chained_proves _ _ rfl rfl rfl (by decide)⟩

/-- ProceedIsProved and InterlockingReads: routes at depth 1, 2 and 3, a SHUNT route, a signal that no route enters at, and a
route that does not prove its points. -/
theorem witness_ProceedIsProved_depths :
    RouteLaw chained ∧ chained.working = true ∧ chained.depthIs 3 1 ∧ chained.depthIs 2 2 ∧ chained.depthIs 1 3 ∧
      (∀ k, k ∈ [1, 2, 3, 4] → ∃ r d, chained.route? k = some r ∧ chained.routeRec r = some d ∧ chained.proves r d ∧
        d.entry = k + 5 ∧ (d.cls = .shunt ↔ k = 4)) ∧
      (∀ slot, running.entrySignal slot ≠ some 1) ∧ RouteLaw (routed .cancelling none) ∧
      ∃ r d, (routed .cancelling none).route? 1 = some r ∧ (routed .cancelling none).routeRec r = some d ∧
        ¬(routed .cancelling none).proves r d :=
  ⟨{ rising := by decide
     slots := by decide
     entries := joined_of _ (by decide)
     few := by decide
     once := by decide
     levels := by decide
     setup := fun h => by cases h },
    rfl, .inl ⟨rfl, chained_last⟩, .inr (.inl ⟨rfl, 3, chained_second, chained_last⟩),
    .inr (.inr ⟨rfl, 2, 3, chained_first, chained_second⟩),
    by
      intro k h
      have : k = 1 ∨ k = 2 ∨ k = 3 ∨ k = 4 := by simpa using h
      rcases this with rfl | rfl | rfl | rfl <;>
        exact ⟨_, _, rfl, rfl, chained_proves _ _ rfl rfl rfl (by decide), rfl, by decide⟩,
    fun _ h => (nomatch h), routed_routes _ _, _, _, rfl, rfl, fun h => (nomatch h.cleared)⟩

theorem spans_of (s : State) (a : ∀ r ∈ s.tr.trains.rows, r.2.span ≠ [] ∧ r.2.span.length ≤ 6 ∧ r.2.span.Nodup)
    (b : ∀ r ∈ s.tr.trains.rows, ∀ q ∈ s.tr.trains.rows, r.1 ≠ q.1 → ∀ z ∈ r.2.span, z ∉ q.2.span) : SpanLaw s where
  span := trains_all (P := fun _ x => x.span ≠ [] ∧ x.span.length ≤ 6 ∧ x.span.Nodup) a
  apart j k x y sec hj hk ha hb := Decidable.byContradiction fun n =>
    b (j, x) (rowsGet_mem _ _ _ hj) (k, y) (rowsGet_mem _ _ _ hk) n sec ha hb

theorem urgent_of (s : State) (a : s.ss.trains.Wf) (b : s.ss.urgent.Nodup)
    (c : ∀ k ∈ s.ss.urgent, s.train? k ≠ none) : UrgentLaw s := ⟨a, b, c⟩

theorem running_spans : SpanLaw running := spans_of _ (by decide) (by decide)

/-- ProceedIsProved: train 62 may run at grade 2 and at no more than 63; engine 61, with no route, may run at none. -/
theorem witness_ProceedIsProved_grades :
    RouteLaw cleared ∧ SpanLaw cleared ∧ PlanForm cleared.plan ∧ cleared.plan.check = none ∧ cleared.tr.trains.Wf ∧
      GradeLaw cleared ∧ (∃ x, cleared.train? 2 = some x ∧ x.granted = 2 ∧ 2 ≤ cleared.targetOf 2 x) ∧
      ∃ x, cleared.train? 1 = some x ∧ cleared.targetOf 1 x = 0 :=
  have all : cleared.plan.check = none ∧ (cleared.train? 2).map Train.granted = some 2 ∧
      ((cleared.train? 2).map (cleared.targetOf 2)).any (fun g => decide (2 ≤ g)) = true ∧
      (cleared.train? 1).map (cleared.targetOf 1) = some 0 := by decide +kernel
  ⟨cleared_routes, spans_of _ (by decide +kernel) (by decide +kernel), by constructor <;> decide +kernel, all.1,
    cleared_register.rising, cleared_grades,
    by
      obtain ⟨-, a, b, -⟩ := all
      cases h : cleared.train? 2 with
      | none => rw [h] at a; cases a
      | some x =>
        rw [h] at a b
        exact ⟨x, rfl, Option.some.inj a, by simpa using b⟩,
    by
      have a := all.2.2.2
      cases h : cleared.train? 1 with
      | none => rw [h] at a; cases a
      | some x =>
        rw [h] at a
        exact ⟨x, rfl, Option.some.inj a⟩⟩

/-- An order is under way and train 62 waits on the urgent list; train 61 bears the emergency mark. -/
def ordering (broadcast : Bool) (port : Option DriveOrder) : State :=
  { running with ss := {
    trains := ⟨[(1, { emergency := true })]⟩, urgent := [2], broadcast := broadcast, port := port } }

/-- RegisterAndHandleLawsKept, SetSpeedAndRelease, ReverseTrain, EnterTrain and ChangesOfMode: the law of the urgent list and
the law of spans of the states these act on, with an idle port, one that has the broadcast to send, and one with an order
under way. -/
theorem witness_the_urgent_list :
    (SpanLaw running ∧ UrgentLaw running) ∧ (SpanLaw wagon ∧ UrgentLaw wagon ∧ wagon.Still) ∧
      (SpanLaw entered ∧ UrgentLaw entered) ∧ UrgentLaw cleared ∧ running.ss.port = none ∧ running.ss.broadcast = false ∧
      (∀ broadcast port, SpanLaw (ordering broadcast port) ∧ UrgentLaw (ordering broadcast port) ∧
        RegisterLaw (ordering broadcast port) ∧ (ordering broadcast port).Quiet ∧ (ordering broadcast port).listening ∧
        (ordering broadcast port).names 12 (pair 0#8 1#8) 1 engine ∧ (ordering broadcast port).ss.urgent = 2 :: []) ∧
      (ordering true none).ss.port = none ∧ (ordering true none).ss.broadcast = true ∧
      (ordering false (some ⟨61, 0, .forward, false⟩)).ss.port ≠ none :=
  ⟨⟨running_spans, urgent_of _ (by decide) (by decide) (by decide)⟩,
    ⟨spans_of _ (by decide) (by decide), urgent_of _ (by decide) (by decide) (by decide),
      ⟨rfl, .inr rfl, .inr (.inr rfl), .inr ⟨rfl, rfl, rfl⟩⟩⟩,
    ⟨entered_spans, urgent_of _ (by decide) (by decide) (by decide)⟩,
    urgent_of _ (by decide +kernel) (by decide +kernel) (by decide +kernel), rfl, rfl,
    fun broadcast port => ⟨spans_of _ (by simp [ordering, running, engine, visitor]) (by simp [ordering, running, engine, visitor]),
      urgent_of _ (by simp [ordering, Tab.Wf, Tab.keys]) (by simp [ordering]) (by simp [ordering, running, State.train?, Tab.get?, rowsGet]),
      registerLaw_of _ (by simp [ordering, running, Tab.Wf, Tab.keys]) (by simp [ordering, running, Tab.keys])
        (by simp [ordering, running, engine, visitor]) (by simp [ordering, running]),
      ⟨rfl, .inr rfl⟩, rfl, engine_named, rfl⟩,
    rfl, rfl, by decide⟩

/-! ### The statements' hypotheses are met: the end of a demo and what TR loses -/

/-- Demo 2 runs on engine 61, whose turn request waits behind a plain alignment of cab 4. -/
def turningBack : State :=
  { running with
    tc := { running.tc with queue := [⟨none, 1, .a, 4, 9, 9, false⟩, ⟨some 61, 2, .a, 40, 6, 6, false⟩] },
    awu := { running := some ⟨2, 61, 1, 1, 1⟩ } }

/-- DemosEnd: a demo whose train has a CLEARED route, and a TURN demo whose request waits. -/
theorem witness_DemosEnd_with_a_route_and_a_turn :
    (∃ s : State, RouteLaw s ∧ RegisterLaw s ∧ s.awu.running = some ⟨1, 62, 1, 1, 1⟩ ∧ s.train? 2 = some visitor ∧
      visitor.number = 62 ∧ DemoEnd.stopped ≠ .complete ∧
      s.route? 1 = some ⟨5, some 2, 40, .cleared, [.reserved, .reserved], 0, none⟩) ∧
      RegisterLaw turningBack ∧ turningBack.awu.running = some ⟨2, 61, 1, 1, 1⟩ ∧
      turningBack.plan.demos.get? 2 = some ⟨.turn 2 .a, 61, 60⟩ ∧
      turningBack.tc.queue = [⟨none, 1, .a, 4, 9, 9, false⟩] ++ ⟨some 61, 2, .a, 40, 6, 6, false⟩ :: [] ∧
      turningBack.tc.served ≠ some (1 + 1) ∧
      (∀ z ∈ [(⟨none, 1, .a, 4, 9, 9, false⟩ : TurnReq)] ++ [], z.train ≠ some 61) ∧ turningBack.due.settled = true ∧
      turningBack.awu.queue = [] ∧ turningBack.listening ∧ Carries (frame 0x61 0 [2#8]) 0x61 0 [2#8] :=
  ⟨⟨{ showing with iu := { showing.iu with
        routes := ⟨[(1, ⟨5, some 2, 40, .cleared, [.reserved, .reserved], 0, none⟩)]⟩,
        marks := ⟨[(2, .route 1), (3, .route 1)]⟩ } },
      routeLaw_of _ (by decide) (by decide) (by decide) rfl (by decide),
      registerLaw_of _ (by decide) (by decide) (by decide) (by decide), rfl, rfl, rfl, by decide, rfl⟩,
    registerLaw_of _ (by decide) (by decide) (by decide) (by decide), rfl, rfl, rfl, by decide, by decide, rfl, rfl, rfl,
    carries_frame _ _ _ (by decide) (by decide)⟩

/-- Train 62 is LOST on a section. -/
def lost (sec : Nat) : State :=
  { running with tr := { running.tr with trains := ⟨[(1, engine), (2, { visitor with span := [sec], state := .lost })]⟩ } }

/-- Engine 61 stands before the section on which train 62 is LOST. -/
def followed : State :=
  { running with tr := { running.tr with
    trains := ⟨[(1, { engine with span := [1] }), (2, { visitor with span := [2], state := .lost })]⟩ } }

/-- Train 62 has taken its seventh section. -/
def seventh (tail : Nat) : State :=
  { running with tr := { running.tr with trains := ⟨[(1, engine), (2, { visitor with span := [tail, 4, 5, 6, 7, 8, 9] })]⟩ } }

/-- TrackingFollowsTheReport: a LOST train whose section is taken, with no train before it and with one; a section taken that
no route reserves; a seventh section with the tail occupied and clear. -/
theorem witness_TrackingFollowsTheReport_lost :
    (RegisterLaw (lost 1) ∧ (lost 1).plan.check = none ∧ PlanForm (lost 1).plan ∧
      (lost 1).train? 2 = some { visitor with span := [1], state := .lost } ∧
      (∀ j y, (lost 1).train? j = some y → 1 ∈ y.span → j = 2) ∧
      ∀ j y d, (lost 1).train? j = some y → ¬(lost 1).leadsTo y 1 d) ∧
      (RegisterLaw followed ∧ followed.plan.check = none ∧ PlanForm followed.plan ∧
        (∀ j y, followed.train? j = some y → 2 ∈ y.span → j = 2) ∧
        followed.train? 1 = some { engine with span := [1] } ∧ followed.leadsTo { engine with span := [1] } 2 .east) ∧
      (∃ s : State, RegisterLaw s ∧ s.spanOf 2 = none ∧ s.candidates s 2 = [(2, .east)] ∧ s.train? 2 = some visitor ∧
        s.stray 2 = false ∧ s.reservedFor 2 2 .east = none) ∧
      (∀ tail, RegisterLaw (seventh tail) ∧
        (seventh tail).train? 2 = some { visitor with span := [tail, 4, 5, 6, 7, 8, 9] }) ∧
      (seventh 1).occupied 1 = true ∧ (seventh 3).occupied 3 = false := by
  have passes : (lost 1).plan.check = none := by decide +kernel
  refine ⟨⟨registerLaw_of _ (by decide) (by decide) (by decide) (by decide), passes, layout_form, rfl,
      trains_all (s := lost 1) (P := fun j y => 1 ∈ y.span → j = 2) (by decide),
      fun j y d h l => (trains_all (s := lost 1) (P := fun _ y => y.state = .lost ∨
        ∀ e ∈ (lost 1).plan.joins (lost 1).align y.head y.dir, e.target ≠ 1) (by decide) j y h).elim l.1
        fun n => l.2.elim fun e q => n e q.1 q.2.1⟩,
    ⟨registerLaw_of _ (by decide) (by decide) (by decide) (by decide), passes, layout_form,
      trains_all (s := followed) (P := fun j y => 2 ∈ y.span → j = 2) (by decide), rfl, by decide,
      ⟨2, false, none⟩, by decide, rfl, ⟨fun _ h => (nomatch h), fun _ h => (nomatch h)⟩, rfl, ?_⟩,
    ⟨{ running with fs := { running.fs with inputs := clears [2, 4, 5, 7, 9, 12, 13] } },
      registerLaw_of _ (by decide) (by decide) (by decide) (by decide), rfl, by decide +kernel, rfl, rfl, by decide +kernel⟩,
    fun tail => ⟨registerLaw_of _ (by simp [seventh, running, Tab.Wf, Tab.keys]) (by simp [seventh, running, Tab.keys])
      (by simp [seventh, running, engine, visitor]) (by simp [seventh, running]), rfl⟩, by decide, by decide⟩
  rintro ⟨e, h, -, -, p, c⟩
  have all : ∀ e ∈ followed.plan.joins followed.align 1 .east, e.cond = none := by decide
  exact absurd (all e h) (by rw [c]; exact fun h => by cases h)

/-! ### The TC's event comes before the retry scan it sets off (R139) -/

/-- A plain alignment to road 2 is about to lock; others may wait, and a route over the bridge to road 2 does. -/
def aligned (others : List TurnReq) : State :=
  { armed 14 with
    pm := { running.pm with plan := { layout with
      routes := ⟨[(6, ⟨.main, 1, 0, [90, 92], [], [], [], some (2, .a)⟩)]⟩ } },
    fs := { (armed 14).fs with
      inputs := Tab.putD {} (clears [1, 2, 3, 4, 5, 7, 9, 12, 13]) 14 { value := false, count := 1, threshold := 2 } },
    tr := { running.tr with trains := ⟨[(2, visitor)]⟩ },
    iu := { running.iu with stack := [⟨6, none, 4, 5, 5⟩] },
    tc := { (turning .locking).tc with
      pos := some 8, queue := ⟨none, 2, .a, 12, 6, 6, false⟩ :: others, returnHeld := none,
      burst := none } }

/-- What the scan that confirms the lock leaves of the turntable and of the route stack. -/
def locks (others : List TurnReq) : TableState × Nat :=
  let t := after (.scanCompletion (changing 99) []) (aligned others)
  (t.tc.state, t.iu.stack.length)

theorem test_lock_confirmed_arbitrates_before_the_retry_scan :
    locks [⟨none, 1, .a, 4, 9, 9, false⟩] = (.unlocking, 1) ∧ locks [] = (.locked, 0) := by decide +kernel

/-! ### The statements' hypotheses are met: outputs, checked paths, boards and approach timers -/

theorem outputLaw_of (s : State) (i : s.fs.image.Wf)
    (a : ∀ r ∈ s.plan.signals.rows, ∀ x ∈ r.2.lit (s.signal r.1).lamps,
      (s.plan.outputBits.filter (fun o => decide (o = x.1))).length = 1 → s.out x.1 = x.2)
    (b : ∀ r ∈ s.plan.buttons.rows, s.lamp r.1 ≠ .flash →
      (s.plan.outputBits.filter (fun o => decide (o = r.2.lamp))).length = 1 →
        s.out r.2.lamp = decide (s.lamp r.1 = .steady)) : OutputLaw s where
  image := i
  signals signal g bit v h m := a (signal, g) (rowsGet_mem _ _ _ h) (bit, v) m
  buttons key r h := b (key, r) (rowsGet_mem _ _ _ h)

/-- AspectLawKept: a tick on a layout whose outputs show its lamps; its signal's caution lamp is lit. -/
theorem witness_AspectLawKept_outputs :
    OutputLaw cleared ∧ PlanForm cleared.plan ∧ (∀ p, cleared.pm.store = some p → PlanForm p) ∧ cleared.out 17 = true ∧
      ∃ t, step { cleared with pending := [.layoutTick ⟨false, false, false⟩ []] } = .next t ∧ t.plan = cleared.plan :=
  ⟨outputLaw_of _ (by decide +kernel) (by decide +kernel) (by decide +kernel), by constructor <;> decide +kernel,
    fun _ h => (absent (by decide +kernel) h).elim, by decide +kernel, _, rfl, by decide +kernel⟩

/-- The layout with a line from the platform to road 1 and on over the bridge: route 10 has an exit signal and an overlap,
route 7 a turntable requirement; and triggers at the platform. -/
def through : Plan :=
  { layout with
    sections := ⟨[
      (1, ⟨200, 0, .staging, 60, [⟨2, false, none⟩], [], 0⟩),
      (2, ⟨100, 1, .plain, 60, [⟨3, false, none⟩], [⟨1, false, none⟩], 0⟩),
      (3, ⟨300, 2, .platform, 60, [⟨91, false, none⟩], [⟨2, false, none⟩], 1⟩),
      (90, ⟨600, 3, .bridge, 20, [], [], 0⟩),
      (91, ⟨300, 4, .road, 20, [], [⟨3, false, none⟩], 0⟩),
      (92, ⟨300, 5, .road, 20, [], [], 0⟩)]⟩,
    signals := ⟨[
      (1, ⟨.main, 2, .east, 1, 16, some 17, some 18, some 19, none⟩),
      (2, ⟨.main, 91, .east, 3, 23, some 24, some 25, some 26, none⟩),
      (4, ⟨.shunt, 2, .west, 3, 32, none, none, none, some 33⟩)]⟩,
    routes := ⟨[
      (5, ⟨.main, 1, 0, [2, 3], [(1, .normal)], [], [], none⟩),
      (7, ⟨.main, 2, 0, [91, 90], [], [], [], some (1, .a)⟩),
      (9, ⟨.shunt, 4, 0, [2, 1], [(1, .normal)], [], [], none⟩),
      (10, ⟨.main, 1, 2, [2, 3], [(1, .normal)], [], [91], none⟩)]⟩,
    roads := ⟨[(1, ⟨0, 91, true⟩), (2, ⟨8, 92, false⟩)]⟩,
    triggers := ⟨[(1, ⟨3, .either, [.demo], .dwell 5 5⟩)]⟩ }

/-- PassedPlanIsSound: a plan that passes, with an exit signal and an overlap, a turntable requirement with its alignment, a
SHUNT route and a trigger; and one that passes without a turntable. -/
theorem witness_PassedPlanIsSound_paths :
    PlanForm through ∧ through.check = none ∧ (through.routes.get? 10).map RouteRec.exit = some 2 ∧
      (∃ r, through.routes.get? 7 = some r ∧ through.alignedFor r (some 0)) ∧
      (∃ r, through.routes.get? 10 = some r ∧ through.alignedFor r none ∧ r.overlap ≠ []) ∧
      (∃ r, through.routes.get? 9 = some r ∧ r.cls = .shunt) ∧ through.triggers.get? 1 ≠ none ∧
      through.turntable.present = true ∧
      ∃ p : Plan, PlanForm p ∧ p.check = none ∧ p.turntable.present = false :=
  have passes : through.check = none ∧
      ({ sections := ⟨[(1, ⟨200, 0, .plain, 60, [], [], 0⟩)]⟩ } : Plan).check = none := by decide +kernel
  ⟨by constructor <;> decide, passes.1, rfl, ⟨_, rfl, .inr ⟨1, ⟨0, 91, true⟩, .inl ⟨rfl, rfl, rfl⟩⟩⟩,
    ⟨_, rfl, .inl ⟨rfl, rfl⟩, by decide⟩, ⟨_, rfl, rfl⟩, by decide, rfl,
    { sections := ⟨[(1, ⟨200, 0, .plain, 60, [], [], 0⟩)]⟩ }, by constructor <;> decide, passes.2, rfl⟩

/-- PointTimers: section 2 becomes occupied under a throw that no route waits on, and under one that route 5 waits on. -/
theorem witness_PointTimers_occupied (routes : Tab ActiveRoute) (h : routes = ⟨[]⟩ ∨ routes = ⟨[(1, waiting)]⟩) :
    (throwing routes).plan.points.Wf ∧ (throwing routes).iu.points.Wf ∧ (throwing routes).iu.marks.Wf ∧
      (throwing routes).iu.routes.Wf ∧ (throwing routes).plan.points.get? 1 = some ⟨2, 10, 11, 6, 7, 3, 20, 40⟩ ∧
      ((throwing routes).point 1).state = .movingN ∧ (throwing routes).fs.image.Wf ∧
      (routes = ⟨[]⟩ → ∀ k, (throwing routes).route? k = none) ∧
      (routes = ⟨[(1, waiting)]⟩ → (throwing routes).route? 1 = some waiting ∧
        (throwing routes).routeRec waiting = some five ∧ (∀ m ∈ waiting.marks, m = .reserved) ∧ waiting.moving ≠ 0 ∧
        (1, Pos.normal) ∈ five.points ++ five.flanks ∧ ((five.points ++ five.flanks).map Prod.fst).Nodup) := by
  rcases h with rfl | rfl
  · exact ⟨by decide, by decide, by decide, by decide, rfl, rfl, by decide, fun _ _ => rfl, fun h => (nomatch h)⟩
  · exact ⟨by decide, by decide, by decide, by decide, rfl, rfl, by decide, fun h => (nomatch h),
      fun _ => ⟨rfl, rfl, by decide, by decide, by decide, by decide⟩⟩

theorem test_occupied_section_abandons_the_throw :
    ((throwing ⟨[(1, waiting)]⟩).sectionOccupied 2).point 1 = { state := .failed, fault := true } ∧
      ((throwing ⟨[(1, waiting)]⟩).sectionOccupied 2).route? 1 = none ∧
      (throwing ⟨[(1, waiting)]⟩).sectionOccupied 3 = throwing ⟨[(1, waiting)]⟩ := by decide +kernel

/-- TurntableSensors: the lock is confirmed under engine 61, its section occupied and clear, and under nobody. -/
theorem witness_TurntableSensors_served :
    RegisterLaw (turning .locking) ∧ (turning .locking).train? 1 = some { engine with state := .turning } ∧
      (turning .locking).tc.returnHeld = some false ∧ (∀ sec, engine.span = [sec] → (turning .locking).occupied sec = true) ∧
      (∃ s : State, RegisterLaw s ∧ s.tc = (turning .locking).tc ∧ s.train? 1 = some { engine with state := .turning } ∧
        s.occupied 90 = false) ∧ (aligned []).tc.returnHeld = none ∧
      (((turning .locking).sensors false false true false).train? 1).map Train.state = some .active :=
  ⟨turning_register _, rfl, rfl, fun sec h => by cases h; decide,
    ⟨{ turning .locking with fs := { running.fs with inputs := clears [1, 2, 3, 4, 5, 7, 9, 12, 13] } },
      registerLaw_of _ (by decide) (by decide) (by decide) (by decide), rfl, rfl, by decide⟩, rfl, by decide +kernel⟩

/-- VisitorQueue: START DEMO finds the AWU idle; and a full queue under KEEP_NEWEST. -/
theorem witness_VisitorQueue_idle :
    running.listening ∧ running.mc.mode = .run ∧ running.awu.running = none ∧ running.awu.queue = [] ∧
      running.due.settled = true ∧
      (∃ tried : State, tried = State.attemptStart { running.openFrame (frame 0x60 0 [1#8]) with
          awu := { running.awu with queue := [⟨1, 0, 0⟩] } } ∧ tried.awu.running = some ⟨1, 62, 0, 0, 1200⟩ ∧
        tried.due.turnEnds = [] ∧ tried.scanIdle ∧ tried.turnIdle) ∧
      ∃ s : State, s.awu.running = none ∧ 8 ≤ s.awu.queue.length ∧ s.plan.device.policy = .keepNewest ∧
        s.mc.mode = .run ∧ s.due.settled = true :=
  ⟨rfl, rfl, rfl, rfl, rfl, ⟨_, rfl, by decide +kernel, by decide +kernel, .inr (by decide +kernel),
      .inr (by decide +kernel)⟩,
    { running with
      pm := { running.pm with plan := { layout with device := { layout.device with policy := .keepNewest } } },
      awu := { queue := List.replicate 8 ⟨2, 0, 0⟩ } }, rfl, by decide, rfl, rfl, rfl⟩

/-- TurntableBoardAndPanelReads: a train that approaches the platform at grade 2, held short of it, and standing at it. -/
theorem witness_TurntableBoardAndPanelReads_lines :
    (RouteLaw cleared ∧ SpanLaw cleared ∧ PlanForm cleared.plan ∧ cleared.plan.check = none ∧ cleared.mc.mode = .run ∧
      cleared.console boardHold = false ∧ cleared.plan.boards.get? 1 = some ⟨[3]⟩) ∧
      cleared.boardView ⟨[3]⟩ = [⟨62, .approaching, 3, some 100⟩] ∧
      (cleared.updTrain 2 (fun x => { x with granted := 0 })).boardView ⟨[3]⟩ = [⟨62, .held, 3, none⟩] ∧
      (cleared.updTrain 2 (fun x => { x with span := [3] })).boardView ⟨[3]⟩ = [⟨62, .atPlatform, 3, none⟩] ∧
      arrivesIn 200 2 100 :=
  have all : cleared.plan.check = none ∧ cleared.boardView ⟨[3]⟩ = [⟨62, .approaching, 3, some 100⟩] ∧
      (cleared.updTrain 2 (fun x => { x with granted := 0 })).boardView ⟨[3]⟩ = [⟨62, .held, 3, none⟩] ∧
      (cleared.updTrain 2 (fun x => { x with span := [3] })).boardView ⟨[3]⟩ = [⟨62, .atPlatform, 3, none⟩] := by
    decide +kernel
  ⟨⟨cleared_routes, spans_of _ (by decide +kernel) (by decide +kernel), by constructor <;> decide +kernel, all.1,
    by decide +kernel, by decide +kernel, by decide +kernel⟩, all.2.1, all.2.2.1, all.2.2.2,
    by omega, .inl (by omega), fun m h => by omega⟩

/-- ScanCompletion: the chain fails in RUN, and in STOP. -/
theorem witness_ScanCompletion_fault :
    (∃ s : State, s.fs.chain = .suspect ∧ s.working = true ∧
      noticed (after (.scanCompletion (List.replicate 24 false) []) s).clp.notices .fieldFault 0 = true) ∧
      ∃ s : State, s.fs.chain = .suspect ∧ s.working = false ∧ s.Quiet ∧
        (after (.scanCompletion (List.replicate 24 false) []) s).clp = s.clp.record .fieldFault 0 0 :=
  ⟨⟨{ running with fs := { running.fs with chain := .suspect } }, rfl, rfl, by decide +kernel⟩,
    { stopped with fs := { stopped.fs with chain := .suspect } }, rfl, rfl, ⟨rfl, .inr rfl⟩, by decide +kernel⟩

/-- Route 5 CANCELLING with its approach section occupied or clear, in a layout with no console line of an act of its own. -/
def approaching (occupied : Bool) (timer : Nat) : State :=
  { routed .cancelling (some timer) with
    pm := { running.pm with plan := { layout with device := { layout.device with console1 := 2 } } },
    fs := { running.fs with inputs := clears (if occupied then [1, 2, 4, 5, 7, 9, 12, 13] else [0, 1, 2, 4, 5, 7, 9, 12, 13]) } }

/-- LayoutTick: an approach timer that counts, one at its last tick, and an approach that is found clear. -/
theorem witness_LayoutTick_approach (occupied : Bool) (timer : Nat) :
    (approaching occupied timer).iu.routes.Wf ∧
      (approaching occupied timer).route? 1 =
        some ⟨5, none, 12, .cancelling, [.reserved, .reserved], 0, some timer⟩ ∧
      (approaching occupied timer).plan.signals.get? five.entry =
        some ⟨.main, 2, .east, 1, 16, some 17, some 18, some 19, none⟩ ∧
      (approaching occupied timer).occupied 1 = occupied ∧ (approaching occupied timer).inSpan 1 = false ∧
      (approaching occupied timer).due.settled = true ∧ (approaching occupied timer).turnIdle ∧
      (approaching occupied timer).iu.stack = [] ∧ (approaching occupied timer).awu.queue = [] ∧
      (approaching occupied timer).awu.running = none ∧
      ∀ k x n, (approaching occupied timer).train? k = some x → x.dwell = some n → 1 < n := by
  refine ⟨by simp [approaching, routed, Tab.Wf, Tab.keys], rfl, rfl, by cases occupied <;> rfl, rfl, rfl,
    .inr ⟨rfl, rfl, rfl⟩, rfl, rfl, rfl, fun k x n h e => ?_⟩
  have none_ := rows_all (t := (⟨[(1, engine)]⟩ : Tab Train)) (P := fun _ x => x.dwell = none) (by decide) k x h
  rw [none_] at e
  cases e

theorem test_approach_timer_counts_and_ends :
    ((ticked (approaching true 2)).bind (fun t => t.route? 1)).bind ActiveRoute.approach = some 1 ∧
      (ticked (approaching true 1)).map (fun t => t.route? 1) = some none ∧
      (ticked (approaching false 2)).map (fun t => t.route? 1) = some none := by decide +kernel

/-! ### The statements' hypotheses are met: evictions under a fetch, grants told, turnouts, diverted trains -/

/-- NoticeRecording: a full table with the entry to be evicted selected, and with another. -/
theorem witness_NoticeRecording_selected (e : Notice) (h : e = ⟨.routeSet, 1, 1, 0⟩ ∨ e = ⟨.stray, 1, 1, 0⟩) :
    NoticeLaw { full with selection := some ⟨e, 32, 0, true⟩ } ∧
      (CLP.record { full with selection := some ⟨e, 32, 0, true⟩ } .overrun 1 0).selection =
        some ⟨e, 32, 0, decide (e.cause = .stray)⟩ := by
  refine ⟨⟨full_law.few, full_law.once, full_law.counts, fun x i => ?_⟩, ?_⟩
  · cases i; exact Nat.zero_le 15
  · rcases h with rfl | rfl <;> decide +kernel

/-- A plain alignment of cab 4 waits alone. -/
def lining : State :=
  { aligning none false with tc := { running.tc with queue := [⟨none, 1, .b, 4, 9, 9, false⟩] } }

/-- Turn: a TURN admitted behind a waiting request: the new entry is served, and the older one is. -/
theorem witness_Turn_granted :
    RegisterLaw lining ∧ lining.free = true ∧ lining.due.settled = true ∧
      (∀ p r, lining.tc.pos = some p → lining.plan.roads.get? 2 = some r → planMove p r.index .a none ≠ none) ∧
      answer (.turn (frame 0x51 12 [2#8, 0#8, 4#8, 1#8, 0#8, 0#8])) lining = some (.accepted [2#8, 6#8, 1#8]) ∧
      answer (.turn (frame 0x51 12 [2#8, 0#8, 15#8, 1#8, 0#8, 0#8])) lining = some (.accepted [2#8, 15#8, 0#8]) :=
  have told : answer (.turn (frame 0x51 12 [2#8, 0#8, 4#8, 1#8, 0#8, 0#8])) lining = some (.accepted [2#8, 6#8, 1#8]) ∧
      answer (.turn (frame 0x51 12 [2#8, 0#8, 15#8, 1#8, 0#8, 0#8])) lining = some (.accepted [2#8, 15#8, 0#8]) := by
    decide +kernel
  ⟨registerLaw_of _ (by decide) (by decide) (by decide) (by decide), rfl, rfl,
    fun p r h i => by cases h; cases i; decide, told.1, told.2⟩

theorem test_any_station_withdraws_a_plain_alignment :
    answer (.withdrawTurn (frame 0x52 12 [1#8, 1#8, 1#8, 4#8])) lining = some (.done []) ∧
      (after (.withdrawTurn (frame 0x52 12 [1#8, 1#8, 1#8, 4#8])) lining).tc.queue = [] := by decide +kernel

/-- PassedPlanIsSound: a plan that passes with a turnout, whose two joins have opposite conditions on its point. -/
theorem witness_PassedPlanIsSound_turnout :
    ∃ p : Plan, PlanForm p ∧ p.check = none ∧ p.namesInput 1 1 7 ∧ p.namesOutput 1 1 10 ∧
      ∃ r a b, p.sections.get? 1 = some r ∧ r.east = [a, b] ∧ a.cond = some (1, .normal) ∧ b.cond = some (1, .reverse) :=
  ⟨{ sections := ⟨[
        (1, ⟨200, 0, .plain, 60, [⟨2, false, some (1, .normal)⟩, ⟨3, false, some (1, .reverse)⟩], [], 0⟩),
        (2, ⟨100, 1, .plain, 60, [], [⟨1, false, none⟩], 0⟩), (3, ⟨100, 2, .plain, 60, [], [⟨1, false, none⟩], 0⟩)]⟩,
      points := ⟨[(1, ⟨1, 10, 11, 6, 7, 3, 20, 40⟩)]⟩, device := layout.device },
    by constructor <;> decide, by decide +kernel, .inr (.inl ⟨rfl, _, rfl, .inr rfl⟩), .inl ⟨rfl, _, rfl, .inl rfl⟩,
    _, _, _, rfl, rfl, rfl, rfl⟩

/-- R153: the section left RESERVED behind a train that came round another way adds nothing to its arrival time. -/
theorem test_board_counts_from_the_head :
    let s := cleared.updTrain 2 (fun x => { x with span := [2], route := some 1 })
    ({ s with
        pm := { s.pm with plan := { layout with
          routes := ⟨[(5, ⟨.main, 1, 0, [1, 2, 3], [(1, .normal)], [], [], none⟩)]⟩ } },
        iu := { s.iu with
          routes := ⟨[(1, ⟨5, some 2, 0, .occupied, [.reserved, .entered, .reserved], 0, none⟩)]⟩ } }
      : State).boardView ⟨[3]⟩ = [⟨62, .approaching, 3, some 25⟩] := by decide +kernel

end Sys2Proof.Tests
end

section
/-! PROOFS. What the pass of PLAN CHECK over the records of a plan tells of each record (R19, R20). -/
namespace Sys2Proof.Machine

theorem badBit_false {length : Nat} {used bits : List Nat} :
    badBit length used bits = false ↔ ∀ b ∈ bits, b < length ∧ b ∉ used := by
  simp [badBit]

/-- An examined record has no fault: its bits are within the chain and unused before, and none of its items fails. -/
theorem Exam.fault_none {dev : DeviceRec} {ui uo : List Nat} {e : Exam} (h : e.fault dev ui uo = none) :
    (∀ b ∈ e.ins, b < dev.inputLength ∧ b ∉ ui) ∧ (∀ b ∈ e.outs, b < dev.outputLength ∧ b ∉ uo) ∧
      ∀ i ∈ e.items, i.2 = false := by
  unfold Exam.fault at h
  split at h
  · contradiction
  next ins =>
  split at h
  · contradiction
  next outs =>
  refine ⟨badBit_false.1 (by simpa using ins), badBit_false.1 (by simpa using outs), fun i hi => ?_⟩
  simpa using List.find?_eq_none.1 (Option.map_eq_none_iff.1 h) i hi

/-- Records examined without a fault: each is without one, and no two name one bit. -/
theorem firstFault_none {dev : DeviceRec} {l : List Exam} {ui uo : List Nat} (h : firstFault dev ui uo l = none) :
    (∀ e ∈ l, (∀ b ∈ e.ins, b < dev.inputLength ∧ b ∉ ui) ∧ (∀ b ∈ e.outs, b < dev.outputLength ∧ b ∉ uo) ∧
      ∀ i ∈ e.items, i.2 = false) ∧
    l.Pairwise (fun d e => (∀ b ∈ e.ins, b ∉ d.ins) ∧ ∀ b ∈ e.outs, b ∉ d.outs) := by
  induction l generalizing ui uo with
  | nil => simp
  | cons e l ih =>
    unfold firstFault at h
    split at h
    · contradiction
    next own =>
    obtain ⟨each, apart⟩ := ih h
    simp only [List.mem_append, not_or] at each
    refine ⟨List.forall_mem_cons.2 ⟨Exam.fault_none own, fun x hx => ?_⟩, List.pairwise_cons.2 ⟨fun x hx => ?_, apart⟩⟩
    · obtain ⟨ins, outs, items⟩ := each x hx
      exact ⟨fun b hb => ⟨(ins b hb).1, (ins b hb).2.1⟩, fun b hb => ⟨(outs b hb).1, (outs b hb).2.1⟩, items⟩
    · obtain ⟨ins, outs, _⟩ := each x hx
      exact ⟨fun b hb => (ins b hb).2.2, fun b hb => (outs b hb).2.2⟩

/-- A plan that passes: code 1, code 2, and the records one by one. -/
theorem check_none {p : Plan} (h : p.check = none) :
    p.device.consoleFails = false ∧ p.sections.rows ≠ [] ∧ firstFault p.device [] [] p.exams = none := by
  unfold Plan.check at h
  split at h
  · contradiction
  next console =>
  split at h
  · contradiction
  next sections => exact ⟨by simpa using console, by simpa using sections, h⟩

/-- R20 code 3: in a plan that passes, every section's detector lies within the chain. -/
theorem check_none_reach {p : Plan} (h : p.check = none) : ∀ r ∈ p.sections.rows, r.2.detector < p.device.inputLength := by
  intro r hr
  have exam : p.examSection r.1 r.2 ∈ p.exams := by
    simp only [Plan.exams, List.mem_append, List.mem_map]
    grind
  exact (((firstFault_none (check_none h).2.2).1 _ exam).1 r.2.detector (by simp [Plan.examSection])).1

end Sys2Proof.Machine
end

section
/-! PROOFS. What Plan Memory, the layout mode and the input bits look like to the laws of the plan, and the operations of
the blocks that leave all of it alone. -/
namespace Sys2Proof.Machine

/-! ### The view -/

/-- What the laws of the plan and of the chain length read of a state. -/
def State.planView (s : State) : PM × Mode × Tab InBit × Nat := (s.pm, s.mc.mode, s.fs.inputs, s.fs.inLen)

theorem planView_eq {s t : State} (pm : t.pm = s.pm) (mode : t.mc.mode = s.mc.mode) (inputs : t.fs.inputs = s.fs.inputs)
    (inLen : t.fs.inLen = s.fs.inLen) : t.planView = s.planView := by
  unfold State.planView
  rw [pm, mode, inputs, inLen]

theorem Inner.planView {s t : State} (h : Inner s t) : t.planView = s.planView :=
  planView_eq h.pm (by rw [h.mc]) (by rw [h.fs]) (by rw [h.fs])

theorem Rail.planView {s t : State} (h : Rail s t) : t.planView = s.planView := h.toInner.planView

theorem planView_foldl {α : Type} {f : State → α → State} (h : ∀ s x, (f s x).planView = s.planView) (l : List α)
    (s : State) : (l.foldl f s).planView = s.planView := by
  induction l generalizing s with
  | nil => rfl
  | cons x l ih => rw [List.foldl_cons, ih, h]

theorem planView_ite {c : Prop} [Decidable c] {s t u : State} (ht : t.planView = s.planView)
    (hu : u.planView = s.planView) : (if c then t else u).planView = s.planView := by
  split <;> assumption

/-! ### Updates -/

@[simp] theorem putTrain_planView (s : State) (k : Nat) (x : Train) : (s.putTrain k x).planView = s.planView := rfl
@[simp] theorem putStray_planView (s : State) (x : Nat) (v : Bool) : (s.putStray x v).planView = s.planView := rfl
@[simp] theorem putSpeed_planView (s : State) (k : Nat) (r : SpeedRec) : (s.putSpeed k r).planView = s.planView := rfl
@[simp] theorem putHandles_planView (s : State) (c : Nat) (h : Handles) : (s.putHandles c h).planView = s.planView := rfl
@[simp] theorem putKeepAlive_planView (s : State) (c : Nat) (k : KeepAlive) :
    (s.putKeepAlive c k).planView = s.planView := rfl
@[simp] theorem setTc_planView (s : State) (x : TC) : (s.setTc x).planView = s.planView := rfl
@[simp] theorem wantArbitrate_planView (s : State) : s.wantArbitrate.planView = s.planView := rfl
@[simp] theorem wantAttempt_planView (s : State) : s.wantAttempt.planView = s.planView := rfl
@[simp] theorem notice_planView (s : State) (c : Cause) (n : Nat) : (s.notice c n).planView = s.planView := rfl
@[simp] theorem openFrame_planView (s : State) (f : Frame) : (s.openFrame f).planView = s.planView := rfl
@[simp] theorem hold_planView (s : State) (c : Nat) (a : Answer) : (s.hold c a).planView = s.planView := rfl
@[simp] theorem headEntry_planView (s : State) (k x : Nat) (how : Reserved) :
    (s.headEntry k x how).planView = s.planView := (headEntry_rail s k x how).planView
@[simp] theorem strayCleared_planView (s : State) (x : Nat) : (s.strayCleared x).planView = s.planView :=
  (strayCleared_rail s x).planView
@[simp] theorem sectionLeft_planView (s : State) (x : Nat) : (s.sectionLeft x).planView = s.planView :=
  (sectionLeft_rail s x).planView
@[simp] theorem sectionOccupied_planView (s : State) (x : Nat) : (s.sectionOccupied x).planView = s.planView :=
  (sectionOccupied_rail s x).planView
@[simp] theorem detection_planView (s : State) (p : Nat) : (s.detection p).planView = s.planView :=
  (detection_rail s p).planView
@[simp] theorem testSpan_planView (s : State) (k : Nat) : (s.testSpan k).planView = s.planView :=
  (testSpan_rail s k).planView
@[simp] theorem joinUrgent_planView (s : State) (k : Nat) : (s.joinUrgent k).planView = s.planView :=
  (joinUrgent_rail s k).planView
@[simp] theorem requestGrade_planView (s : State) (k g : Nat) : (s.requestGrade k g).planView = s.planView :=
  (requestGrade_rail s k g).planView
@[simp] theorem handOn_planView (s : State) : s.handOn.planView = s.planView := (handOn_inner s).planView
@[simp] theorem tcTakes_planView (s : State) : s.tcTakes.planView = s.planView := (tcTakes_inner s).planView
@[simp] theorem iuTakes_planView (s : State) : s.iuTakes.planView = s.planView := (iuTakes_inner s).planView
@[simp] theorem endDemo_planView (s : State) (why : DemoEnd) : (s.endDemo why).planView = s.planView :=
  (endDemo_inner s why).planView
@[simp] theorem emptyVisitors_planView (s : State) : s.emptyVisitors.planView = s.planView :=
  (emptyVisitors_inner s).planView
@[simp] theorem finish_planView (s : State) (before : List Nat) : (s.finish before).planView = s.planView :=
  (finish_inner s before).planView
@[simp] theorem stopSignals_planView (s : State) : s.stopSignals.planView = s.planView := (stopSignals_rail s).planView
@[simp] theorem clearOuts_planView (s : State) (l : List Nat) : (s.clearOuts l).planView = s.planView :=
  (clearOuts_rail s l).planView

@[simp] theorem updTrain_planView (s : State) (k : Nat) (g : Train → Train) : (s.updTrain k g).planView = s.planView := by
  unfold State.updTrain
  split <;> simp

@[simp] theorem scanNow_planView (s : State) : s.scanNow.planView = s.planView :=
  planView_ite (iuTakes_planView s) rfl

@[simp] theorem trainChanged_planView (s : State) (n : Nat) : (s.trainChanged n).planView = s.planView :=
  planView_ite (wantArbitrate_planView s) rfl

@[simp] theorem clearStray_planView (s : State) (x : Nat) : (s.clearStray x).planView = s.planView :=
  planView_ite (by simp) rfl

@[simp] theorem restartKeepAlive_planView (s : State) (c : Nat) : (s.restartKeepAlive c).planView = s.planView :=
  planView_ite rfl rfl

@[simp] theorem reportStation_planView (s : State) (n : Nat) : (s.reportStation n).planView = s.planView :=
  planView_ite rfl (restartKeepAlive_planView s n)

/-! ### Section reports (R61 to R73) -/

@[simp] theorem leavesSpan_planView (s : State) (x : Nat) : (s.leavesSpan x).planView = s.planView :=
  planView_ite (wantArbitrate_planView s) rfl

@[simp] theorem tailDeparture_planView (s : State) (x : Nat) : (s.tailDeparture x).planView = s.planView := by
  simp [State.tailDeparture]

@[simp] theorem trimSteps_planView (n k : Nat) (s : State) : (trimSteps n k s).planView = s.planView := by
  induction n generalizing s with
  | zero => rfl
  | succ n ih =>
    unfold trimSteps
    repeat' split
    all_goals simp [ih]

@[simp] theorem dropTail_planView (s : State) (k : Nat) : (s.dropTail k).planView = s.planView := by
  unfold State.dropTail
  repeat' split
  all_goals simp [apply_ite State.planView]

@[simp] theorem append_planView (s : State) (k : Nat) (x : Train) (sec : Nat) (d : Dir) :
    (s.append k x sec d).planView = s.planView := by
  have arrives : ∀ u : State, (u.headArrival k sec).planView = u.planView := fun u => by
    unfold State.headArrival
    split <;> rfl
  unfold State.append
  rw [arrives]
  split <;> simp [State.trim, State.overrun, apply_ite State.planView]

/-- R61, R62: the decision of an occupied section (its definition written out) and the IU's part. -/
@[simp] theorem takeOccupied_planView (live s : State) (x : Nat) :
    (State.takeOccupied live s x).planView = s.planView := by
  unfold State.takeOccupied
  rw [scanNow_planView, sectionOccupied_planView, scanNow_planView]
  show State.planView (match s.spanTrain x with
    | some (k, t) => if t.state = .lost then s.recover live k t x else s
    | none =>
      match s.candidates live x with
      | [(k, d)] =>
        match s.train? k with
        | none => s
        | some t => s.append k t x d
      | _ => s.goStray x) = _
  repeat' split
  all_goals simp [State.recover, State.goStray, apply_ite State.planView]

@[simp] theorem onePass_planView (live : State) (l : List Nat) (s : State) :
    (onePass live l s).1.planView = s.planView := by
  induction l generalizing s with
  | nil => rfl
  | cons x l ih =>
    unfold onePass
    split <;> simp [ih]

@[simp] theorem passes_planView (live : State) (n : Nat) (l : List Nat) (s : State) :
    (passes live n l s).planView = s.planView := by
  have rest : ∀ (l : List Nat) (s : State), (l.foldl (State.takeOccupied live) s).planView = s.planView :=
    planView_foldl (takeOccupied_planView live)
  induction n generalizing l s with
  | zero => exact rest l s
  | succ n ih =>
    unfold passes
    dsimp only
    split <;> simp [ih, rest]

@[simp] theorem takeReport_planView (s : State) (a b : List Nat) : (s.takeReport a b).planView = s.planView := by
  have clear : ∀ (s : State) (x : Nat), (s.takeClear x).planView = s.planView := fun s x => by
    unfold State.takeClear
    split <;> simp [State.trim]
  have track : (s.trackReport a b).planView = s.planView :=
    (planView_foldl clear b _).trans (passes_planView _ _ _ _)
  have act : ∀ (s : State) (x : Arrival), ((s.act x.slot x.trigger x.action).handOn).planView = s.planView := fun s x => by
    rw [handOn_planView]
    unfold State.act
    repeat' split
    all_goals simp [(triggerRoute_rail _ _ _).planView, (startDwell_inner _ _ _ _).planView]
  have arrivals : ∀ s : State, s.takeArrivals.planView = s.planView := fun s => planView_foldl act _ _
  simp [State.takeReport, arrivals, apply_ite State.planView, track]

/-- R35 to R38: no delivery of a scan touches the plan, the mode or the input bits. -/
@[simp] theorem deliver_planView (changed : List Nat) (s : State) (b : Block) :
    (s.deliver changed b).planView = s.planView := by
  cases b with
  | tr => exact takeReport_planView _ _ _
  | iu => exact planView_foldl (fun s (r : Nat × PointRec) => by simp) _ s
  | tc => exact planView_ite (by simp [(sensors_rail _ _ _ _ _).planView]) rfl
  | awu => exact planView_foldl (fun s (r : Nat × ButtonRec) => by simp [(press_inner _ _ _ _).planView]) _ s
  | ss => rfl

/-! ### Changes of mode (R156) -/

/-- R156: a change of mode changes the mode alone of what the view shows. -/
theorem changeMode_planView (s : State) (new : Mode) (r : Option Mode) :
    (s.changeMode new r).planView = (s.pm, new, s.fs.inputs, s.fs.inLen) := by
  have part : ∀ (old : Mode) (s : State) (b : Block), (State.modePart old new s b).planView = s.planView := fun old s b => by
    cases b with
    | tr =>
      exact planView_ite (planView_foldl (fun s x => planView_ite (putStray_planView s x true) rfl) _ s) rfl
    | iu => exact planView_ite (retryScan_rail s).planView rfl
    | ss => exact planView_ite rfl (planView_ite rfl rfl)
    | tc => exact planView_ite (tableStops_rail s).planView (planView_ite (tableResumes_rail s).planView rfl)
    | awu =>
      show (s.modeForAwu old new).planView = _
      unfold State.modeForAwu
      split
      · simp
      · simp
      · exact planView_ite (attemptStart_inner s).planView rfl
      · rfl
  exact planView_foldl (part s.mc.mode) _ _

/-! ### Requests of the Train Register -/

@[simp] theorem dropHandle_planView (s : State) (o : Owner) : (s.dropHandle o).planView = s.planView := by
  unfold State.dropHandle
  split
  · exact planView_ite rfl rfl
  · rfl

@[simp] theorem giveToCab_planView (s : State) (k c : Nat) : (s.giveToCab k c).planView = s.planView := by
  unfold State.giveToCab
  dsimp only
  repeat' split
  all_goals simp

@[simp] theorem giveTo_planView (s : State) (k : Nat) (x : Train) (o : Owner) : (s.giveTo k x o).planView = s.planView := by
  simp [State.giveTo]

theorem ownEnterTrain_planView (s : State) (st : Nat) (a : EnterAsk) : (ownEnterTrain s st a).1.planView = s.planView := by
  have strays : ∀ u : State, (a.span.foldl State.clearStray u).planView = u.planView :=
    planView_foldl clearStray_planView a.span
  unfold ownEnterTrain
  split
  · rfl
  · simp [State.enter, strays, apply_ite State.planView]

theorem ownRetireTrain_planView (s : State) (st ref : Nat) : (ownRetireTrain s st ref).1.planView = s.planView := by
  have record : ∀ k x, (s.retireRecord k x).planView = s.planView := fun k x =>
    (planView_foldl (fun s y => planView_ite (putStray_planView s y true) (sectionLeft_planView s y)) _ _).trans
      (dropHandle_planView s _)
  have part : ∀ k n (s : State) (b : Block), (State.retirePart k n s b).planView = s.planView := fun k n s b => by
    cases b with
    | tr => rfl
    | iu => exact planView_foldl (fun s (e : StackEntry) => notice_planView s _ e.route) _ _
    | ss => rfl
    | tc => exact (dropTurnsOf_rail s n).planView
    | awu => exact planView_ite (endDemo_planView _ _) rfl
  have retire : ∀ k x, (s.retire k x).planView = s.planView := fun k x => by
    have all := (planView_foldl (part k x.number) (fullOrder s.order) _).trans (record k x)
    exact planView_ite all all
  unfold ownRetireTrain
  repeat' split
  all_goals simp [retire]

theorem ownAcquireTrain_planView (s : State) (st : Nat) (a : Nat × Nat) :
    (ownAcquireTrain s st a).1.planView = s.planView := by
  unfold ownAcquireTrain
  repeat' split
  all_goals simp

theorem ownReleaseTrain_planView (s : State) (st ref : Nat) : (ownReleaseTrain s st ref).1.planView = s.planView := by
  unfold ownReleaseTrain
  repeat' split
  all_goals simp

theorem ownSetSpeed_planView (s : State) (st : Nat) (a : Nat × Nat) : (ownSetSpeed s st a).1.planView = s.planView := by
  unfold ownSetSpeed
  split <;> simp

theorem ownReverseTrain_planView (s : State) (st ref : Nat) : (ownReverseTrain s st ref).1.planView = s.planView := by
  have reverse : ∀ k x, (s.reverse k x).planView = s.planView := fun k x => by
    simp only [State.reverse, joinUrgent_planView, (reverseRoutes_rail _ _).planView, putTrain_planView]
    exact planView_ite rfl rfl
  unfold ownReverseTrain
  repeat' split
  all_goals simp [reverse]

theorem forSelected_planView (s : State) (st : Nat) (sel : Nat × Nat) {act : State → Nat → State}
    (h : ∀ s k, (act s k).planView = s.planView) : (s.forSelected st sel act).1.planView = s.planView := by
  unfold State.forSelected
  split
  · rfl
  · exact planView_foldl h _ s

theorem holdTrain_planView (held : Bool) (s : State) (k : Nat) : (State.holdTrain held s k).planView = s.planView := by
  unfold State.holdTrain
  repeat' split
  all_goals simp [State.toState]

theorem ownSetAuto_planView (s : State) (st : Nat) (a : (Nat × Nat) × Nat) :
    (ownSetAuto s st a).1.planView = s.planView := by
  unfold ownSetAuto
  split
  · rfl
  · exact forSelected_planView s st _ fun s k => updTrain_planView s k _

theorem ownSeekTrain_planView (s : State) (st n : Nat) : (ownSeekTrain s st n).1.planView = s.planView := by
  unfold ownSeekTrain
  split <;> rfl

theorem ownReadTrainField_planView (s : State) (st n : Nat) : (ownReadTrainField s st n).1.planView = s.planView := by
  unfold ownReadTrainField
  split <;> rfl

theorem ownReadTrainRecord_planView (s : State) (st : Nat) (u : Unit) :
    (ownReadTrainRecord s st u).1.planView = s.planView := by
  unfold ownReadTrainRecord
  dsimp only
  split <;> rfl

/-! ### Requests of the Interlocking Unit and the Turntable Controller -/

theorem ownSetRoute_planView (s : State) (st : Nat) (a : Nat × Nat × Nat × Bool) :
    (ownSetRoute s st a).1.planView = s.planView := by
  unfold ownSetRoute
  split
  · rfl
  · exact (askRoute_rail _ _).planView

theorem ownCancelRoute_planView (s : State) (st n : Nat) : (ownCancelRoute s st n).1.planView = s.planView := by
  unfold ownCancelRoute
  dsimp only
  repeat' split
  all_goals simp [(cancelParts_rail _ _ _ _).planView]

theorem ownPointTest_planView (s : State) (st : Nat) (a : Nat × Nat) : (ownPointTest s st a).1.planView = s.planView := by
  unfold ownPointTest
  repeat' split
  all_goals simp [(command_rail _ _ _).planView]

theorem ownClearFault_planView (s : State) (st : Nat) (a : Nat × Nat) :
    (ownClearFault s st a).1.planView = s.planView := by
  have point : ∀ p r, (s.clearPointFault p r).planView = s.planView := fun p r => planView_ite rfl rfl
  have field : (State.planView { s with fs := { s.fs with fieldFault := false } }) = s.planView := rfl
  unfold ownClearFault
  repeat' split
  all_goals simp [point, field]

theorem ownTurn_planView (s : State) (st : Nat) (a : Nat × Nat × Nat × Bool × Nat) :
    (ownTurn s st a).1.planView = s.planView := by
  unfold ownTurn
  repeat' split
  all_goals simp [(askTurn_rail _ _).planView]

theorem ownWithdrawTurn_planView (s : State) (st : Nat) (a : WithdrawAsk) :
    (ownWithdrawTurn s st a).1.planView = s.planView := by
  unfold ownWithdrawTurn
  repeat' split
  all_goals simp [(dropTurn_rail _ _).planView]

/-! ### Requests of the Automatic Working Unit -/

theorem ownStartDemo_planView (s : State) (st n : Nat) : (ownStartDemo s st n).1.planView = s.planView := by
  unfold ownStartDemo
  split
  · rfl
  · split
    · rfl
    · split
      · rfl
      next busy =>
      split
      · rfl
      · exact (admitDemo_inner s ⟨n, 0, 0⟩ (by simpa using busy)).planView

theorem ownStopDemo_planView (s : State) (st n : Nat) : (ownStopDemo s st n).1.planView = s.planView := by
  have drop : (s.dropVisitor n).planView = s.planView := planView_ite rfl rfl
  unfold ownStopDemo
  repeat' split
  all_goals simp [drop]

/-! ### Requests that only read, and the link's own -/

theorem ownReadRoute_fst (s : State) (st n : Nat) : (ownReadRoute s st n).1 = s := by
  unfold ownReadRoute
  repeat' split
  all_goals rfl

theorem ownReadSection_fst (s : State) (st n : Nat) : (ownReadSection s st n).1 = s := by
  unfold ownReadSection
  repeat' split
  all_goals rfl

theorem ownReadPoint_fst (s : State) (st n : Nat) : (ownReadPoint s st n).1 = s := by
  unfold ownReadPoint
  repeat' split
  all_goals rfl

theorem ownReadSignal_fst (s : State) (st n : Nat) : (ownReadSignal s st n).1 = s := by
  unfold ownReadSignal
  repeat' split
  all_goals rfl

theorem ownReadBoard_fst (s : State) (st n : Nat) : (ownReadBoard s st n).1 = s := by
  unfold ownReadBoard
  repeat' split
  all_goals rfl

theorem ownReadPanel_fst (s : State) (st n : Nat) : (ownReadPanel s st n).1 = s := by
  unfold ownReadPanel
  split <;> rfl

theorem ownPlanRead_fst (s : State) (st : Nat) (a : Nat × Nat) : (ownPlanRead s st a).1 = s := by
  unfold ownPlanRead
  repeat' split
  all_goals rfl

theorem ownClearStatus_planView (s : State) (st : Nat) (u : Unit) : (ownClearStatus s st u).1.planView = s.planView := by
  unfold ownClearStatus
  split <;> rfl

theorem ownSetMask_planView (s : State) (st n : Nat) : (ownSetMask s st n).1.planView = s.planView := by
  unfold ownSetMask
  repeat' split
  all_goals rfl

theorem fetchReplyFrame_planView (s : State) (n : Nat) : (s.fetchReplyFrame n).planView = s.planView :=
  planView_ite rfl rfl

theorem fetchNoticeFrame_planView (s : State) (g : FetchStage) : (s.fetchNoticeFrame g).planView = s.planView := by
  unfold State.fetchNoticeFrame
  split
  · exact planView_ite rfl rfl
  · rfl
  · rfl

end Sys2Proof.Machine
end

section
/-! PROOFS. What every command does with the plan: it leaves it (most commands), marks it valid (PLAN CHECK), rewrites it in
SETUP (PLAN CLEAR, WRITE and LOAD) or starts anew from the store (power-up and the RESET pin). -/
namespace Sys2Proof.Machine

/-! ### The laws in terms of Plan Memory and the scanner -/

/-- The tables in force and the stored image stand in their canonical form. -/
def PM.Formed (m : PM) : Prop := PlanForm m.plan ∧ ∀ p, m.store = some p → PlanForm p

/-- R26: no input bit beyond the chain keeps a state. -/
def FS.Trimmed (f : FS) : Prop := ∀ r ∈ f.inputs.rows, r.1 < f.inLen

theorem trimmed_of_planView {s t : State} (h : t.planView = s.planView) (k : s.fs.Trimmed) : t.fs.Trimmed := by
  simp only [State.planView, Prod.mk.injEq] at h
  obtain ⟨_, _, inputs, inLen⟩ := h
  unfold FS.Trimmed
  rw [inputs, inLen]
  exact k

/-- What an event that leaves the plan tables alone does with the plan, its flag, the store and the chain. -/
structure LeavesPlan (s t : State) : Prop where
  plan : t.plan = s.plan
  valid : t.pm.valid = true → s.pm.valid = true
  form : s.pm.Formed → t.pm.Formed
  trimmed : s.fs.Trimmed → t.fs.Trimmed
  mode : PlanLaw s → t.mc.mode ≠ .setup → s.mc.mode ≠ .setup ∨ s.plan.check = none

/-- R19: a PLAN CHECK that passes leaves all but the plan-valid flag. -/
structure PassesCheck (s t : State) : Prop where
  plan : t.plan = s.plan
  passes : s.plan.check = none
  store : t.pm.store = s.pm.store
  trimmed : s.fs.Trimmed → t.fs.Trimmed
  mode : t.mc.mode = s.mc.mode

/-- R15, R18, R22: a rewriting of the tables, in SETUP, with the plan-valid flag clear. -/
structure RewritesPlan (s t : State) : Prop where
  before : s.mc.mode = .setup
  after : t.mc.mode = .setup
  valid : t.pm.valid = false
  form : s.pm.Formed → t.pm.Formed
  trimmed : s.fs.Trimmed → t.fs.Trimmed

theorem leavesPlan_of_planView {s t : State} (h : t.planView = s.planView) : LeavesPlan s t := by
  have k := h
  simp only [State.planView, Prod.mk.injEq] at k
  obtain ⟨pm, mode, _, _⟩ := k
  exact ⟨by unfold State.plan; rw [pm], by rw [pm]; exact id, by rw [pm]; exact id, trimmed_of_planView h,
    by rw [mode]; exact fun _ => .inl⟩

theorem LeavesPlan.refl (s : State) : LeavesPlan s s := leavesPlan_of_planView rfl

theorem LeavesPlan.law {s t : State} (h : LeavesPlan s t) (l : PlanLaw s) : PlanLaw t :=
  fun v => by rw [h.plan]; exact l (h.valid v)

theorem LeavesPlan.trans {s t u : State} (h : LeavesPlan s t) (k : LeavesPlan t u) : LeavesPlan s u where
  plan := k.plan.trans h.plan
  valid := fun v => h.valid (k.valid v)
  form := fun f => k.form (h.form f)
  trimmed := fun f => k.trimmed (h.trimmed f)
  mode := fun l m => (k.mode (h.law l) m).elim (h.mode l) fun c => .inr (by rw [← h.plan]; exact c)

theorem LeavesPlan.foldl {α : Type} {f : State → α → State} (h : ∀ s x, LeavesPlan s (f s x)) (l : List α) (s : State) :
    LeavesPlan s (l.foldl f s) := by
  induction l generalizing s with
  | nil => exact .refl s
  | cons x l ih => exact (h s x).trans (ih _)

theorem LeavesPlan.ite {s t u : State} {c : Prop} [Decidable c] (h : LeavesPlan s t) (k : LeavesPlan s u) :
    LeavesPlan s (if c then t else u) := by
  split <;> assumption

theorem PassesCheck.view {s t u : State} (h : PassesCheck s t) (k : u.planView = t.planView) : PassesCheck s u := by
  have e := k
  simp only [State.planView, Prod.mk.injEq] at e
  obtain ⟨pm, mode, _, _⟩ := e
  exact ⟨by unfold State.plan; rw [pm]; exact h.plan, h.passes, by rw [pm]; exact h.store,
    fun f => trimmed_of_planView k (h.trimmed f), mode.trans h.mode⟩

theorem RewritesPlan.view {s t u : State} (h : RewritesPlan s t) (k : u.planView = t.planView) : RewritesPlan s u := by
  have e := k
  simp only [State.planView, Prod.mk.injEq] at e
  obtain ⟨pm, mode, _, _⟩ := e
  exact ⟨h.before, mode.trans h.after, by rw [pm]; exact h.valid, by rw [pm]; exact h.form,
    fun f => trimmed_of_planView k (h.trimmed f)⟩

/-! ### Changes of the tables (R15, R18, R22) -/

theorem Plan.store_form (p : Plan) (key : Nat) (r : Record) (h : PlanForm p) : PlanForm (p.store key r) := by
  cases r with
  | sect r => exact { h with sections := Tab.put_wf _ _ _ h.sections }
  | point r => exact { h with points := Tab.put_wf _ _ _ h.points }
  | signal r => exact { h with signals := Tab.put_wf _ _ _ h.signals }
  | route r => exact { h with routes := Tab.put_wf _ _ _ h.routes }
  | road r => exact { h with roads := Tab.put_wf _ _ _ h.roads }
  | trigger r => exact { h with triggers := Tab.put_wf _ _ _ h.triggers }
  | demo r => exact { h with demos := Tab.put_wf _ _ _ h.demos }
  | button r => exact { h with buttons := Tab.put_wf _ _ _ h.buttons }
  | board r => exact { h with boards := Tab.put_wf _ _ _ h.boards }
  | turntable r => exact { h with }
  | cls r => exact { h with }
  | station r => exact { h with stations := putD_wf _ _ _ _ h.stations }
  | device r => exact { h with }

theorem Plan.remove_form (p : Plan) (kind key : Nat) (h : PlanForm p) : PlanForm (p.remove kind key) := by
  unfold Plan.remove
  split
  · exact { h with sections := Tab.erase_wf _ _ h.sections }
  · exact { h with points := Tab.erase_wf _ _ h.points }
  · exact { h with signals := Tab.erase_wf _ _ h.signals }
  · exact { h with routes := Tab.erase_wf _ _ h.routes }
  · exact { h with roads := Tab.erase_wf _ _ h.roads }
  · exact { h with triggers := Tab.erase_wf _ _ h.triggers }
  · exact { h with demos := Tab.erase_wf _ _ h.demos }
  · exact { h with buttons := Tab.erase_wf _ _ h.buttons }
  · exact { h with boards := Tab.erase_wf _ _ h.boards }
  · exact h

theorem emptyPlan_form : PlanForm {} := by constructor <;> exact Tab.empty_wf

theorem putPlan_planView {s t : State} (h : t.planView = s.planView) (p : Plan) :
    (t.putPlan p).planView = (s.putPlan p).planView := by
  simp only [State.planView, Prod.mk.injEq] at h
  obtain ⟨pm, mode, inputs, inLen⟩ := h
  simp only [State.planView, State.putPlan, pm, mode, inputs, inLen]

theorem planChanged_planView (s : State) (kind key : Nat) (old new : Option Record) :
    (s.planChanged kind key old new).planView = s.planView := by
  have stop : (s.stopPulse key old).planView = s.planView := by
    unfold State.stopPulse
    split <;> rfl
  have reset : ∀ k, ((if s.keepsPulse key old new then s else s.stopPulse key old).resetPoint key k).planView =
      s.planView := fun k => (resetPoint_rail _ _ _).planView.trans (planView_ite rfl stop)
  unfold State.planChanged
  split
  · dsimp only
    split
    · rw [detection_planView, reset]
    · exact reset _
  · split
    · exact (showAspect_rail _ _ _ _).planView
    · rfl
  · rfl
  · exact planView_ite rfl rfl
  · rfl
  · rfl

theorem writeRecord_planView (s : State) (kind key : Nat) (r : Record) :
    (s.writeRecord kind key r).planView = (s.putPlan (s.plan.store key r)).planView :=
  (planChanged_planView _ _ _ _ _).trans (putPlan_planView (clearOuts_planView _ _) _)

theorem removeRecord_planView (s : State) (kind key : Nat) :
    (s.removeRecord kind key).planView = (s.putPlan (s.plan.remove kind key)).planView :=
  (planChanged_planView _ _ _ _ _).trans (putPlan_planView (clearOuts_planView _ _) _)

theorem replacePlan_planView (s : State) (p : Plan) : (s.replacePlan p).planView = (s.putPlan p).planView := by
  unfold State.replacePlan
  dsimp only
  rw [planView_foldl (fun s (r : Nat × PointRec) => detection_planView s r.1), stopSignals_planView, setTc_planView]
  exact putPlan_planView (clearOuts_planView _ _) p

theorem putPlan_rewritesPlan {s : State} {p : Plan} (m : s.mc.mode = .setup) (h : s.pm.Formed → PlanForm p) :
    RewritesPlan s (s.putPlan p) :=
  ⟨m, m, rfl, fun f => ⟨h f, f.2⟩, id⟩

theorem ownPlanWrite_plan (s : State) (st : Nat) (a : WriteAsk) :
    (ownPlanWrite s st a).1 = s ∨ RewritesPlan s (ownPlanWrite s st a).1 := by
  unfold ownPlanWrite
  split
  · exact .inl rfl
  split
  · exact .inl rfl
  next m =>
  have m : s.mc.mode = .setup := by simpa using m
  split
  · exact .inl rfl
  split
  · exact .inl rfl
  split
  · split
    · exact .inl rfl
    · exact .inr ((putPlan_rewritesPlan m fun f => Plan.remove_form _ _ _ f.1).view (removeRecord_planView _ _ _))
  · exact .inl rfl
  · exact .inr ((putPlan_rewritesPlan m fun f => Plan.store_form _ _ _ f.1).view (writeRecord_planView _ _ _ _))

theorem ownPlanClear_plan (s : State) (st : Nat) (u : Unit) :
    (ownPlanClear s st u).1 = s ∨ RewritesPlan s (ownPlanClear s st u).1 := by
  unfold ownPlanClear
  split
  · exact .inl rfl
  split
  · exact .inl rfl
  next m =>
  split
  · exact .inl rfl
  · exact .inr ((putPlan_rewritesPlan (by simpa using m) fun _ => emptyPlan_form).view (replacePlan_planView _ _))

theorem ownPlanLoad_plan (s : State) (st : Nat) (u : Unit) :
    (ownPlanLoad s st u).1 = s ∨ RewritesPlan s (ownPlanLoad s st u).1 := by
  unfold ownPlanLoad
  split
  · exact .inl rfl
  split
  · exact .inl rfl
  next m =>
  split
  · exact .inl rfl
  split
  · exact .inl rfl
  next p h =>
  exact .inr ((putPlan_rewritesPlan (by simpa using m) fun f => f.2 p h).view (replacePlan_planView _ _))

/-! ### The plan-valid flag and the store (R19, R21) -/

theorem ownPlanCheck_plan (s : State) (st : Nat) (u : Unit) :
    LeavesPlan s (ownPlanCheck s st u).1 ∨ PassesCheck s (ownPlanCheck s st u).1 := by
  unfold ownPlanCheck
  split
  · exact .inl (.refl s)
  split
  · next h => exact .inr ⟨rfl, h, rfl, id, rfl⟩
  · exact .inl ⟨rfl, fun v => by simp at v, id, id, fun _ => .inl⟩

theorem ownPlanSave_leavesPlan (s : State) (st : Nat) (u : Unit) : LeavesPlan s (ownPlanSave s st u).1 := by
  unfold ownPlanSave
  repeat' split
  case isFalse.isFalse.isFalse => exact ⟨rfl, id, fun f => ⟨f.1, fun p h => by simp at h⟩, id, fun _ => .inl⟩
  all_goals exact .refl s

theorem saveEnds_leavesPlan (s : State) (matched : Bool) : LeavesPlan s (s.saveEnds matched) := by
  unfold State.saveEnds
  split
  · exact .refl s
  split
  · exact LeavesPlan.trans (t := { s with pm := { s.pm with saving := false, store := some s.plan } })
      ⟨rfl, id, fun f => ⟨f.1, fun p h => by cases h; exact f.1⟩, id, fun _ => .inl⟩
      (leavesPlan_of_planView (notice_planView _ _ _))
  · exact LeavesPlan.trans (t := { s with pm := { s.pm with saving := false, store := none } })
      ⟨rfl, id, fun f => ⟨f.1, fun p h => by simp at h⟩, id, fun _ => .inl⟩
      (leavesPlan_of_planView (notice_planView _ _ _))

/-! ### Changes of mode (R157, R160) -/

/-- R156: a change of mode leaves the plan where it leaves SETUP over a plan that passes alone. -/
theorem changeMode_leavesPlan {s : State} {new : Mode} {r : Option Mode}
    (h : PlanLaw s → new ≠ .setup → s.mc.mode ≠ .setup ∨ s.plan.check = none) : LeavesPlan s (s.changeMode new r) := by
  have v := changeMode_planView s new r
  exact LeavesPlan.trans (t := { s with mc := { s.mc with mode := new } }) ⟨rfl, id, id, id, h⟩
    (leavesPlan_of_planView v)

theorem requestStop_leavesPlan (s : State) : LeavesPlan s s.requestStop := by
  unfold State.requestStop
  split
  · next m => exact changeMode_leavesPlan fun _ _ => .inl (by simp [m])
  · next m => exact changeMode_leavesPlan fun _ _ => .inl (by simp [m])
  · exact .refl s
  · exact .refl s

/-- R157: GO RUN leaves SETUP over a plan marked valid alone. -/
theorem ownGoRun_leavesPlan (s : State) (st : Nat) (u : Unit) : LeavesPlan s (ownGoRun s st u).1 := by
  unfold ownGoRun
  split
  · exact .refl s
  split
  · split
    · next v => exact changeMode_leavesPlan fun l _ => .inr (l v)
    · exact .refl s
  · exact .refl s
  · next m => exact changeMode_leavesPlan fun _ _ => .inl (by simp [m])
  · exact .refl s

theorem ownGoQuiet_leavesPlan (s : State) (st : Nat) (u : Unit) : LeavesPlan s (ownGoQuiet s st u).1 := by
  unfold ownGoQuiet
  split
  · exact .refl s
  split
  · exact .refl s
  · next m => exact changeMode_leavesPlan fun _ _ => .inl (by simp [m])
  · exact .refl s
  · exact .refl s

theorem ownStopAll_leavesPlan (s : State) (st : Nat) (u : Unit) : LeavesPlan s (ownStopAll s st u).1 := by
  unfold ownStopAll
  split
  · exact .refl s
  · exact requestStop_leavesPlan s

theorem ownResume_leavesPlan (s : State) (st : Nat) (u : Unit) : LeavesPlan s (ownResume s st u).1 := by
  unfold ownResume
  split
  · exact .refl s
  split
  · exact .refl s
  next m =>
  split
  · exact .refl s
  · exact changeMode_leavesPlan fun _ _ => .inl (by simp at m; simp [m])

theorem ownResetLayout_leavesPlan (s : State) (st : Nat) (u : Unit) : LeavesPlan s (ownResetLayout s st u).1 := by
  unfold ownResetLayout
  split
  · exact .refl s
  · refine LeavesPlan.trans (t := { s with mc := { s.mc with mode := .setup } })
      ⟨rfl, id, id, id, fun _ m => absurd rfl m⟩ (leavesPlan_of_planView ?_)
    exact (planView_foldl (fun s (r : Nat × PointRec) => detection_planView s r.1) _ _).trans (stopSignals_planView _)

/-! ### Frames -/

/-- R163: what a request comes to: only the link's own fields, or the owner's answer with the event closed unless it is a
refusal. -/
theorem takeFrame_planView {α : Type} (s : State) (code : Nat) (f : Frame) (p : Parse α)
    (owner : State → Nat → α → State × Answer) (close : State → State) (hc : ∀ u, (close u).planView = u.planView) :
    (s.takeFrame code f p owner close).planView = s.planView ∨
      ∃ a, (s.takeFrame code f p owner close).planView =
        (owner (s.openFrame f) f.station.toNat a).1.planView := by
  unfold State.takeFrame State.handFrame State.answered
  dsimp only
  split
  · exact .inl rfl
  split
  · exact .inl rfl
  split
  · exact .inl rfl
  split
  · exact .inl rfl
  next a _ =>
  refine .inr ⟨a, ?_⟩
  rw [hold_planView, reportStation_planView]
  exact planView_ite rfl (hc _)

section
variable {α : Type} {s : State} {code : Nat} {f : Frame} {p : Parse α} {owner : State → Nat → α → State × Answer}

theorem takeRequest_planView : (s.takeRequest code f p owner).planView = s.planView ∨
    ∃ a, (s.takeRequest code f p owner).planView = (owner (s.openFrame f) f.station.toNat a).1.planView :=
  takeFrame_planView s code f p owner _ fun u => finish_planView u _

theorem takeQuery_planView : (s.takeQuery code f p owner).planView = s.planView ∨
    ∃ a, (s.takeQuery code f p owner).planView = (owner (s.openFrame f) f.station.toNat a).1.planView :=
  takeFrame_planView s code f p owner id fun _ => rfl

/-- A request leaves the plan where its owner does. -/
theorem takeRequest_leavesPlan (h : ∀ u st a, LeavesPlan u (owner u st a).1) :
    LeavesPlan s (s.takeRequest code f p owner) := by
  rcases takeRequest_planView (s := s) (code := code) (f := f) (p := p) (owner := owner) with e | ⟨a, e⟩
  · exact leavesPlan_of_planView e
  · exact (LeavesPlan.trans (leavesPlan_of_planView (openFrame_planView s f)) (h _ _ a)).trans (leavesPlan_of_planView e)

theorem takeQuery_leavesPlan (h : ∀ u st a, LeavesPlan u (owner u st a).1) :
    LeavesPlan s (s.takeQuery code f p owner) := by
  rcases takeQuery_planView (s := s) (code := code) (f := f) (p := p) (owner := owner) with e | ⟨a, e⟩
  · exact leavesPlan_of_planView e
  · exact (LeavesPlan.trans (leavesPlan_of_planView (openFrame_planView s f)) (h _ _ a)).trans (leavesPlan_of_planView e)

theorem takeRequest_leavesPlan' (h : ∀ u st a, (owner u st a).1.planView = u.planView) :
    LeavesPlan s (s.takeRequest code f p owner) :=
  takeRequest_leavesPlan fun u st a => leavesPlan_of_planView (h u st a)

theorem takeQuery_leavesPlan' (h : ∀ u st a, (owner u st a).1.planView = u.planView) :
    LeavesPlan s (s.takeQuery code f p owner) :=
  takeQuery_leavesPlan fun u st a => leavesPlan_of_planView (h u st a)

/-- A request rewrites the plan or leaves it, as its owner does. -/
theorem takeRequest_rewritesPlan (h : ∀ u st a, (owner u st a).1 = u ∨ RewritesPlan u (owner u st a).1) :
    LeavesPlan s (s.takeRequest code f p owner) ∨ RewritesPlan s (s.takeRequest code f p owner) := by
  rcases takeRequest_planView (s := s) (code := code) (f := f) (p := p) (owner := owner) with e | ⟨a, e⟩
  · exact .inl (leavesPlan_of_planView e)
  · rcases h (s.openFrame f) f.station.toNat a with k | k
    · exact .inl (leavesPlan_of_planView (by rw [e, k, openFrame_planView]))
    · have k' : RewritesPlan s (owner (s.openFrame f) f.station.toNat a).1 := ⟨k.before, k.after, k.valid, k.form, k.trimmed⟩
      exact .inr (k'.view e)

end

/-! ### Scans, ticks and timers -/

theorem requestGrades_planView (l : List Nat) (s : State) :
    (l.foldl (fun s k => s.requestGrade k 0) s).planView = s.planView :=
  planView_foldl (fun s k => requestGrade_planView s k 0) l s

theorem expireCab_planView (s : State) (c : Nat) : (s.expireCab c).planView = s.planView := by
  simp [State.expireCab, requestGrades_planView]

/-- R33: the used scan writes bits of the chain alone. -/
theorem debounce_trimmed {f : FS} (h : f.Trimmed) (n : Nat) (fdi : List Bool) :
    (f.debounce n fdi).Trimmed ∧ (f.debounce n fdi).inLen = f.inLen := by
  refine List.foldlRecOn (motive := fun g : FS => g.Trimmed ∧ g.inLen = f.inLen) _ _ ⟨h, rfl⟩ ?_
  rintro g ⟨trimmed, inLen⟩ bit mem
  refine ⟨fun r hr => ?_, inLen⟩
  have within : bit < g.inLen := by rw [inLen]; exact List.mem_range.1 mem
  simp only [FS.debounceBit, Tab.putD, Tab.erase, Tab.put] at hr ⊢
  split at hr
  · exact trimmed r ((rowsErase_sublist _ _).subset hr)
  · rcases rowsPut_mem _ _ _ _ hr with rfl | hr
    · exact within
    · exact trimmed r hr

theorem putFs_leavesPlan (s : State) {f : FS} (h : s.fs.Trimmed → f.Trimmed) : LeavesPlan s { s with fs := f } :=
  ⟨rfl, id, id, h, fun _ => .inl⟩

theorem useScan_leavesPlan (s : State) (fdi : List Bool) : LeavesPlan s (s.useScan fdi) :=
  (putFs_leavesPlan s fun h => (debounce_trimmed h _ fdi).1).trans
    (leavesPlan_of_planView (planView_foldl (deliver_planView _) _ _))

theorem checkScan_leavesPlan (s : State) (good : Bool) (fdi : List Bool) : LeavesPlan s (s.checkScan good fdi) := by
  unfold State.checkScan
  split
  · exact useScan_leavesPlan s fdi
  · exact putFs_leavesPlan s id
  · exact LeavesPlan.trans (putFs_leavesPlan s (f := { s.fs with chain := .good }) id) (useScan_leavesPlan _ fdi)
  · exact LeavesPlan.trans (LeavesPlan.trans
      (putFs_leavesPlan s (f := { s.fs with chain := .fault, recovery := 0, fieldFault := true }) id)
      (leavesPlan_of_planView (notice_planView _ .fieldFault 0))) (requestStop_leavesPlan _)
  · exact LeavesPlan.ite (putFs_leavesPlan s id) (putFs_leavesPlan s id)
  · exact putFs_leavesPlan s id

/-- R26: the next scan drops the bits beyond its chain. -/
theorem takeLengths_leavesPlan (s : State) : LeavesPlan s s.takeLengths := by
  have off : ∀ (s : State) (r : Nat × PointRec), (s.offChain r).planView = s.planView := fun s r => planView_ite rfl rfl
  unfold State.takeLengths
  dsimp only
  refine LeavesPlan.trans (putFs_leavesPlan s fun _ r hr => ?_) (leavesPlan_of_planView (planView_foldl off _ _))
  simpa using (List.mem_filter.1 hr).2

theorem completeScan_leavesPlan (s : State) (fdi : List Bool) : LeavesPlan s (s.completeScan fdi) := by
  have start : ∀ s : State, s.startScan.planView = s.planView := fun _ => rfl
  unfold State.completeScan
  dsimp only
  refine LeavesPlan.trans ?_ (leavesPlan_of_planView (start _))
  refine LeavesPlan.trans ?_ (leavesPlan_of_planView (finish_planView _ _))
  refine LeavesPlan.trans ?_ (takeLengths_leavesPlan _)
  refine LeavesPlan.trans ?_ (checkScan_leavesPlan _ _ fdi)
  exact leavesPlan_of_planView rfl

theorem consoleTick_leavesPlan (s : State) (raw : ConsoleLevels) : LeavesPlan s (s.consoleTick raw) := by
  have acts : ∀ (s : State) (c : Nat) (a b : ConsoleLine), LeavesPlan s (s.lineActs c a b).handOn := fun s c a b => by
    refine LeavesPlan.trans (LeavesPlan.ite (LeavesPlan.ite (requestStop_leavesPlan s) ?_) (.refl s))
      (leavesPlan_of_planView (handOn_planView _))
    exact leavesPlan_of_planView (planView_ite (by simp) (planView_ite (by simp) rfl))
  unfold State.consoleTick
  dsimp only
  refine LeavesPlan.trans ?_ (acts _ _ _ _)
  refine LeavesPlan.trans ?_ (acts _ _ _ _)
  refine LeavesPlan.trans ?_ (acts _ _ _ _)
  exact leavesPlan_of_planView rfl

theorem awuTick_leavesPlan (s : State) (raw : ConsoleLevels) : LeavesPlan s (s.awuTick raw) := by
  have dwell : ∀ (s : State) (k : Nat), (s.dwellTick k).planView = s.planView := fun s k => by
    unfold State.dwellTick
    split
    · exact planView_ite ((handOn_planView _).trans (endDwell_inner _ _).planView) (putDwell_inner _ _ _).planView
    · rfl
  have demo : ∀ s : State, s.demoTick.planView = s.planView := fun s => by
    unfold State.demoTick
    split
    · rfl
    · exact planView_ite (by simp) rfl
  have view : ∀ (s : State) (b : Nat) (v : List BoardLine), (s.showView b v).planView = s.planView :=
    fun s b v => planView_ite rfl rfl
  have boards : ∀ s : State, s.refreshBoards.planView = s.planView := fun s =>
    planView_ite (planView_foldl (fun s (b : Nat × BoardRec) => view s b.1 _) _ s)
      (planView_ite rfl (planView_foldl (fun s (b : Nat × BoardRec) => view s b.1 _) _ s))
  unfold State.awuTick
  dsimp only
  refine LeavesPlan.trans ?_ (leavesPlan_of_planView (boards _))
  refine LeavesPlan.trans ?_ (leavesPlan_of_planView (flashLamps_rail _).planView)
  refine LeavesPlan.trans ?_ (leavesPlan_of_planView (demo _))
  have base := LeavesPlan.trans
    (leavesPlan_of_planView (planView_foldl (fun s p => (rfl : (s.cooldownTick p).planView = _)) s.awu.cooldown.keys s))
    (consoleTick_leavesPlan _ raw)
  exact LeavesPlan.ite (base.trans (leavesPlan_of_planView (planView_foldl dwell _ _))) base

theorem tick_leavesPlan (s : State) (raw : ConsoleLevels) : LeavesPlan s (s.tick raw) := by
  have cab : ∀ (s : State) (c : Nat), (s.keepAliveTick c).planView = s.planView := fun s c => by
    unfold State.keepAliveTick
    split
    · exact planView_ite (expireCab_planView s c) rfl
    · rfl
  have part : ∀ (s : State) (b : Block), LeavesPlan s (s.tickPart raw b) := fun s b => by
    cases b with
    | tr => exact leavesPlan_of_planView (planView_foldl cab _ s)
    | iu => exact leavesPlan_of_planView ((handOn_planView _).trans (interlockingTick_rail s).planView)
    | tc => exact leavesPlan_of_planView ((handOn_planView _).trans (tableTick_rail s).planView)
    | awu => exact awuTick_leavesPlan s raw
    | ss => exact leavesPlan_of_planView ((rampAll_rail _).planView.trans (recomputeAll_rail s).planView)
  unfold State.tick
  dsimp only
  refine LeavesPlan.trans ?_ (leavesPlan_of_planView (finish_planView _ _))
  refine LeavesPlan.trans ?_ (LeavesPlan.foldl part _ _)
  exact leavesPlan_of_planView rfl

/-! ### Every command -/

/-- What a command does with the plan. -/
inductive PlanEvent (s t : State) : Instr → Prop where
  | leaves {c : Instr} (h : LeavesPlan s t) : PlanEvent s t c
  | passes {f : Frame} (h : PassesCheck s t) : PlanEvent s t (.planCheck f)
  | rewrites {c : Instr} (h : RewritesPlan s t) : PlanEvent s t c
  | starts {c : Instr} (hc : c = .powerUp ∨ c = .resetPin) (h : t = s.powerUp) : PlanEvent s t c

theorem execPlanCheck_event {s t : State} {f : Frame} (h : execPlanCheck f s = .next t) : PlanEvent s t (.planCheck f) := by
  cases h
  rcases takeQuery_planView (s := s) (code := 0x13) (f := f) (p := noParams) (owner := ownPlanCheck) with e | ⟨a, e⟩
  · exact .leaves (leavesPlan_of_planView e)
  rcases ownPlanCheck_plan (s.openFrame f) f.station.toNat a with k | k
  · exact .leaves (LeavesPlan.trans ⟨k.plan, k.valid, k.form, k.trimmed, k.mode⟩ (leavesPlan_of_planView e))
  · exact .passes (PassesCheck.view (s := s) ⟨k.plan, k.passes, k.store, k.trimmed, k.mode⟩ e)

theorem execRewrite_event {α : Type} {s t : State} {c : Instr} {code : Nat} {f : Frame} {p : Parse α}
    {owner : State → Nat → α → State × Answer}
    (own : ∀ u st a, (owner u st a).1 = u ∨ RewritesPlan u (owner u st a).1)
    (h : (.next (s.takeRequest code f p owner) : Host.Outcome State Fault Refusal) = .next t) : PlanEvent s t c := by
  cases h
  exact (takeRequest_rewritesPlan own).elim .leaves .rewrites

/-! ### Timers -/

theorem setOrder_leavesPlan (s : State) (order : List Block) : LeavesPlan s { s with order := order } :=
  leavesPlan_of_planView rfl

/-- A timer whose last tick it is runs its event; otherwise nothing happens. -/
theorem expiry_leavesPlan {c : Prop} [Decidable c] {s t u v : State} (hu : LeavesPlan s u) (hv : LeavesPlan s v)
    (h : (if c then .next u else .next v : Host.Outcome State Fault Refusal) = .next t) : LeavesPlan s t := by
  split at h
  · cases h; exact hu
  · cases h; exact hv

/-- An event that begins with its order of hand-offs and ends with the closing of the event. -/
theorem ordered_leavesPlan {s : State} {order : List Block} {t : State} {before : List Nat}
    (h : t.planView = ({ s with order := order } : State).planView) : LeavesPlan s (t.finish before) :=
  (setOrder_leavesPlan s order).trans (leavesPlan_of_planView ((finish_planView t before).trans h))

theorem execKeepAliveExpiry_leavesPlan {s t : State} {cab : Nat} {order : List Block}
    (h : execKeepAliveExpiry cab order s = .next t) : LeavesPlan s t := by
  unfold execKeepAliveExpiry at h
  dsimp only at h
  split at h
  · exact expiry_leavesPlan (ordered_leavesPlan (expireCab_planView _ cab)) (setOrder_leavesPlan s order) h
  · cases h; exact setOrder_leavesPlan s order

theorem execApproachTimerExpiry_leavesPlan {s t : State} {slot : Nat} {order : List Block}
    (h : execApproachTimerExpiry slot order s = .next t) : LeavesPlan s t := by
  unfold execApproachTimerExpiry at h
  dsimp only at h
  split at h
  · cases h; exact setOrder_leavesPlan s order
  · exact expiry_leavesPlan (ordered_leavesPlan (approachExpired_rail _ slot).planView) (setOrder_leavesPlan s order) h

theorem execPulseExpiry_leavesPlan {s t : State} {point : Nat} (h : execPulseExpiry point s = .next t) :
    LeavesPlan s t := by
  unfold execPulseExpiry at h
  split at h
  · cases h; exact .refl s
  · exact expiry_leavesPlan (leavesPlan_of_planView (endPulse_rail s point).planView) (.refl s) h

theorem execThrowTimeout_leavesPlan {s t : State} {point : Nat} {order : List Block}
    (h : execThrowTimeout point order s = .next t) : LeavesPlan s t := by
  unfold execThrowTimeout at h
  dsimp only at h
  split at h
  · cases h; exact setOrder_leavesPlan s order
  · exact expiry_leavesPlan (ordered_leavesPlan (failThrow_rail _ point).planView) (setOrder_leavesPlan s order) h

theorem execTurntableTimerExpiry_leavesPlan {s t : State} {order : List Block}
    (h : execTurntableTimerExpiry order s = .next t) : LeavesPlan s t := by
  unfold execTurntableTimerExpiry at h
  dsimp only at h
  split at h
  · cases h; exact setOrder_leavesPlan s order
  · exact expiry_leavesPlan
      (ordered_leavesPlan ((wantArbitrate_planView _).trans (tableTimeout_rail _).planView)) (setOrder_leavesPlan s order) h

theorem execDemoTimeout_leavesPlan {s t : State} {order : List Block} (h : execDemoTimeout order s = .next t) :
    LeavesPlan s t := by
  unfold execDemoTimeout at h
  dsimp only at h
  split at h
  · cases h; exact setOrder_leavesPlan s order
  · exact expiry_leavesPlan (ordered_leavesPlan (endDemo_planView _ _)) (setOrder_leavesPlan s order) h

theorem execDwellEnd_leavesPlan {s t : State} {slot : Nat} {order : List Block} (h : execDwellEnd slot order s = .next t) :
    LeavesPlan s t := by
  unfold execDwellEnd at h
  dsimp only at h
  split at h
  · cases h; exact setOrder_leavesPlan s order
  · exact expiry_leavesPlan (ordered_leavesPlan (endDwell_inner _ slot).planView) (setOrder_leavesPlan s order) h

theorem execOrderCompletion_leavesPlan {s t : State} (h : execOrderCompletion s = .next t) : LeavesPlan s t := by
  unfold execOrderCompletion at h
  split at h
  · cases h; exact .refl s
  · cases h; exact leavesPlan_of_planView (kickPort_rail _).planView

theorem execUnknownRequest_leavesPlan {s t : State} {code : Byte} {f : Frame} (h : execUnknownRequest code f s = .next t) :
    LeavesPlan s t := by
  unfold execUnknownRequest at h
  split at h
  · cases h
  · cases h; exact leavesPlan_of_planView (planView_ite rfl (planView_ite rfl rfl))

/-- Every command leaves the plan, passes it, rewrites it or starts from the store. -/
theorem exec_planEvent {c : Instr} {s t : State} (h : exec c s = .next t) : PlanEvent s t c := by
  cases c with
  | powerUp => cases h; exact .starts (.inl rfl) rfl
  | resetPin => cases h; exact .starts (.inr rfl) rfl
  | planClear f => exact execRewrite_event ownPlanClear_plan h
  | planWrite f => exact execRewrite_event ownPlanWrite_plan h
  | planLoad f => exact execRewrite_event ownPlanLoad_plan h
  | planCheck f => exact execPlanCheck_event h
  | planRead f =>
    cases h
    exact .leaves (takeQuery_leavesPlan' fun u st a => by rw [ownPlanRead_fst])
  | planSave f => cases h; exact .leaves (takeQuery_leavesPlan ownPlanSave_leavesPlan)
  | saveEnd matched => cases h; exact .leaves (saveEnds_leavesPlan s matched)
  | goRun f => cases h; exact .leaves (takeRequest_leavesPlan ownGoRun_leavesPlan)
  | goQuiet f => cases h; exact .leaves (takeRequest_leavesPlan ownGoQuiet_leavesPlan)
  | stopAll f => cases h; exact .leaves (takeRequest_leavesPlan ownStopAll_leavesPlan)
  | resume f => cases h; exact .leaves (takeRequest_leavesPlan ownResume_leavesPlan)
  | resetLayout f => cases h; exact .leaves (takeRequest_leavesPlan ownResetLayout_leavesPlan)
  | enterTrain f => cases h; exact .leaves (takeRequest_leavesPlan' ownEnterTrain_planView)
  | retireTrain f => cases h; exact .leaves (takeRequest_leavesPlan' ownRetireTrain_planView)
  | acquireTrain f => cases h; exact .leaves (takeQuery_leavesPlan' ownAcquireTrain_planView)
  | releaseTrain f => cases h; exact .leaves (takeRequest_leavesPlan' ownReleaseTrain_planView)
  | setSpeed f => cases h; exact .leaves (takeRequest_leavesPlan' ownSetSpeed_planView)
  | reverseTrain f => cases h; exact .leaves (takeRequest_leavesPlan' ownReverseTrain_planView)
  | hold f =>
    cases h
    exact .leaves (takeRequest_leavesPlan' fun u st a => forSelected_planView u st a (holdTrain_planView true))
  | unhold f =>
    cases h
    exact .leaves (takeRequest_leavesPlan' fun u st a => forSelected_planView u st a (holdTrain_planView false))
  | setAuto f => cases h; exact .leaves (takeQuery_leavesPlan' ownSetAuto_planView)
  | keepAlive f => cases h; exact .leaves (takeQuery_leavesPlan' fun _ _ _ => rfl)
  | seekTrain f => cases h; exact .leaves (takeQuery_leavesPlan' ownSeekTrain_planView)
  | readTrainField f => cases h; exact .leaves (takeQuery_leavesPlan' ownReadTrainField_planView)
  | readTrainRecord f => cases h; exact .leaves (takeQuery_leavesPlan' ownReadTrainRecord_planView)
  | setRoute f => cases h; exact .leaves (takeRequest_leavesPlan' ownSetRoute_planView)
  | cancelRoute f => cases h; exact .leaves (takeRequest_leavesPlan' ownCancelRoute_planView)
  | pointTest f => cases h; exact .leaves (takeRequest_leavesPlan' ownPointTest_planView)
  | clearFault f => cases h; exact .leaves (takeRequest_leavesPlan' ownClearFault_planView)
  | readRoute f =>
    cases h
    exact .leaves (takeQuery_leavesPlan' fun u st a => by rw [ownReadRoute_fst])
  | readSection f =>
    cases h
    exact .leaves (takeQuery_leavesPlan' fun u st a => by rw [ownReadSection_fst])
  | readPoint f =>
    cases h
    exact .leaves (takeQuery_leavesPlan' fun u st a => by rw [ownReadPoint_fst])
  | readSignal f =>
    cases h
    exact .leaves (takeQuery_leavesPlan' fun u st a => by rw [ownReadSignal_fst])
  | homeTurntable f =>
    cases h
    exact .leaves (takeRequest_leavesPlan' fun u st _ => (askHome_rail u st).planView)
  | turn f => cases h; exact .leaves (takeRequest_leavesPlan' ownTurn_planView)
  | withdrawTurn f => cases h; exact .leaves (takeRequest_leavesPlan' ownWithdrawTurn_planView)
  | readTurntable f => cases h; exact .leaves (takeQuery_leavesPlan' fun _ _ _ => rfl)
  | startDemo f => cases h; exact .leaves (takeRequest_leavesPlan' ownStartDemo_planView)
  | stopDemo f => cases h; exact .leaves (takeRequest_leavesPlan' ownStopDemo_planView)
  | readBoard f =>
    cases h
    exact .leaves (takeQuery_leavesPlan' fun u st a => by rw [ownReadBoard_fst])
  | readPanel f =>
    cases h
    exact .leaves (takeQuery_leavesPlan' fun u st a => by rw [ownReadPanel_fst])
  | clearStatus f => cases h; exact .leaves (takeQuery_leavesPlan' ownClearStatus_planView)
  | setNoticeMask f => cases h; exact .leaves (takeQuery_leavesPlan' ownSetMask_planView)
  | identify f => cases h; exact .leaves (takeQuery_leavesPlan' fun _ _ _ => rfl)
  | fetchReply n => cases h; exact .leaves (leavesPlan_of_planView (fetchReplyFrame_planView s n))
  | fetchNotice g => cases h; exact .leaves (leavesPlan_of_planView (fetchNoticeFrame_planView s g))
  | layoutTick raw order =>
    cases h
    exact .leaves ((setOrder_leavesPlan s order).trans (tick_leavesPlan _ raw))
  | scanCompletion fdi order =>
    cases h
    exact .leaves ((setOrder_leavesPlan s order).trans (completeScan_leavesPlan _ fdi))
  | orderCompletion => exact .leaves (execOrderCompletion_leavesPlan h)
  | unknownRequest code f => exact .leaves (execUnknownRequest_leavesPlan h)
  | keepAliveExpiry cab order => exact .leaves (execKeepAliveExpiry_leavesPlan h)
  | approachTimerExpiry slot order => exact .leaves (execApproachTimerExpiry_leavesPlan h)
  | pulseExpiry point => exact .leaves (execPulseExpiry_leavesPlan h)
  | throwTimeout point order => exact .leaves (execThrowTimeout_leavesPlan h)
  | turntableTimerExpiry order => exact .leaves (execTurntableTimerExpiry_leavesPlan h)
  | demoTimeout order => exact .leaves (execDemoTimeout_leavesPlan h)
  | dwellEnd slot order => exact .leaves (execDwellEnd_leavesPlan h)
  | cooldownExpiry panel =>
    exact .leaves (expiry_leavesPlan (leavesPlan_of_planView (by rfl)) (.refl s) h)

/-! ### What each event means for the laws -/

theorem powerUp_planView (s : State) :
    s.powerUp.planView = (s.pm.load, .setup, ⟨[]⟩, s.pm.load.plan.device.inputLength) :=
  stopSignals_planView _

theorem PlanEvent.form {c : Instr} {s t : State} (h : PlanEvent s t c) (f : s.pm.Formed) : t.pm.Formed := by
  cases h with
  | leaves h => exact h.form f
  | passes h =>
    refine ⟨?_, by rw [h.store]; exact f.2⟩
    have plan : t.pm.plan = s.pm.plan := h.plan
    rw [plan]; exact f.1
  | rewrites h => exact h.form f
  | starts hc h =>
    have pm : t.pm = s.pm.load := by rw [h]; exact congrArg Prod.fst (powerUp_planView s)
    rw [pm]
    refine ⟨?_, f.2⟩
    unfold PM.load
    cases e : s.pm.store with
    | none => exact emptyPlan_form
    | some p => exact f.2 p e

theorem PlanEvent.law {c : Instr} {s t : State} (h : PlanEvent s t c) (l : PlanLaw s) : PlanLaw t := by
  cases h with
  | leaves h => exact h.law l
  | passes h => intro _; rw [h.plan]; exact h.passes
  | rewrites h => intro v; rw [h.valid] at v; contradiction
  | starts hc h =>
    intro v
    have pm : t.pm = s.pm.load := by rw [h]; exact congrArg Prod.fst (powerUp_planView s)
    rw [pm] at v
    exact absurd v (by simp [PM.load])

theorem ChainLaw.of_plan {s t : State} (c : ChainLaw s) (trimmed : s.fs.Trimmed → t.fs.Trimmed) (plan : t.plan = s.plan)
    (mode : t.mc.mode ≠ .setup → s.mc.mode ≠ .setup ∨ s.plan.check = none) : ChainLaw t where
  kept := trimmed c.kept
  reach := fun m => by
    rw [plan]
    exact (mode m).elim c.reach check_none_reach

theorem ChainLaw.of_setup {t : State} (trimmed : t.fs.Trimmed) (m : t.mc.mode = .setup) : ChainLaw t :=
  ⟨trimmed, fun n => absurd m n⟩

theorem PlanEvent.chain {c : Instr} {s t : State} (h : PlanEvent s t c) (l : PlanLaw s) (k : ChainLaw s) : ChainLaw t := by
  cases h with
  | leaves h => exact k.of_plan h.trimmed h.plan (h.mode l)
  | passes h => exact k.of_plan h.trimmed h.plan fun _ => .inr h.passes
  | rewrites h => exact .of_setup (h.trimmed k.kept) h.after
  | starts hc h =>
    have view := powerUp_planView s
    rw [← h] at view
    simp only [State.planView, Prod.mk.injEq] at view
    obtain ⟨_, mode, inputs, _⟩ := view
    exact .of_setup (by simp [FS.Trimmed, inputs]) mode

/-- Settles O9: an idle step changes nothing, and every command keeps the three laws by what it does with the plan. -/
theorem planAndChainLawsKept : Obligations.PlanAndChainLawsKept := by
  intro s t h
  unfold step at h
  split at h
  · cases h
    exact ⟨fun f g => ⟨f, g⟩, id, fun _ => id⟩
  · have e := exec_planEvent h
    refine ⟨fun f g => e.form ⟨f, g⟩, e.law, fun l k => e.chain l ⟨k.kept, k.reach⟩⟩

/-- Settles O10: of what a command can do with the plan, only a rewriting and a power-up change the tables, and only a
PLAN CHECK sets the flag. -/
theorem planChangesOnlyInSetup : Obligations.PlanChangesOnlyInSetup := by
  intro c s t h
  cases exec_planEvent h with
  | leaves k => exact ⟨fun n => absurd k.plan n, fun n => absurd k.plan n, fun a b => absurd (k.valid b) (by simp [a])⟩
  | passes k => exact ⟨fun n => absurd k.plan n, fun n => absurd k.plan n, fun _ _ => ⟨_, rfl⟩⟩
  | rewrites k => exact ⟨fun _ => .inl k.before, fun _ => k.valid, fun _ b => absurd b (by simp [k.valid])⟩
  | starts hc k =>
    have valid : t.pm.valid = false := by rw [k, show s.powerUp.pm = _ from congrArg Prod.fst (powerUp_planView s)]; rfl
    exact ⟨fun _ => .inr hc, fun _ => valid, fun _ b => absurd b (by simp [valid])⟩

end Sys2Proof.Machine
end

section
/-! PROOFS. The output image under the writing of bits, the stop lamps, and the power-up (R23, R24, R27, R92, R161). -/
namespace Sys2Proof.Machine

/-! ### One output bit -/

theorem setOut_out (s : State) (c b : Nat) (v : Bool) (w : s.fs.image.Wf) :
    (s.setOut c v).out b = if b = c then v else s.out b := by
  unfold State.out State.setOut
  split
  · next e => rw [e]; exact Tab.getD_putD_same _ _ _ _ w
  · next e => exact Tab.getD_putD_ne _ _ _ e

theorem setOut_image_wf (s : State) (c : Nat) (v : Bool) (w : s.fs.image.Wf) : (s.setOut c v).fs.image.Wf :=
  putD_wf _ _ _ _ w

theorem setOut?_out (s : State) (c : Option Nat) (b : Nat) (v : Bool) (w : s.fs.image.Wf) :
    (s.setOut? c v).out b = if c = some b then v else s.out b := by
  cases c with
  | none => simp [State.setOut?]
  | some c => simp [State.setOut?, setOut_out s c b v w, eq_comm]

theorem setOut?_image_wf (s : State) (c : Option Nat) (v : Bool) (w : s.fs.image.Wf) : (s.setOut? c v).fs.image.Wf := by
  cases c with
  | none => exact w
  | some c => exact setOut_image_wf s c v w

/-! ### Updates that touch signals and outputs alone -/

/-- A state that differs in the signals shown and in the output image alone. -/
def ShowsOnly (s t : State) : Prop :=
  t = { s with iu := { s.iu with signals := t.iu.signals }, fs := { s.fs with image := t.fs.image } }

theorem ShowsOnly.refl (s : State) : ShowsOnly s s := rfl

theorem ShowsOnly.trans {s t u : State} (h : ShowsOnly s t) (k : ShowsOnly t u) : ShowsOnly s u := by
  unfold ShowsOnly at h k ⊢
  rw [h] at k
  exact k

theorem ShowsOnly.foldl {α : Type} {f : State → α → State} (h : ∀ s x, ShowsOnly s (f s x)) (l : List α) (s : State) :
    ShowsOnly s (l.foldl f s) := by
  induction l generalizing s with
  | nil => exact .refl s
  | cons x l ih => exact (h s x).trans (ih _)

theorem setOut_showsOnly (s : State) (b : Nat) (v : Bool) : ShowsOnly s (s.setOut b v) := rfl

theorem setOut?_showsOnly (s : State) (b : Option Nat) (v : Bool) : ShowsOnly s (s.setOut? b v) := by
  cases b <;> rfl

theorem clearOuts_showsOnly (s : State) (l : List Nat) : ShowsOnly s (s.clearOuts l) :=
  ShowsOnly.foldl (fun s b => setOut_showsOnly s b false) l s

/-! ### Lamps -/

/-- Write what the IU holds for a signal. -/
def State.putSignal (s : State) (k : Nat) (x : Signal) : State :=
  { s with iu := { s.iu with signals := Tab.putD {} s.iu.signals k x } }

/-- R96: write the output bits of a signal's lamps. -/
def State.lightLamps (s : State) (g : SignalRec) (l : Lamps) : State :=
  ((((s.setOut g.stop l.stop).setOut? g.caution l.caution).setOut? g.second l.second).setOut? g.clear l.clear).setOut?
    g.subsidiary l.subsidiary

theorem showAspect_eq (s : State) (k : Nat) (g : SignalRec) (a : Aspect) :
    s.showAspect k g a = (s.putSignal k ⟨a, lampsFor g.kind a⟩).lightLamps g (lampsFor g.kind a) := rfl

@[simp] theorem putSignal_out (s : State) (k b : Nat) (x : Signal) : (s.putSignal k x).out b = s.out b := rfl

theorem lightLamps_showsOnly (s : State) (g : SignalRec) (l : Lamps) : ShowsOnly s (s.lightLamps g l) :=
  ((((setOut_showsOnly _ _ _).trans (setOut?_showsOnly _ _ _)).trans (setOut?_showsOnly _ _ _)).trans
    (setOut?_showsOnly _ _ _)).trans (setOut?_showsOnly _ _ _)

theorem showAspect_showsOnly (s : State) (k : Nat) (g : SignalRec) (a : Aspect) : ShowsOnly s (s.showAspect k g a) :=
  ShowsOnly.trans (t := s.putSignal k ⟨a, lampsFor g.kind a⟩) rfl (lightLamps_showsOnly _ _ _)

theorem stopSignals_showsOnly (s : State) : ShowsOnly s s.stopSignals :=
  ShowsOnly.foldl (fun s (g : Nat × SignalRec) => showAspect_showsOnly s g.1 g.2 .stop) _ s

/-- A bit that a record names for two lamps holds what the last of them says. -/
theorem lightLamps_out (s : State) (g : SignalRec) (l : Lamps) (b : Nat) (w : s.fs.image.Wf) :
    (s.lightLamps g l).out b =
      if g.subsidiary = some b then l.subsidiary else if g.clear = some b then l.clear
      else if g.second = some b then l.second else if g.caution = some b then l.caution
      else if b = g.stop then l.stop else s.out b := by
  have w1 := setOut_image_wf s g.stop l.stop w
  have w2 := setOut?_image_wf _ g.caution l.caution w1
  have w3 := setOut?_image_wf _ g.second l.second w2
  have w4 := setOut?_image_wf _ g.clear l.clear w3
  unfold State.lightLamps
  rw [setOut?_out _ _ _ _ w4, setOut?_out _ _ _ _ w3, setOut?_out _ _ _ _ w2, setOut?_out _ _ _ _ w1, setOut_out _ _ _ _ w]

theorem lightLamps_image_wf (s : State) (g : SignalRec) (l : Lamps) (w : s.fs.image.Wf) :
    (s.lightLamps g l).fs.image.Wf :=
  setOut?_image_wf _ _ _ (setOut?_image_wf _ _ _ (setOut?_image_wf _ _ _ (setOut?_image_wf _ _ _
    (setOut_image_wf _ _ _ w))))

theorem showAspect_image_wf (s : State) (k : Nat) (g : SignalRec) (a : Aspect) (w : s.fs.image.Wf) :
    (s.showAspect k g a).fs.image.Wf := lightLamps_image_wf _ g _ w

/-- R96: at STOP a signal's stop lamp is lit and its other lamps are dark; a bit that is both is dark. -/
theorem showStop_out (s : State) (k : Nat) (g : SignalRec) (b : Nat) (w : s.fs.image.Wf) :
    (s.showAspect k g .stop).out b =
      if some b ∈ [g.caution, g.second, g.clear, g.subsidiary] then false else if b = g.stop then true else s.out b := by
  rw [showAspect_eq, lightLamps_out (s.putSignal k _) _ _ _ w]
  simp only [lampsFor, putSignal_out, List.mem_cons, List.not_mem_nil, or_false, eq_comm (a := some b)]
  grind

/-- A lamp bit of no signal but as a stop lamp is set exactly when it was set or is some signal's stop lamp. -/
theorem showStops_out (l : List (Nat × SignalRec)) (s : State) (b : Nat) (w : s.fs.image.Wf)
    (dark : ∀ g ∈ l, some b ∉ [g.2.caution, g.2.second, g.2.clear, g.2.subsidiary]) :
    (l.foldl (fun s g => s.showAspect g.1 g.2 .stop) s).out b = (s.out b || l.any (fun g => decide (g.2.stop = b))) := by
  induction l generalizing s with
  | nil => simp
  | cons g l ih =>
    rw [List.foldl_cons, ih _ (showAspect_image_wf _ _ _ _ w) fun h hh => dark h (List.mem_cons_of_mem g hh),
      showStop_out _ _ _ _ w, if_neg (dark g (List.mem_cons_self ..)), List.any_cons]
    by_cases e : b = g.2.stop
    · simp [e]
    · simp [e, Ne.symm e]

/-- A bit that is no signal's stop lamp is set after the writing of STOP only where it was set. -/
theorem showStops_out_of_ne (l : List (Nat × SignalRec)) (s : State) (b : Nat) (w : s.fs.image.Wf)
    (other : ∀ g ∈ l, g.2.stop ≠ b) (off : s.out b = false) :
    (l.foldl (fun s g => s.showAspect g.1 g.2 .stop) s).out b = false := by
  induction l generalizing s with
  | nil => exact off
  | cons g l ih =>
    refine ih _ (showAspect_image_wf _ _ _ _ w) (fun h hh => other h (List.mem_cons_of_mem g hh)) ?_
    rw [showStop_out _ _ _ _ w, if_neg (Ne.symm (other g (List.mem_cons_self ..))), off, ite_self]

/-- R92: a signal at STOP is at its resting value, so that nothing is held for it. -/
theorem stopSignals_signals_nil (s : State) (h : s.iu.signals = ⟨[]⟩) : s.stopSignals.iu.signals = ⟨[]⟩ := by
  refine List.foldlRecOn (motive := fun u : State => u.iu.signals = ⟨[]⟩) _ _ h fun u hu g _ => ?_
  rw [(showAspect_signals u g.1 g.2 .stop).1, hu]
  rfl

/-! ### Power-up -/

/-- R161: a power-up before the stop lamps are lit. -/
def State.blankStart (s : State) : State :=
  { pm := s.pm.load,
    fs := { inLen := s.pm.load.plan.device.inputLength, outLen := s.pm.load.plan.device.outputLength,
            latched := s.fs.latched },
    clp := { notices := s.pm.firstNotices }, pending := s.pending, freeCount := s.freeCount }

theorem powerUp_eq (s : State) :
    s.powerUp = { s.blankStart with fs := { s.blankStart.fs with
      image := s.blankStart.stopSignals.fs.image, sent := s.blankStart.stopSignals.fs.image } } := by
  have shows := stopSignals_showsOnly s.blankStart
  rw [ShowsOnly, stopSignals_signals_nil _ rfl] at shows
  show (let u := s.blankStart.stopSignals; { u with fs := { u.fs with sent := u.fs.image } } : State) = _
  rw [shows]
  rfl

theorem powerUp_out (s : State) (b : Nat) : s.powerUp.out b = s.blankStart.stopSignals.out b := by
  rw [powerUp_eq]
  rfl

/-- Settles O3: every block but the scanner is at its power-up values by definition; the stop lamps are what the writing of
STOP to every signal leaves in a dark image. -/
theorem powerUpLoadsTheStore : Obligations.PowerUpLoadsTheStore := by
  intro c hc s
  refine ⟨s.powerUp, ?_, ?_⟩
  · rcases List.mem_pair.1 hc with rfl | rfl <;> rfl
  have plan : s.powerUp.plan = s.blankStart.plan := by rw [powerUp_eq]; rfl
  have dark : ∀ b, s.blankStart.out b = false := fun _ => rfl
  have wf : s.blankStart.fs.image.Wf := Tab.empty_wf
  have notices : s.pm.firstNotices = if s.pm.store = none then [⟨.planEmpty, 0, 1, 0⟩] else [] := by
    simp [PM.firstNotices]
  refine ⟨by rw [powerUp_eq]; rfl, by rw [powerUp_eq]; rfl, by rw [powerUp_eq]; rfl, by rw [powerUp_eq]; rfl,
    by rw [powerUp_eq]; rfl, by rw [powerUp_eq]; rfl, by rw [powerUp_eq]; rfl,
    by rw [powerUp_eq, ← notices]; rfl, ?_, fun b other => ?_, fun g hg alone => ?_⟩
  · rw [powerUp_eq]
    exact ⟨rfl, rfl, rfl, rfl, rfl, rfl, rfl, rfl, rfl⟩
  · rw [powerUp_out]
    exact showStops_out_of_ne _ _ b wf (plan ▸ other) (dark b)
  · rw [powerUp_out]
    refine (showStops_out _ _ _ wf (plan ▸ alone)).trans ?_
    rw [plan] at hg
    simpa [dark] using ⟨g.1, g.2, hg, rfl⟩

/-! ### The state after reset -/

theorem reset_powerUp : State.powerUp {} = State.reset := rfl

theorem reset_train? (k : Nat) : State.reset.train? k = none := rfl

theorem reset_route? (k : Nat) : State.reset.route? k = none := rfl

theorem reset_noticeLaw : NoticeLaw State.reset.clp := ⟨by decide, by decide, by decide, by simp [State.reset]⟩

theorem reset_routeLaw : RouteLaw State.reset :=
  ⟨Tab.empty_wf, by decide, fun j k e h => by simp [State.entrySignal, reset_route?] at h, by decide, by decide, by decide,
    fun _ => ⟨rfl, rfl⟩⟩

theorem reset_turnLaw : TurnLaw State.reset := ⟨by decide, by decide, fun _ => rfl⟩

theorem reset_modeLaw : ModeLaw State.reset := ⟨by decide, fun _ => rfl⟩

theorem reset_visitorLaw : VisitorLaw State.reset := ⟨by decide, by decide, by simp [State.reset]⟩

theorem reset_registerLaw : RegisterLaw State.reset :=
  ⟨Tab.empty_wf, by decide, fun j k x y h => by simp [reset_train?] at h, fun _ => rfl⟩

/-- R43: with no train and every handle empty, no owner is a cab and no handle names a train. -/
theorem reset_handleLaw : HandleLaw State.reset := by
  refine ⟨Tab.empty_wf, fun cab handle slot ne => ⟨?_, ?_⟩⟩
  · rintro ⟨x, h, _⟩
    simp [reset_train?] at h
  · rintro ⟨_, _, h⟩
    have empty : (State.reset.handles cab).get handle = 0 := by
      show Handles.get {} handle = 0
      unfold Handles.get
      split <;> rfl
    exact absurd (h.symm.trans empty) ne

theorem reset_chainLaw : ChainLaw State.reset := ⟨by decide, fun m => absurd rfl m⟩

theorem reset_aspectLaw : AspectLaw State.reset :=
  ⟨Tab.empty_wf, Tab.empty_wf, fun _ _ h => absurd h (by simp [State.plan, State.reset, Tab.get?, rowsGet])⟩

theorem reset_gradeLaw : GradeLaw State.reset := ⟨Tab.empty_wf, fun _ _ h => by simp [reset_train?] at h⟩

theorem reset_spanLaw : SpanLaw State.reset :=
  ⟨fun _ _ h => by simp [reset_train?] at h, fun _ _ _ _ _ h => by simp [reset_train?] at h⟩

/-- R76: every section is FREE. -/
theorem reset_reservationLaw : ReservationLaw State.reset where
  routes := Tab.empty_wf
  marks := Tab.empty_wf
  known := fun _ _ h => by simp [reset_route?] at h
  held := fun _ _ _ _ _ _ h => by simp [reset_route?] at h
  overlap := fun _ _ _ _ h => by simp [reset_route?] at h
  backed := fun _ _ h => by cases h
  backedOverlap := fun _ _ h => by cases h

theorem reset_movingLaw : MovingLaw State.reset where
  points := Tab.empty_wf
  clear := fun _ _ h => absurd h (by simp [State.plan, State.reset, Tab.get?, rowsGet])
  demand := fun _ _ _ h => absurd h (by simp [State.plan, State.reset, Tab.get?, rowsGet])

theorem reset_tableLaw : TableLaw State.reset :=
  ⟨fun h => absurd rfl h, fun _ => by decide, fun h => absurd h (by decide), fun h => absurd h (by decide)⟩

theorem reset_lampLaw : LampLaw State.reset where
  signals := Tab.empty_wf
  lamps := Tab.empty_wf
  shown := fun _ _ h => absurd h (by simp [State.plan, State.reset, Tab.get?, rowsGet])
  lit := fun _ _ h => absurd h (by simp [State.plan, State.reset, Tab.get?, rowsGet])

theorem reset_outputLaw : OutputLaw State.reset where
  image := Tab.empty_wf
  signals := fun _ _ _ _ h => absurd h (by simp [State.plan, State.reset, Tab.get?, rowsGet])
  buttons := fun _ _ h => absurd h (by simp [State.plan, State.reset, Tab.get?, rowsGet])

theorem reset_urgentLaw : UrgentLaw State.reset := ⟨Tab.empty_wf, by decide, by decide⟩

/-- Settles O4: the tables of the reset state are empty, so that each law holds of it for want of rows. -/
theorem resetMeetsTheLaws : Obligations.ResetMeetsTheLaws :=
  ⟨reset_powerUp, reset_noticeLaw, reset_routeLaw, reset_turnLaw, reset_modeLaw, reset_visitorLaw, reset_registerLaw,
    reset_handleLaw, emptyPlan_form, fun h => absurd h (by decide), reset_chainLaw, reset_aspectLaw, reset_gradeLaw,
    reset_spanLaw, fun h => absurd rfl h, reset_reservationLaw, reset_movingLaw, reset_tableLaw, reset_lampLaw,
    reset_outputLaw, reset_urgentLaw⟩

end Sys2Proof.Machine
end

section
/-! PROOFS. How parameter bytes are read, and PLAN READ, PLAN CHECK and PLAN SAVE (R17, R19, R21, R173). -/
namespace Sys2Proof.Machine

/-! ### Reading parameter bytes -/

section
variable {α β : Type}

@[simp] theorem parse_bind (p : Parse α) (f : α → Parse β) (l : List Byte) :
    (p >>= f) l = (p l).bind fun x => f x.1 x.2 := rfl

@[simp] theorem u8_cons (b : Byte) (l : List Byte) : u8 (b :: l) = some (b.toNat, l) := rfl

@[simp] theorem u16_cons (a b : Byte) (l : List Byte) : u16 (a :: b :: l) = some (pair a b, l) := rfl

theorem decodeAll_eq_some {p : Parse α} {l : List Byte} {a : α} : decodeAll p l = some a ↔ p l = some (a, []) := by
  unfold decodeAll
  constructor
  · intro h
    split at h
    · next e => cases h; exact e
    · contradiction
  · intro h
    rw [h]

theorem decodeAll_of_none {p : Parse α} {l : List Byte} (h : p l = none) : decodeAll p l = none := by
  unfold decodeAll
  rw [h]

end

/-! ### Queries -/

/-- R163: a query's owner answers, with nothing to close. -/
theorem takeQuery_answers {α : Type} {s w : State} {code st : Nat} {f : Frame} {ps : List Byte} {p : Parse α}
    {owner : State → Nat → α → State × Answer} (h : Carries f code st ps) (k : s.listening) {a : α} {r : Answer}
    (d : decodeAll p ps = some a) (o : owner (s.openFrame f) st a = (w, r)) :
    s.takeQuery code f p owner = w.answeredWith f code r := by
  unfold State.takeQuery
  rw [takeFrame_answered s code st f ps p owner id h k a d, o]
  cases r with
  | done p => exact answered_done code st id f _ p h.sender
  | accepted p => exact answered_accepted code st id f _ p h.sender
  | refused r p => exact answered_refused code st id f _ r p h.sender

/-- R163: a request whose owner refuses it changes nothing but its reply. -/
theorem takeRequest_refuses {α : Type} {s : State} {code st : Nat} {f : Frame} {ps : List Byte} {p : Parse α}
    {owner : State → Nat → α → State × Answer} (h : Carries f code st ps) (k : s.listening) {a : α} {r : Reason}
    {b : List Byte} (d : decodeAll p ps = some a)
    (o : owner (s.openFrame f) st a = (s.openFrame f, .refused r b)) :
    s.takeRequest code f p owner = s.replied f code (.refused r b) := by
  unfold State.takeRequest
  rw [takeFrame_answered s code st f ps p owner _ h k a d, o]
  exact answered_refused code st _ f _ r b h.sender

theorem decodeAll_noParams : decodeAll noParams [] = some () := rfl

/-! ### PLAN READ (R17) -/

theorem decode_planRead (kind hi lo : Byte) : decodeAll parsePlanRead [kind, hi, lo] =
    if 12 < kind.toNat ∧ kind.toNat ≠ 255 then none else some (kind.toNat, pair hi lo) := by
  unfold decodeAll parsePlanRead
  simp only [parse_bind, u8_cons, u16_cons, Option.bind_some]
  split_ifs <;> rfl

theorem summary_eq (s : State) : s.summary =
    [if s.pm.valid then 1#8 else 0#8, if s.pm.store = none then 1#8 else 0#8, if s.pm.saving then 1#8 else 0#8,
      byte s.plan.sections.keys.length, byte s.plan.points.keys.length, byte s.plan.signals.keys.length] ++
    two s.plan.routes.keys.length ++
    [byte s.plan.roads.keys.length, byte s.plan.triggers.keys.length, byte s.plan.demos.keys.length,
      byte s.plan.buttons.keys.length, byte s.plan.boards.keys.length] := by
  have store : one (if s.pm.store.isSome then 0 else 1) = [if s.pm.store = none then 1#8 else 0#8] := by
    cases s.pm.store <;> rfl
  have saving : one (if s.pm.saving then 1 else 0) = [if s.pm.saving then 1#8 else 0#8] := by
    cases s.pm.saving <;> rfl
  simp only [State.summary, store, saving, Tab.keys, List.length_map]
  rfl

/-- Settles O33: the owner reads the tables and answers without a change; what cannot be decoded never reaches it. -/
theorem planRead : Obligations.PlanRead := by
  intro f st s kind hi lo h k
  have reads : ∀ r, ¬(12 < kind.toNat ∧ kind.toNat ≠ 255) →
      ownPlanRead (s.openFrame f) st (kind.toNat, pair hi lo) = (s.openFrame f, r) →
        exec (.planRead f) s = .next (s.replied f 0x12 r) := fun r n o =>
    congrArg Host.Outcome.next (takeQuery_answers h k (by rw [decode_planRead, if_neg n]) o)
  have plan : (s.openFrame f).plan = s.plan := rfl
  refine ⟨fun small => ⟨fun out => reads _ (by omega) ?_, fun within => ⟨fun none => reads _ (by omega) ?_,
    fun r some => reads _ (by omega) ?_⟩⟩, fun all zero => ?_, fun all other => ?_, fun large ne => ?_⟩
  · simp [ownPlanRead, show kind.toNat ≠ 255 by omega, out]
  · simp [ownPlanRead, show kind.toNat ≠ 255 by omega, within, plan, none]
  · simp [ownPlanRead, show kind.toNat ≠ 255 by omega, within, plan, some]
  · subst all
    rw [← summary_eq]
    exact reads _ (by decide) (by simp [ownPlanRead, zero]; rfl)
  · subst all
    exact reads _ (by decide) (by simp [ownPlanRead, other])
  · have ne' : kind.toNat ≠ 255 := fun e => ne (BitVec.eq_of_toNat_eq e)
    exact congrArg Host.Outcome.next (takeFrame_undecodable s 0x12 st f _ _ _ _ h k
      (by rw [decode_planRead, if_pos ⟨large, ne'⟩]))

/-! ### PLAN CHECK and PLAN SAVE (R19, R21) -/

/-- Settles O34: the owner's answer by its tests in order, and the end of a save by its definition. -/
theorem planCheckAndSave : Obligations.PlanCheckAndSave := by
  refine ⟨fun f st s h k => ?_, fun f st s h k => ?_, fun s matched => ⟨fun idle => ?_, fun saving => ?_⟩⟩
  · have answers : ∀ w r, ownPlanCheck (s.openFrame f) st () = (w, r) →
        exec (.planCheck f) s = .next (w.answeredWith f 0x13 r) := fun w r o =>
      congrArg Host.Outcome.next (takeQuery_answers h k decodeAll_noParams o)
    have plan : (s.openFrame f).plan = s.plan := rfl
    refine ⟨fun cab => answers _ _ ?_, fun sup pass => answers _ _ ?_, fun item kind key sup fail => answers _ _ ?_⟩
    · simp [ownPlanCheck, cab]
    · simp [ownPlanCheck, sup, plan, pass]
    · simp [ownPlanCheck, sup, plan, fail]
  · have answers : ∀ w r, ownPlanSave (s.openFrame f) st () = (w, r) →
        exec (.planSave f) s = .next (w.answeredWith f 0x14 r) := fun w r o =>
      congrArg Host.Outcome.next (takeQuery_answers h k decodeAll_noParams o)
    split_ifs with cab unchecked busy
    · exact answers _ _ (by simp [ownPlanSave, cab])
    · exact answers _ _ (by simp [ownPlanSave, cab, unchecked])
    · exact answers _ _ (by simp [ownPlanSave, cab, unchecked, busy])
    · exact answers _ _ (by simp [ownPlanSave, cab, unchecked, busy])
  · exact congrArg Host.Outcome.next (by simp [State.saveEnds, idle])
  · refine congrArg Host.Outcome.next ?_
    cases matched <;> simp [State.saveEnds, saving] <;> rfl

end Sys2Proof.Machine
end

section
/-! PROOFS. PLAN CHECK: what each record of a plan that passes satisfies, code by code (R13, R19, R20). -/
namespace Sys2Proof.Machine

/-! ### The records examined -/

section
variable {p : Plan} {x : Nat}

theorem mem_of_get? {α : Type} {t : Tab α} {k : Nat} {r : α} (h : t.get? k = some r) : (k, r) ∈ t.rows :=
  rowsGet_mem t.rows k r h

theorem examSection_mem {r : SectionRec} (h : p.sections.get? x = some r) : p.examSection x r ∈ p.exams := by
  have m : p.examSection x r ∈ p.sections.rows.map (fun r => p.examSection r.1 r.2) := List.mem_map_of_mem (mem_of_get? h)
  simp only [Plan.exams, List.mem_append, m, true_or]

theorem examPoint_mem {r : PointRec} (h : p.points.get? x = some r) : p.examPoint x r ∈ p.exams := by
  have m : p.examPoint x r ∈ p.points.rows.map (fun r => p.examPoint r.1 r.2) := List.mem_map_of_mem (mem_of_get? h)
  simp only [Plan.exams, List.mem_append, m, true_or, or_true]

theorem examSignal_mem {r : SignalRec} (h : p.signals.get? x = some r) : p.examSignal x r ∈ p.exams := by
  have m : p.examSignal x r ∈ p.signals.rows.map (fun r => p.examSignal r.1 r.2) := List.mem_map_of_mem (mem_of_get? h)
  simp only [Plan.exams, List.mem_append, m, true_or, or_true]

theorem examRoute_mem {r : RouteRec} (h : p.routes.get? x = some r) : p.examRoute x r ∈ p.exams := by
  have m : p.examRoute x r ∈ p.routes.rows.map (fun r => p.examRoute r.1 r.2) := List.mem_map_of_mem (mem_of_get? h)
  simp only [Plan.exams, List.mem_append, m, true_or, or_true]

theorem examTurntable_mem : p.examTurntable ∈ p.exams := by
  simp only [Plan.exams, List.mem_append, List.mem_singleton, true_or, or_true]

theorem examRoad_mem {r : RoadRec} (h : p.roads.get? x = some r) : p.examRoad x r ∈ p.exams := by
  have m : p.examRoad x r ∈ p.roads.rows.map (fun r => p.examRoad r.1 r.2) := List.mem_map_of_mem (mem_of_get? h)
  simp only [Plan.exams, List.mem_append, m, true_or, or_true]

theorem examTrigger_mem {r : TriggerRec} (h : p.triggers.get? x = some r) : p.examTrigger x r ∈ p.exams := by
  have m : p.examTrigger x r ∈ p.triggers.rows.map (fun r => p.examTrigger r.1 r.2) := List.mem_map_of_mem (mem_of_get? h)
  simp only [Plan.exams, List.mem_append, m, true_or, or_true]

theorem examDemo_mem {r : DemoRec} (h : p.demos.get? x = some r) : p.examDemo x r ∈ p.exams := by
  have m : p.examDemo x r ∈ p.demos.rows.map (fun r => p.examDemo r.1 r.2) := List.mem_map_of_mem (mem_of_get? h)
  simp only [Plan.exams, List.mem_append, m, true_or, or_true]

theorem examButton_mem {r : ButtonRec} (h : p.buttons.get? x = some r) : p.examButton x r ∈ p.exams := by
  have m : p.examButton x r ∈ p.buttons.rows.map (fun r => p.examButton r.1 r.2) := List.mem_map_of_mem (mem_of_get? h)
  simp only [Plan.exams, List.mem_append, m, true_or, or_true]

theorem examBoard_mem {r : BoardRec} (h : p.boards.get? x = some r) : p.examBoard x r ∈ p.exams := by
  have m : p.examBoard x r ∈ p.boards.rows.map (fun r => p.examBoard r.1 r.2) := List.mem_map_of_mem (mem_of_get? h)
  simp only [Plan.exams, List.mem_append, m, or_true]

end

/-! ### Codes 1, 3 and 4 -/

theorem exam_items {p : Plan} (h : p.check = none) {e : Exam} (he : e ∈ p.exams) : ∀ i ∈ e.items, i.2 = false :=
  ((firstFault_none (check_none h).2.2).1 e he).2.2

theorem exam_ins {p : Plan} (h : p.check = none) {e : Exam} (he : e ∈ p.exams) : ∀ b ∈ e.ins, b < p.device.inputLength :=
  fun b hb => (((firstFault_none (check_none h).2.2).1 e he).1 b hb).1

theorem exam_outs {p : Plan} (h : p.check = none) {e : Exam} (he : e ∈ p.exams) : ∀ b ∈ e.outs, b < p.device.outputLength :=
  fun b hb => (((firstFault_none (check_none h).2.2).1 e he).2.1 b hb).1

/-- Where no record examined names a bit of an earlier one, two that name one bit are one record. -/
theorem exam_unique {f : Exam → List Nat} {l : List Exam} (h : l.Pairwise fun d e => ∀ b ∈ f e, b ∉ f d) {d e : Exam}
    (hd : d ∈ l) (he : e ∈ l) {b : Nat} (bd : b ∈ f d) (be : b ∈ f e) : e = d := by
  induction l with
  | nil => contradiction
  | cons a l ih =>
    obtain ⟨head, tail⟩ := List.pairwise_cons.1 h
    rcases List.mem_cons.1 hd with ed | md <;> rcases List.mem_cons.1 he with ee | me
    · rw [ed, ee]
    · exact absurd (ed ▸ bd) (head e me b be)
    · exact absurd (ee ▸ be) (head d md b bd)
    · exact ih tail md me

theorem namesInput_exam {p : Plan} {kind key bit : Nat} (h : p.namesInput kind key bit) :
    ∃ e ∈ p.exams, e.kind = kind ∧ e.key = key ∧ bit ∈ e.ins := by
  rcases h with ⟨rfl, r, hr, hb⟩ | ⟨rfl, r, hr, hb⟩ | ⟨rfl, r, hr, hb⟩ | ⟨rfl, rfl, present, hb⟩
  · exact ⟨_, examSection_mem hr, rfl, rfl, by simp [Plan.examSection, hb]⟩
  · exact ⟨_, examPoint_mem hr, rfl, rfl, by simpa [Plan.examPoint] using hb⟩
  · exact ⟨_, examButton_mem hr, rfl, rfl, by simp [Plan.examButton, hb]⟩
  · exact ⟨_, examTurntable_mem, rfl, rfl, by simpa [Plan.examTurntable, present] using hb⟩

theorem namesOutput_exam {p : Plan} {kind key bit : Nat} (h : p.namesOutput kind key bit) :
    ∃ e ∈ p.exams, e.kind = kind ∧ e.key = key ∧ bit ∈ e.outs := by
  rcases h with ⟨rfl, r, hr, hb⟩ | ⟨rfl, r, hr, hb⟩ | ⟨rfl, r, hr, hb⟩ | ⟨rfl, rfl, present, hb⟩
  · exact ⟨_, examPoint_mem hr, rfl, rfl, by simpa [Plan.examPoint] using hb⟩
  · exact ⟨_, examSignal_mem hr, rfl, rfl, by simpa [Plan.examSignal, SignalRec.lampBits] using hb⟩
  · exact ⟨_, examButton_mem hr, rfl, rfl, by simp [Plan.examButton, hb]⟩
  · exact ⟨_, examTurntable_mem, rfl, rfl, by simpa [Plan.examTurntable, Record.outputs, present] using hb⟩

theorem namesInput_sound {p : Plan} (h : p.check = none) {kind key bit : Nat} (n : p.namesInput kind key bit) :
    bit < p.device.inputLength ∧ ∀ kind' key', p.namesInput kind' key' bit → kind' = kind ∧ key' = key := by
  obtain ⟨d, hd, rfl, rfl, bd⟩ := namesInput_exam n
  refine ⟨exam_ins h hd bit bd, fun kind' key' n' => ?_⟩
  obtain ⟨e, he, rfl, rfl, be⟩ := namesInput_exam n'
  rw [exam_unique (f := Exam.ins) ((firstFault_none (check_none h).2.2).2.imp And.left) hd he bd be]
  exact ⟨rfl, rfl⟩

theorem namesOutput_sound {p : Plan} (h : p.check = none) {kind key bit : Nat} (n : p.namesOutput kind key bit) :
    bit < p.device.outputLength ∧ ∀ kind' key', p.namesOutput kind' key' bit → kind' = kind ∧ key' = key := by
  obtain ⟨d, hd, rfl, rfl, bd⟩ := namesOutput_exam n
  refine ⟨exam_outs h hd bit bd, fun kind' key' n' => ?_⟩
  obtain ⟨e, he, rfl, rfl, be⟩ := namesOutput_exam n'
  rw [exam_unique (f := Exam.outs) ((firstFault_none (check_none h).2.2).2.imp And.right) hd he bd be]
  exact ⟨rfl, rfl⟩

theorem console_sound {d : DeviceRec} (h : d.consoleFails = false) :
    ([d.console1, d.console2, d.console3].filter (fun c => decide (c ≠ 0))).Nodup := by
  simp only [DeviceRec.consoleFails, Bool.or_eq_false_iff, Bool.and_eq_false_iff, Bool.not_eq_false',
    decide_eq_true_eq, decide_eq_false_iff_not] at h
  by_cases a : d.console1 = 0 <;> by_cases b : d.console2 = 0 <;> by_cases c : d.console3 = 0 <;>
    simp [a, b, c] at h ⊢ <;> omega

/-! ### Sections -/

theorem mem_sided {r : SectionRec} {d : Dir} {e : Succ} :
    (d, e) ∈ r.sided ↔ (d = .east ∧ e ∈ r.east) ∨ (d = .west ∧ e ∈ r.west) := by
  simp [SectionRec.sided, eq_comm, and_comm]

/-- The check items of a section record that passes: codes 5 to 8 and 19. -/
theorem section_items {p : Plan} (h : p.check = none) {x : Nat} {r : SectionRec} (hr : p.sections.get? x = some r) :
    p.linkTargetFails x r = false ∧ p.linkConditionFails x r = false ∧ p.linkReturnFails x r = false ∧
      p.boardLinkFails x r = false ∧
      (r.kind = .road → p.roads.rows.any (fun q => decide (q.2.sect = x)) = true) := by
  have items := exam_items h (examSection_mem hr)
  simpa [Plan.examSection] using items

theorem board_sound {p : Plan} (h : p.check = none) {x : Nat} {r : SectionRec} (hr : p.sections.get? x = some r)
    (n : r.board ≠ 0) : r.kind = .platform ∧ ∃ b, p.boards.get? r.board = some b ∧ x ∈ b.sections := by
  obtain ⟨_, _, _, board, _⟩ := section_items h hr
  unfold Plan.boardLinkFails at board
  split at board
  · simp [n] at board
  · next b hb => simpa [n, hb] using board

/-- R20 codes 5 to 7, of one entry of a section. -/
theorem link_sound {p : Plan} (h : p.check = none) {x : Nat} {r : SectionRec} (hr : p.sections.get? x = some r) {d : Dir}
    {e : Succ} (he : (d, e) ∈ r.sided) :
    e.target ≠ x ∧ p.isBridge e.target = false ∧ p.sections.get? e.target ≠ none ∧
      (∃ b ∈ p.entries e.target (if e.flip then d else d.opp), b.target = x ∧ b.flip = e.flip) ∧
      ∀ c, e.cond = some c → ∃ q, p.points.get? c.1 = some q ∧ q.sect = x := by
  obtain ⟨target, cond, back, _, _⟩ := section_items h hr
  simp only [Plan.linkTargetFails, Bool.or_eq_false_iff, List.any_eq_false] at target
  simp only [Plan.linkConditionFails, Bool.or_eq_false_iff, List.any_eq_false] at cond
  simp only [Plan.linkReturnFails, List.any_eq_false] at back
  have t := target.1.1 _ he
  have b := back _ he
  have c := cond.1.1 _ he
  simp only [Bool.not_eq_true, Bool.or_eq_false_iff, Option.isNone_eq_false_iff, decide_eq_false_iff_not] at t
  refine ⟨t.1.2, t.2, by simpa [Option.isSome_iff_ne_none] using t.1.1, by simpa [returnSide] using b, fun y hy => ?_⟩
  simp only [hy] at c
  split at c
  · simp at c
  · next q hq => exact ⟨q, hq, by simpa using c⟩

/-- R20 code 5: the bridge has no entries. -/
theorem bridge_sound {p : Plan} (h : p.check = none) {x : Nat} {r : SectionRec} (hr : p.sections.get? x = some r)
    (k : r.kind = .bridge) : r.east = [] ∧ r.west = [] := by
  obtain ⟨target, _⟩ := section_items h hr
  simp only [Plan.linkTargetFails, k, Bool.or_eq_false_iff] at target
  simpa [SectionRec.sided] using target.1.2

/-- R20 code 5: a road has no entries on its bridge side. -/
theorem roadSide_sound {p : Plan} (h : p.check = none) {x y : Nat} {r : SectionRec} {q : RoadRec}
    (hr : p.sections.get? x = some r) (k : r.kind = .road) (hq : p.roads.get? y = some q) (s : q.sect = x) :
    (if q.flip = true then r.east else r.west) = [] := by
  obtain ⟨target, _⟩ := section_items h hr
  simp only [Plan.linkTargetFails, k, Bool.or_eq_false_iff, decide_true, Bool.true_and, List.any_eq_false] at target
  have none : ∀ e, (q.bridgeSide, e) ∉ r.sided := by simpa [s] using target.2 _ (mem_of_get? hq)
  unfold RoadRec.bridgeSide at none
  split_ifs at none ⊢
  · exact List.eq_nil_iff_forall_not_mem.2 fun e he => none e (mem_sided.2 (.inl ⟨rfl, he⟩))
  · exact List.eq_nil_iff_forall_not_mem.2 fun e he => none e (mem_sided.2 (.inr ⟨rfl, he⟩))

theorem opposedPair_sound {a b : Succ} (h : opposedPair [a, b] = true) :
    ∃ q, (a.cond = some (q, .normal) ∧ b.cond = some (q, .reverse)) ∨
      (a.cond = some (q, .reverse) ∧ b.cond = some (q, .normal)) := by
  unfold opposedPair at h
  dsimp only at h
  split at h
  · next q x r y ha hb =>
    simp only [decide_eq_true_eq] at h
    obtain ⟨rfl, ne⟩ := h
    refine ⟨q, ?_⟩
    rw [ha, hb]
    cases x <;> cases y <;> simp_all
  · contradiction

/-- R20 code 6: the two entries of one side lie under opposite conditions on one point. -/
theorem pair_sound {p : Plan} (h : p.check = none) {x : Nat} {r : SectionRec} (hr : p.sections.get? x = some r)
    {a b : Succ} (s : r.east = [a, b] ∨ r.west = [a, b]) :
    ∃ q, (a.cond = some (q, .normal) ∧ b.cond = some (q, .reverse)) ∨
      (a.cond = some (q, .reverse) ∧ b.cond = some (q, .normal)) := by
  obtain ⟨_, cond, _⟩ := section_items h hr
  simp only [Plan.linkConditionFails, Bool.or_eq_false_iff, Bool.not_eq_false'] at cond
  rcases s with s | s
  · exact opposedPair_sound (s ▸ cond.1.2)
  · exact opposedPair_sound (s ▸ cond.2)

/-! ### Points and signals -/

theorem point_sound {p : Plan} (h : p.check = none) {x : Nat} {r : PointRec} (hr : p.points.get? x = some r) :
    p.sections.get? r.sect ≠ none ∧ r.pulse < r.throw := by
  have items := exam_items h (examPoint_mem hr)
  simpa [Plan.examPoint, Option.isSome_iff_ne_none] using items

/-- The check items of a signal record that passes: codes 11 and 12. -/
theorem signal_items {p : Plan} (h : p.check = none) {x : Nat} {r : SignalRec} (hr : p.signals.get? x = some r) :
    p.signalPlaceFails x r = false ∧ r.lampsFail = false := by
  have items := exam_items h (examSignal_mem hr)
  simpa [Plan.examSignal] using items

theorem signal_unique {p : Plan} (h : p.check = none) {x y : Nat} {r q : SignalRec} (hr : p.signals.get? x = some r)
    (hq : p.signals.get? y = some q) (s : r.sect = q.sect) (d : r.dir = q.dir) : x = y := by
  have apart : ∀ {x y : Nat} {r q : SignalRec}, p.signals.get? x = some r → p.signals.get? y = some q →
      r.sect = q.sect → r.dir = q.dir → ¬ y < x := fun hr hq s d lt => by
    have place := (signal_items h hr).1
    simp only [Plan.signalPlaceFails, Bool.or_eq_false_iff, List.any_eq_false, decide_eq_true_eq] at place
    exact place.2 _ (mem_of_get? hq) ⟨lt, s.symm, d.symm⟩
  exact Nat.le_antisymm (Nat.le_of_not_lt (apart hr hq s d)) (Nat.le_of_not_lt (apart hq hr s.symm d.symm))

theorem signal_place {p : Plan} (h : p.check = none) {x : Nat} {r : SignalRec} (hr : p.signals.get? x = some r) :
    p.sections.get? r.sect ≠ none ∧
      (r.approach ≠ 0 → ∃ a, p.sections.get? r.approach = some a ∧ ∃ e ∈ a.east ++ a.west, e.target = r.sect) := by
  have place := (signal_items h hr).1
  simp only [Plan.signalPlaceFails, Bool.or_eq_false_iff, Option.isNone_eq_false_iff, Option.isSome_iff_ne_none] at place
  refine ⟨place.1.1, fun n => ?_⟩
  have approach := place.1.2
  split at approach
  · simp [n] at approach
  · next a ha =>
    refine ⟨a, ha, ?_⟩
    have named : a.sided.any (fun e => decide (e.2.target = r.sect)) = true := by simpa [n] using approach
    obtain ⟨⟨d, e⟩, he, t⟩ := List.any_eq_true.1 named
    refine ⟨e, List.mem_append.2 ((mem_sided.1 he).imp And.right And.right), of_decide_eq_true t⟩

theorem signal_lamps {p : Plan} (h : p.check = none) {x : Nat} {r : SignalRec} (hr : p.signals.get? x = some r) :
    (r.kind = .main → r.caution ≠ none ∧ r.second ≠ none ∧ r.clear ≠ none) ∧
      (r.kind = .shunt → r.caution = none ∧ r.second = none ∧ r.clear = none ∧ r.subsidiary ≠ none) := by
  have lamps := (signal_items h hr).2
  unfold SignalRec.lampsFail at lamps
  split at lamps
  · next k => simpa [k, Option.isSome_iff_ne_none, and_assoc] using lamps
  · next k => simpa [k, Option.isSome_iff_ne_none, and_assoc] using lamps

/-! ### Routes (R7) -/

/-- The check items of a route record that passes: codes 13 to 17. -/
theorem route_items {p : Plan} (h : p.check = none) {x : Nat} {r : RouteRec} (hr : p.routes.get? x = some r) :
    p.routeStartFails r = false ∧ p.routePathFails r = false ∧ p.routeEndFails r = false ∧ p.routePointsFail r = false ∧
      p.routeTurntableFails r = false := by
  have items := exam_items h (examRoute_mem hr)
  simpa [Plan.examRoute] using items

theorem sets_iff {r : RouteRec} {e : Succ} : r.sets e = true ↔ ∀ c, e.cond = some c → c ∈ r.points := by
  unfold RouteRec.sets
  cases e.cond <;> simp

theorem allows_iff {r : RouteRec} {e : Succ} :
    r.allows e = true ↔ ∀ q pos, e.cond = some (q, pos) → ∀ y ∈ r.points, y.1 = q → y.2 = pos := by
  unfold RouteRec.allows
  rcases e.cond with _ | ⟨q, pos⟩
  · simp
  · simp only [List.all_eq_true, Bool.or_eq_true, Bool.not_eq_true', decide_eq_false_iff_not, decide_eq_true_eq,
      Option.some.injEq, Prod.mk.injEq, ← imp_iff_not_or]
    exact ⟨fun h q' pos' eq y hy k => (h y hy (k.trans eq.1.symm)).trans eq.2, fun h => h q pos ⟨rfl, rfl⟩⟩

/-- A join found for the next listed section is one by which it follows. -/
theorem stepJoin_follows {p : Plan} {r : RouteRec} {x y : Nat} {d : Dir} {e : Succ} (h : p.stepJoin r x d y = some e) :
    p.follows r (p.pathAlign r) x d y (d.through e.flip) := by
  have found := List.find?_some h
  simp only [Bool.and_eq_true, decide_eq_true_eq, List.any_eq_true] at found
  obtain ⟨⟨target, sets⟩, b, hb, ⟨back, flip⟩, sets'⟩ := found
  refine ⟨e, List.mem_of_find?_eq_some h, target, rfl, sets_iff.1 sets, b, ?_, back, flip, sets_iff.1 sets'⟩
  have side : returnSide d e.flip = (d.through e.flip).opp := by
    unfold returnSide Dir.through
    cases d <;> cases e.flip <;> rfl
  rwa [← side]

/-- R7: a path that is followed to an end runs to it. -/
theorem followPath_runsOn {p : Plan} {r : RouteRec} {l : List Nat} {x z : Nat} {d f : Dir}
    (h : p.followPath r x d l = some (z, f)) : p.runsOn r (p.pathAlign r) x d l z f := by
  induction l generalizing x d with
  | nil =>
    simp only [Plan.followPath, Option.some.injEq, Prod.mk.injEq] at h
    exact ⟨h.1.symm, h.2.symm⟩
  | cons y l ih =>
    unfold Plan.followPath at h
    split at h
    · contradiction
    · next e he => exact ⟨_, stepJoin_follows he, ih h⟩

theorem crosses_iff {p : Plan} {r : RouteRec} :
    r.reach.any p.isBridge = true ↔ ∃ sec ∈ r.sections ++ r.overlap, p.isBridge sec = true := by
  simp only [RouteRec.reach, List.any_eq_true]

/-- R20 code 17. -/
theorem routeTurntable_sound {p : Plan} {r : RouteRec} (h : p.routeTurntableFails r = false) :
    ((∃ sec ∈ r.sections ++ r.overlap, p.isBridge sec = true) ↔ r.requirement ≠ none) ∧
      ∀ road e, r.requirement = some (road, e) → p.turntable.present = true ∧ p.roads.get? road ≠ none := by
  rw [← crosses_iff]
  unfold Plan.routeTurntableFails at h
  cases req : r.requirement with
  | none => simpa [req] using h
  | some x =>
    obtain ⟨road, e⟩ := x
    simp only [req, Bool.or_eq_false_iff, Bool.not_eq_false', Option.isNone_eq_false_iff, Option.isSome_iff_ne_none] at h
    obtain ⟨⟨present, known⟩, crosses⟩ := h
    refine ⟨⟨fun _ => by simp, fun _ => crosses⟩, fun road' e' heq => ?_⟩
    cases heq
    exact ⟨present, known⟩

/-- R4, R7: the alignment that the path of a route is checked against is the one its requirement names. -/
theorem alignedFor_pathAlign {p : Plan} {r : RouteRec} {align : Option Nat} (h : p.routeTurntableFails r = false)
    (a : p.alignedFor r align) : align = p.pathAlign r := by
  have present := (routeTurntable_sound h).2
  unfold Plan.pathAlign Plan.requiredAlign
  rcases a with ⟨req, rfl⟩ | ⟨road, q, ⟨req, hq, rfl⟩ | ⟨req, hq, rfl⟩⟩
  · simp [req]
  · simp [req, hq, (present _ _ req).1, RoadRec.alignFor]
  · simp [req, hq, (present _ _ req).1, RoadRec.alignFor, opposite]

/-- R20 code 13. -/
theorem routeStart_sound {p : Plan} {r : RouteRec} (h : p.routeStartFails r = false) :
    ∃ g, p.signals.get? r.entry = some g ∧ r.sections.head? = some g.sect ∧ (r.cls = .main → g.kind = .main) ∧
      (r.cls = .shunt → g.kind = .main → g.subsidiary ≠ none) := by
  unfold Plan.routeStartFails at h
  split at h
  · contradiction
  next g hg =>
  simp only [Bool.or_eq_false_iff, Bool.not_eq_false', decide_eq_true_eq] at h
  obtain ⟨head, cls⟩ := h
  refine ⟨g, hg, head, fun k => ?_, fun k m => ?_⟩
  · simpa [k] using cls
  · simpa [k, m, Option.isSome_iff_ne_none] using cls

/-- R20 code 14: the path of a route that passes, from its entry signal's section on. -/
theorem pathEnd_runsOn {p : Plan} {r : RouteRec} {g : SignalRec} {z : Nat} {f : Dir} (hg : p.signals.get? r.entry = some g)
    (head : r.sections.head? = some g.sect) (h : p.pathEnd r = some (z, f)) :
    p.runsOn r (p.pathAlign r) g.sect g.dir r.sections.tail z f := by
  obtain ⟨rest, sections⟩ := List.head?_eq_some_iff.1 head
  simp only [Plan.pathEnd, hg, sections] at h
  rw [sections]
  exact followPath_runsOn h

/-- R20 code 15: the exit of a route whose path ends at `z`, travelled in direction `f`. -/
theorem routeEnd_sound {p : Plan} {r : RouteRec} {z : Nat} {f : Dir} (h : p.routeEndFails r = false)
    (e : p.pathEnd r = some (z, f)) :
    (r.exit = 0 → r.overlap = []) ∧
      (r.exit ≠ 0 → ∃ g, p.signals.get? r.exit = some g ∧
        (∃ e ∈ p.joins (p.pathAlign r) z f, e.target = g.sect ∧ g.dir = (if e.flip = true then f.opp else f) ∧
          ∀ q pos, e.cond = some (q, pos) → ∀ y ∈ r.points, y.1 = q → y.2 = pos) ∧
        (r.overlap ≠ [] → r.overlap.head? = some g.sect ∧
          ∃ z' f', p.runsOn r (p.pathAlign r) z f r.overlap z' f')) := by
  unfold Plan.routeEndFails at h
  refine ⟨fun n => by simpa [n] using h, fun n => ?_⟩
  simp only [n, if_false, e] at h
  cases hg : p.signals.get? r.exit with
  | none => simp [hg] at h
  | some g =>
    simp only [hg, Bool.or_eq_false_iff, Bool.not_eq_false'] at h
    obtain ⟨follows, overlap⟩ := h
    obtain ⟨j, hj, ok⟩ := List.any_eq_true.1 follows
    simp only [Bool.and_eq_true, decide_eq_true_eq] at ok
    obtain ⟨⟨target, dir⟩, allows⟩ := ok
    refine ⟨g, rfl, ⟨j, hj, target, dir.symm, allows_iff.1 allows⟩, fun some => ?_⟩
    have both : r.overlap.head? = Option.some g.sect ∧ (p.followPath r z f r.overlap).isSome = true := by
      simpa [some] using overlap
    obtain ⟨⟨z', f'⟩, path⟩ := Option.isSome_iff_exists.1 both.2
    exact ⟨both.1, z', f', followPath_runsOn path⟩

theorem pointOnRoute_iff {p : Plan} {r : RouteRec} {x : Nat} :
    p.pointOnRoute r x = true ↔ ∃ q, p.points.get? x = some q ∧ q.sect ∈ r.sections ++ r.overlap := by
  unfold Plan.pointOnRoute
  cases p.points.get? x <;> simp [RouteRec.reach]

/-- R20 code 16. -/
theorem routePoints_sound {p : Plan} {r : RouteRec} (h : p.routePointsFail r = false) :
    ((r.points ++ r.flanks).map Prod.fst).Nodup ∧
      (∀ y ∈ r.points, ∃ q, p.points.get? y.1 = some q ∧ q.sect ∈ r.sections ++ r.overlap) ∧
      ∀ y ∈ r.flanks, ∃ q, p.points.get? y.1 = some q ∧ q.sect ∉ r.sections ++ r.overlap := by
  simp only [Plan.routePointsFail, Bool.or_eq_false_iff, List.any_eq_false, Bool.not_eq_false', decide_eq_true_eq,
    Bool.not_eq_true] at h
  obtain ⟨⟨⟨known, nodup⟩, on⟩, off⟩ := h
  refine ⟨nodup, fun y hy => pointOnRoute_iff.1 (by simpa using on y hy), fun y hy => ?_⟩
  have there := known y (List.mem_append_right _ hy)
  obtain ⟨q, hq⟩ := Option.isSome_iff_exists.1 (by simpa using there)
  exact ⟨q, hq, fun mem => by simpa [pointOnRoute_iff.2 ⟨q, hq, mem⟩] using off y hy⟩

theorem route_sound {p : Plan} (h : p.check = none) {x : Nat} {r : RouteRec} (hr : p.routes.get? x = some r) :
    (r.sections ++ r.overlap).Nodup ∧
      (∃ g, p.signals.get? r.entry = some g ∧ r.sections.head? = some g.sect ∧ (r.cls = .main → g.kind = .main) ∧
        (r.cls = .shunt → g.kind = .main → g.subsidiary ≠ none) ∧
        ∀ align, p.alignedFor r align → ∃ z f, p.runsOn r align g.sect g.dir r.sections.tail z f ∧
          (r.exit = 0 → r.overlap = []) ∧
          (r.exit ≠ 0 → ∃ h, p.signals.get? r.exit = some h ∧
            (∃ e ∈ p.joins align z f, e.target = h.sect ∧ h.dir = (if e.flip = true then f.opp else f) ∧
              ∀ q pos, e.cond = some (q, pos) → ∀ y ∈ r.points, y.1 = q → y.2 = pos) ∧
            (r.overlap ≠ [] → r.overlap.head? = some h.sect ∧ ∃ z' f', p.runsOn r align z f r.overlap z' f'))) := by
  obtain ⟨start, path, finish, _, table⟩ := route_items h hr
  simp only [Plan.routePathFails, Bool.or_eq_false_iff, Bool.not_eq_false', decide_eq_true_eq, Option.isNone_eq_false_iff]
    at path
  obtain ⟨nodup, holds⟩ := path
  obtain ⟨⟨z, f⟩, ends⟩ := Option.isSome_iff_exists.1 holds
  obtain ⟨g, hg, head, main, shunt⟩ := routeStart_sound start
  refine ⟨nodup, g, hg, head, main, shunt, fun align a => ?_⟩
  rw [alignedFor_pathAlign table a]
  exact ⟨z, f, pathEnd_runsOn hg head ends, routeEnd_sound finish ends⟩

/-! ### The turntable and its roads -/

theorem mem_ofKind {p : Plan} (w : p.sections.Wf) {k : SectionKind} {x : Nat} :
    x ∈ p.ofKind k ↔ ∃ r, p.sections.get? x = some r ∧ r.kind = k := by
  simp only [Plan.ofKind, List.mem_map, List.mem_filter, decide_eq_true_eq]
  constructor
  · rintro ⟨⟨y, r⟩, ⟨mem, kind⟩, rfl⟩
    exact ⟨r, get?_of_mem _ _ _ mem w, kind⟩
  · rintro ⟨r, hr, kind⟩
    exact ⟨(x, r), ⟨mem_of_get? hr, kind⟩, rfl⟩

theorem turntable_passes {p : Plan} (h : p.check = none) : p.turntableFails = false := by
  simpa [Plan.examTurntable] using exam_items h examTurntable_mem

/-- R20 code 18, with the turntable present. -/
theorem turntable_present_sound {p : Plan} (h : p.check = none) (w : p.sections.Wf) (present : p.turntable.present = true) :
    p.roads.rows ≠ [] ∧ ∀ x, (∃ r, p.sections.get? x = some r ∧ r.kind = .bridge) ↔ x = p.turntable.bridge := by
  have passes := turntable_passes h
  simp only [Plan.turntableFails, present, if_true, Bool.or_eq_false_iff, Bool.not_eq_false', decide_eq_true_eq] at passes
  obtain ⟨bridge, roads⟩ := passes
  refine ⟨by simpa using roads, fun x => ?_⟩
  rw [← mem_ofKind w, bridge, List.mem_singleton]

/-- R20 code 18, with the turntable absent. -/
theorem turntable_absent_sound {p : Plan} (h : p.check = none) (absent : p.turntable.present = false) :
    p.roads.rows = [] ∧ ∀ x r, p.sections.get? x = some r → r.kind ≠ .bridge ∧ r.kind ≠ .road := by
  have passes := turntable_passes h
  simp only [Plan.turntableFails, absent, Bool.false_eq_true, if_false, Bool.or_eq_false_iff, Bool.not_eq_false',
    List.isEmpty_iff] at passes
  obtain ⟨⟨bridge, road⟩, roads⟩ := passes
  have none : ∀ k, p.ofKind k = [] → ∀ x r, p.sections.get? x = some r → r.kind ≠ k := fun k empty x r hr kind => by
    have mem : x ∈ p.ofKind k := List.mem_map.2 ⟨(x, r), List.mem_filter.2 ⟨mem_of_get? hr, by simp [kind]⟩, rfl⟩
    rw [empty] at mem
    contradiction
  exact ⟨roads, fun x r hr => ⟨none _ bridge x r hr, none _ road x r hr⟩⟩

/-- R20 code 19, of a road record. -/
theorem road_sound {p : Plan} (h : p.check = none) {x : Nat} {r : RoadRec} (hr : p.roads.get? x = some r) :
    (∃ q, p.sections.get? r.sect = some q ∧ q.kind = .road) ∧
      ∀ y q, p.roads.get? y = some q → (q.index = r.index ∨ q.sect = r.sect) → y = x := by
  have passes : ∀ {x : Nat} {r : RoadRec}, p.roads.get? x = some r → p.roadFails x r = false := fun hr => by
    simpa [Plan.examRoad] using exam_items h (examRoad_mem hr)
  have apart : ∀ {x y : Nat} {r q : RoadRec}, p.roads.get? x = some r → p.roads.get? y = some q →
      (q.index = r.index ∨ q.sect = r.sect) → ¬ y < x := fun hr hq s lt => by
    have own := passes hr
    simp only [Plan.roadFails, Bool.or_eq_false_iff, List.any_eq_false, decide_eq_true_eq] at own
    exact own.2 _ (mem_of_get? hq) ⟨lt, s⟩
  have own := passes hr
  simp only [Plan.roadFails, Bool.or_eq_false_iff, Bool.not_eq_false', decide_eq_true_eq, Option.map_eq_some_iff] at own
  exact ⟨own.1, fun y q hq s => Nat.le_antisymm (Nat.le_of_not_lt (apart hq hr (s.imp Eq.symm Eq.symm)))
    (Nat.le_of_not_lt (apart hr hq s))⟩

/-- R20 code 19, of a section of kind ROAD. -/
theorem roadSection_sound {p : Plan} (h : p.check = none) (w : p.roads.Wf) {x : Nat} {r : SectionRec}
    (hr : p.sections.get? x = some r) (k : r.kind = .road) : ∃ y q, p.roads.get? y = some q ∧ q.sect = x := by
  obtain ⟨_, _, _, _, road⟩ := section_items h hr
  obtain ⟨⟨y, q⟩, mem, s⟩ := List.any_eq_true.1 (road k)
  exact ⟨y, q, get?_of_mem _ _ _ mem w, of_decide_eq_true s⟩

/-! ### The operating tables -/

theorem trigger_sound {p : Plan} (h : p.check = none) {x : Nat} {r : TriggerRec} (hr : p.triggers.get? x = some r) :
    p.sections.get? r.sect ≠ none ∧ r.classes ≠ [] ∧
      ∀ k, (r.action = .requestRoute k ∨ ∃ n, r.action = .dwell n k) → p.routes.get? k ≠ none := by
  have passes : p.triggerFails r = false := by simpa [Plan.examTrigger] using exam_items h (examTrigger_mem hr)
  simp only [Plan.triggerFails, Bool.or_eq_false_iff, Option.isNone_eq_false_iff, Option.isSome_iff_ne_none] at passes
  obtain ⟨⟨sect, classes⟩, route⟩ := passes
  refine ⟨sect, by simpa using classes, fun k names => ?_⟩
  have named : r.action.route = some k := by
    rcases names with a | ⟨n, a⟩ <;> rw [a] <;> rfl
  simpa [named, Option.isSome_iff_ne_none] using route

theorem demo_sound {p : Plan} (h : p.check = none) {x : Nat} {r : DemoRec} (hr : p.demos.get? x = some r) :
    match r.kind with
    | .run k _ => p.routes.get? k ≠ none
    | .turn k _ => p.roads.get? k ≠ none ∧ p.turntable.present = true := by
  have passes : p.demoFails r = false := by simpa [Plan.examDemo] using exam_items h (examDemo_mem hr)
  unfold Plan.demoFails at passes
  cases k : r.kind with
  | run route grade => simpa [k, Option.isSome_iff_ne_none] using passes
  | turn road e => simpa [k, Option.isSome_iff_ne_none] using passes

theorem button_sound {p : Plan} (h : p.check = none) {x : Nat} {r : ButtonRec} (hr : p.buttons.get? x = some r) :
    p.demos.get? r.demo ≠ none := by
  simpa [Plan.examButton, Option.isSome_iff_ne_none] using exam_items h (examButton_mem hr)

theorem boardRecord_sound {p : Plan} (h : p.check = none) {x : Nat} {r : BoardRec} (hr : p.boards.get? x = some r) :
    r.sections.Nodup ∧
      ∀ sec ∈ r.sections, ∃ q, p.sections.get? sec = some q ∧ q.kind = .platform ∧ q.board = x := by
  have passes : p.boardFails x r = false := by simpa [Plan.examBoard] using exam_items h (examBoard_mem hr)
  simp only [Plan.boardFails, Bool.not_eq_false', Bool.and_eq_true, List.all_eq_true, decide_eq_true_eq] at passes
  refine ⟨passes.2, fun sec hs => ?_⟩
  have names := passes.1 sec hs
  unfold Plan.namesBoard at names
  split at names
  · contradiction
  · next q hq => exact ⟨q, hq, of_decide_eq_true names⟩

/-! ### The whole plan -/

/-- R20 codes 3 and 5 to 7, of a section. -/
theorem section_sound {p : Plan} (h : p.check = none) {x : Nat} {r : SectionRec} (hr : p.sections.get? x = some r) :
    r.detector < p.device.inputLength ∧
      (∀ y q, p.sections.get? y = some q → q.detector = r.detector → y = x) ∧
      (∀ d e, ((d = .east ∧ e ∈ r.east) ∨ (d = .west ∧ e ∈ r.west)) →
        e.target ≠ x ∧ p.isBridge e.target = false ∧ p.sections.get? e.target ≠ none ∧
        (∃ b ∈ p.entries e.target (if e.flip then d else d.opp), b.target = x ∧ b.flip = e.flip) ∧
        ∀ c, e.cond = some c → ∃ q, p.points.get? c.1 = some q ∧ q.sect = x) := by
  obtain ⟨within, alone⟩ := namesInput_sound h (kind := 0) (key := x) (bit := r.detector) (.inl ⟨rfl, r, hr, rfl⟩)
  exact ⟨within, fun y q hq e => (alone 0 y (.inl ⟨rfl, q, hq, e.symm⟩)).2, fun d e he => link_sound h hr (mem_sided.2 he)⟩

/-- Settles O35: each record is read off its examination, code by code. -/
theorem passedPlanIsSound : Obligations.PassedPlanIsSound := by
  intro p w h
  refine ⟨fun _ _ _ => namesInput_sound h, fun _ _ _ => namesOutput_sound h, console_sound (check_none h).1,
    (check_none h).2.1, fun _ _ hr => board_sound h hr, fun x r hr => ?_, fun x r hr => ?_,
    fun _ _ _ _ hr hq => signal_unique h hr hq, fun x r hr => ?_, fun x r hr => ?_,
    turntable_present_sound h w.sections, turntable_absent_sound h, fun _ _ => road_sound h,
    fun _ _ => roadSection_sound h w.roads, fun _ _ => trigger_sound h, fun _ _ => demo_sound h, fun _ _ => button_sound h,
    fun _ _ => boardRecord_sound h⟩
  · obtain ⟨within, alone, links⟩ := section_sound h hr
    exact ⟨within, alone, links, bridge_sound h hr, fun k _ _ hq => roadSide_sound h hr k hq,
      fun _ _ => pair_sound h hr⟩
  · obtain ⟨sect, pulse⟩ := point_sound h hr
    exact ⟨sect, pulse, (namesInput_sound h (kind := 1) (.inr (.inl ⟨rfl, r, hr, .inl rfl⟩))).1,
      (namesInput_sound h (kind := 1) (.inr (.inl ⟨rfl, r, hr, .inr rfl⟩))).1,
      (namesOutput_sound h (kind := 1) (.inl ⟨rfl, r, hr, .inl rfl⟩)).1,
      (namesOutput_sound h (kind := 1) (.inl ⟨rfl, r, hr, .inr rfl⟩)).1⟩
  · obtain ⟨sect, approach⟩ := signal_place h hr
    exact ⟨sect, approach, signal_lamps h hr⟩
  · obtain ⟨_, _, _, points, table⟩ := route_items h hr
    obtain ⟨nodup, path⟩ := route_sound h hr
    obtain ⟨settings, on, off⟩ := routePoints_sound points
    exact ⟨nodup, path, settings, on, off, routeTurntable_sound table⟩

end Sys2Proof.Machine
end

section
/-! PROOFS. Plan records on the link: what a decoder yields is within its ranges, and it reads back what was encoded
(R15, R16, R17, R173). -/
namespace Sys2Proof.Machine

/-! ### What a decoder yields -/

section
variable {α β : Type}

/-- Whatever bytes a decoder reads, its value satisfies `P`. -/
def Yields (p : Parse α) (P : α → Prop) : Prop := ∀ l a l', p l = some (a, l') → P a

theorem Yields.bind {p : Parse α} {f : α → Parse β} {P : α → Prop} {Q : β → Prop} (hp : Yields p P)
    (hf : ∀ a, P a → Yields (f a) Q) : Yields (p >>= f) Q := by
  intro l b l' h
  rw [parse_bind, Option.bind_eq_some_iff] at h
  obtain ⟨⟨a, m⟩, ha, hb⟩ := h
  exact hf a (hp l a m ha) m b l' hb

/-- A value of which nothing need be known. -/
theorem Yields.any {p : Parse α} {f : α → Parse β} {Q : β → Prop} (hf : ∀ a, Yields (f a) Q) : Yields (p >>= f) Q :=
  Yields.bind (P := fun _ => True) (fun _ _ _ _ => trivial) fun a _ => hf a

theorem Yields.pure {a : α} {P : α → Prop} (h : P a) : Yields (pure a) P := by
  intro l b l' e
  cases e
  exact h

theorem Yields.undecodable {P : α → Prop} : Yields undecodable P := by
  intro l a l' h
  cases h

theorem Yields.ite {c : Prop} [Decidable c] {p q : Parse α} {P : α → Prop} (hp : Yields p P) (hq : Yields q P) :
    Yields (if c then p else q) P := by
  split <;> assumption

theorem u8_yields : Yields u8 (fun n => n < 256) := by
  intro l a l' h
  cases l with
  | nil => cases h
  | cons b l => cases h; exact b.isLt

theorem many_yields {p : Parse α} {P : α → Prop} (hp : Yields p P) (n : Nat) :
    Yields (many p n) (fun l => l.length = n ∧ ∀ x ∈ l, P x) := by
  induction n with
  | zero => exact .pure (by simp)
  | succ n ih =>
    refine hp.bind fun a ha => ih.bind fun l hl => .pure ⟨by simp [hl.1], ?_⟩
    exact List.forall_mem_cons.2 ⟨ha, hl.2⟩

theorem listOf_yields {p : Parse α} {P : α → Prop} (hp : Yields p P) (m : Nat) :
    Yields (listOf m p) (fun l => l.length ≤ m ∧ ∀ x ∈ l, P x) := by
  refine .any fun n => ?_
  split
  · exact .undecodable
  · intro l a l' h
    obtain ⟨len, all⟩ := many_yields hp n l a l' h
    exact ⟨by omega, all⟩

theorem mapM_some_mem {f : α → Option β} {l : List α} {l' : List β} (h : l.mapM f = some l') :
    l'.length = l.length ∧ ∀ y ∈ l', ∃ x ∈ l, f x = some y := by
  induction l generalizing l' with
  | nil =>
    cases h
    simp
  | cons a l ih =>
    rw [List.mapM_cons] at h
    simp only [Option.bind_eq_bind, Option.bind_eq_some_iff, Option.pure_def, Option.some.injEq] at h
    obtain ⟨b, hb, t, ht, rfl⟩ := h
    obtain ⟨len, all⟩ := ih ht
    refine ⟨by simp [len], List.forall_mem_cons.2 ⟨⟨a, by simp, hb⟩, fun y hy => ?_⟩⟩
    obtain ⟨x, hx, e⟩ := all y hy
    exact ⟨x, List.mem_cons_of_mem a hx, e⟩

end

/-! ### Values within their ranges (R15 step 6, R16) -/

@[simp] theorem idIn_eq_some {hi n m : Nat} : idIn hi n = some m ↔ n = m ∧ 1 ≤ m ∧ m ≤ hi := by
  unfold idIn
  split <;> simp <;> omega

@[simp] theorem idOrNone_eq_some {hi n m : Nat} : idOrNone hi n = some m ↔ n = m ∧ m ≤ hi := by
  unfold idOrNone
  split <;> simp <;> omega

@[simp] theorem bitNo_eq_some {n m : Nat} : bitNo n = some m ↔ n = m ∧ m ≤ 511 := by
  unfold bitNo
  split <;> simp <;> omega

@[simp] theorem consoleCode_eq_some {n m : Nat} : consoleCode n = some m ↔ n = m ∧ m ≤ 5 := by
  unfold consoleCode
  split <;> simp <;> omega

theorem optBitNo_ranged {n : Nat} {o : Option Nat} (h : optBitNo n = some o) : bitRanged o := by
  unfold optBitNo at h
  split at h
  · cases h
    exact fun _ e => nomatch e
  · simp only [Option.map_eq_some_iff, bitNo_eq_some] at h
    obtain ⟨m, ⟨_, le⟩, rfl⟩ := h
    rintro b ⟨⟩
    exact le

theorem condition_ranged {p q : Nat} {o : Option (Nat × Pos)} (h : condition p q = some o) :
    ∀ c, o = some c → 1 ≤ c.1 ∧ c.1 ≤ 120 := by
  unfold condition at h
  split at h
  · cases h
    exact fun _ e => nomatch e
  · simp only [Option.bind_eq_bind, Option.bind_eq_some_iff, idIn_eq_some, Option.some.injEq] at h
    obtain ⟨m, ⟨_, lo, hi⟩, pos, _, rfl⟩ := h
    rintro c ⟨⟩
    exact ⟨lo, hi⟩

theorem requirementOf_ranged {road e : Nat} {o : Option (Nat × End)} (h : requirementOf road e = some o) :
    ∀ c, o = some c → 1 ≤ c.1 ∧ c.1 ≤ 20 := by
  unfold requirementOf at h
  split at h
  · cases h
    exact fun _ e => nomatch e
  · simp only [Option.bind_eq_bind, Option.bind_eq_some_iff, idIn_eq_some, Option.some.injEq] at h
    obtain ⟨m, ⟨_, lo, hi⟩, pos, _, rfl⟩ := h
    rintro c ⟨⟩
    exact ⟨lo, hi⟩

theorem clamp_range {lo hi : Nat} (h : lo ≤ hi) (n : Nat) : lo ≤ clamp lo hi n ∧ clamp lo hi n ≤ hi := by
  unfold clamp
  omega

theorem chainLength_range (n : Nat) : 8 ≤ chainLength n ∧ chainLength n ≤ 512 ∧ chainLength n % 8 = 0 := by
  unfold chainLength clamp
  omega

/-! ### Every record decoded is within its ranges -/

/-- A decoder of records of a kind yields records within their ranges, or a value to be refused. -/
abbrev YieldsRanged (kind : Nat) (p : Parse (Option Record)) : Prop := Yields p fun o => ∀ r, o = some r → r.ranged kind

theorem parseSucc_yields : Yields parseSucc fun o => ∀ e, o = some e → e.ranged := by
  refine .any fun target => .any fun flip => .any fun p => .any fun q => .pure fun e h => ?_
  simp only [Option.bind_eq_bind, Option.bind_eq_some_iff, idIn_eq_some, Option.some.injEq] at h
  obtain ⟨t, ⟨_, lo, hi⟩, c, hc, rfl⟩ := h
  exact ⟨lo, hi, condition_ranged hc⟩

theorem parseSection_yields : YieldsRanged 0 parseSection := by
  refine .any fun length => .any fun detector => .any fun kind => .any fun limit =>
    (listOf_yields parseSucc_yields 2).bind fun east he => (listOf_yields parseSucc_yields 2).bind fun west hw =>
    .any fun board => .pure fun r h => ?_
  simp only [Option.bind_eq_bind, Option.bind_eq_some_iff, bitNo_eq_some, idOrNone_eq_some, Option.some.injEq] at h
  obtain ⟨d, ⟨_, det⟩, k, _, e, hE, w, hW, b, ⟨_, hb⟩, rfl⟩ := h
  obtain ⟨lenE, memE⟩ := mapM_some_mem hE
  obtain ⟨lenW, memW⟩ := mapM_some_mem hW
  have all : ∀ x ∈ e ++ w, x.ranged := fun x hx => by
    rcases List.mem_append.1 hx with hx | hx
    · obtain ⟨o, ho, eq⟩ := memE x hx
      exact he.2 o ho x eq
    · obtain ⟨o, ho, eq⟩ := memW x hx
      exact hw.2 o ho x eq
  have cl := clamp_range (show 1 ≤ 4095 by decide) length
  have cs := clamp_range (show 1 ≤ 63 by decide) limit
  exact ⟨cl.1, cl.2, det, cs.1, cs.2, lenE ▸ he.1, lenW ▸ hw.1, all, hb⟩

theorem parsePoint_yields : YieldsRanged 1 parsePoint := by
  refine .any fun sect => .any fun nDrive => .any fun rDrive => .any fun nDetect => .any fun rDetect => .any fun pulse =>
    .any fun throw => .any fun limit => .pure fun r h => ?_
  simp only [Option.bind_eq_bind, Option.bind_eq_some_iff, idIn_eq_some, bitNo_eq_some, Option.some.injEq] at h
  obtain ⟨s, ⟨_, lo, hi⟩, a, ⟨_, ha⟩, b, ⟨_, hb⟩, c, ⟨_, hc⟩, d, ⟨_, hd⟩, rfl⟩ := h
  have cp := clamp_range (show 1 ≤ 10 by decide) pulse
  have ct := clamp_range (show 2 ≤ 50 by decide) throw
  have cl := clamp_range (show 1 ≤ 63 by decide) limit
  exact ⟨lo, hi, ha, hb, hc, hd, cp.1, cp.2, ct.1, ct.2, cl.1, cl.2⟩

theorem parseSignal_yields : YieldsRanged 2 parseSignal := by
  refine .any fun kind => .any fun sect => .any fun dir => .any fun approach => .any fun stop => .any fun caution =>
    .any fun second => .any fun clear => .any fun subsidiary => .pure fun r h => ?_
  simp only [Option.bind_eq_bind, Option.bind_eq_some_iff, idIn_eq_some, bitNo_eq_some, idOrNone_eq_some] at h
  obtain ⟨k, _, s, ⟨_, lo, hi⟩, d, _, a, ⟨_, ha⟩, st, ⟨_, hst⟩, ca, hca, se, hse, cl, hcl, su, hsu, h⟩ := h
  split at h
  · contradiction
  next lamps =>
  cases h
  refine ⟨lo, hi, ha, hst, optBitNo_ranged hca, optBitNo_ranged hse, optBitNo_ranged hcl, optBitNo_ranged hsu, fun shunt => ?_⟩
  by_contra n
  exact lamps ⟨shunt, n⟩

theorem parseSetting_yields : Yields parseSetting fun o => ∀ x, o = some x → 1 ≤ x.1 ∧ x.1 ≤ 120 := by
  refine .any fun p => .any fun q => .pure fun x h => ?_
  simp only [Option.bind_eq_bind, Option.bind_eq_some_iff, idIn_eq_some, Option.some.injEq] at h
  obtain ⟨m, ⟨_, lo, hi⟩, pos, _, rfl⟩ := h
  exact ⟨lo, hi⟩

/-- The ids of a list of bytes, each within its table. -/
theorem mapM_idIn_mem {hi : Nat} {l l' : List Nat} (h : l.mapM (idIn hi) = some l') : ∀ x ∈ l', 1 ≤ x ∧ x ≤ hi := by
  intro x hx
  obtain ⟨y, _, e⟩ := (mapM_some_mem h).2 x hx
  exact (idIn_eq_some.1 e).2

/-- The settings of a list, each of a point of the plan. -/
theorem mapM_id_mem {α : Type} {P : α → Prop} {l : List (Option α)} {l' : List α} (h : l.mapM id = some l')
    (all : ∀ o ∈ l, ∀ x, o = some x → P x) : ∀ x ∈ l', P x := by
  intro x hx
  obtain ⟨o, ho, e⟩ := (mapM_some_mem h).2 x hx
  exact all o ho x e

theorem parseRoute_yields : YieldsRanged 3 parseRoute := by
  refine .any fun cls => .any fun entry => .any fun exit =>
    (listOf_yields (P := fun _ => True) (fun _ _ _ _ => trivial) 12).bind fun sections hs =>
    (listOf_yields parseSetting_yields 10).bind fun points hp => (listOf_yields parseSetting_yields 6).bind fun flanks hf =>
    (listOf_yields (P := fun _ => True) (fun _ _ _ _ => trivial) 2).bind fun overlap ho =>
    .any fun road => .any fun e => .pure fun r h => ?_
  simp only [Option.bind_eq_bind, Option.bind_eq_some_iff, idIn_eq_some, idOrNone_eq_some, Option.some.injEq] at h
  obtain ⟨c, _, en, ⟨_, lo, hi⟩, ex, ⟨_, hex⟩, ss, hss, ps, hps, fs, hfs, os, hos, q, hq, rfl⟩ := h
  refine ⟨lo, hi, hex, (mapM_some_mem hss).1 ▸ hs.1, (mapM_some_mem hps).1 ▸ hp.1, (mapM_some_mem hfs).1 ▸ hf.1,
    (mapM_some_mem hos).1 ▸ ho.1, fun x hx => ?_, fun x hx => ?_, requirementOf_ranged hq⟩
  · exact (List.mem_append.1 hx).elim (mapM_idIn_mem hss x) (mapM_idIn_mem hos x)
  · exact (List.mem_append.1 hx).elim (mapM_id_mem hps hp.2 x) (mapM_id_mem hfs hf.2 x)

theorem parseRoad_yields : YieldsRanged 4 parseRoad := by
  refine .any fun index => .any fun sect => .any fun flip => .pure fun r h => ?_
  simp only [Option.bind_eq_bind, Option.bind_eq_some_iff, idIn_eq_some, Option.some.injEq] at h
  obtain ⟨s, ⟨_, lo, hi⟩, rfl⟩ := h
  exact ⟨Nat.mod_lt _ (by decide), lo, hi⟩

theorem parseAction_yields : Yields parseAction fun o => ∀ a, o = some a → a.ranged := by
  refine .any fun place => .ite (.any fun r => .pure fun a h => ?_) (.ite (.any fun n => .any fun r => .pure fun a h => ?_)
    (.ite (.any fun g => .pure fun a h => ?_) (.ite (.pure fun a h => ?_) (.ite (.pure fun a h => ?_) .undecodable))))
  · simp only [Option.map_eq_some_iff, idIn_eq_some] at h
    obtain ⟨m, ⟨_, range⟩, rfl⟩ := h
    exact range
  · simp only [Option.map_eq_some_iff, idIn_eq_some] at h
    obtain ⟨m, ⟨_, range⟩, rfl⟩ := h
    have c := clamp_range (show 1 ≤ 1200 by decide) n
    exact ⟨c.1, c.2, range⟩
  · cases h
    exact Nat.min_le_right g 63
  · cases h
    trivial
  · cases h
    trivial

/-- R173: a class filter lists its classes in their order. -/
theorem setOf_yields : Yields (setOf trainClasses) fun l => l = trainClasses.filter (fun c => l.contains c) := by
  refine .any fun n => ?_
  split
  · exact .undecodable
  next small =>
  have all : ∀ m : Fin 64, ((trainClasses.zipIdx.filter (fun x => m.val.testBit x.2)).map Prod.fst) =
      trainClasses.filter (fun c => ((trainClasses.zipIdx.filter (fun x => m.val.testBit x.2)).map Prod.fst).contains c) := by
    decide
  have lt : n < 64 := by
    have : trainClasses.length = 6 := rfl
    rw [this] at small
    omega
  exact .pure (all ⟨n, lt⟩)

theorem parseTrigger_yields : YieldsRanged 5 parseTrigger := by
  refine .any fun sect => .any fun dir => setOf_yields.bind fun classes hc => parseAction_yields.bind fun action ha =>
    .pure fun r h => ?_
  simp only [Option.bind_eq_bind, Option.bind_eq_some_iff, idIn_eq_some, Option.some.injEq] at h
  obtain ⟨s, ⟨_, lo, hi⟩, d, _, a, rfl, rfl⟩ := h
  exact ⟨lo, hi, hc, ha a rfl⟩

theorem parseDemo_yields : YieldsRanged 6 parseDemo := by
  refine .any fun kind => .any fun train => .any fun route => .any fun grade => .any fun road => .any fun e =>
    .any fun limit => .pure fun r h => ?_
  simp only [Option.bind_eq_bind, Option.bind_eq_some_iff, idIn_eq_some] at h
  obtain ⟨t, ⟨_, lo, hi⟩, h⟩ := h
  have cl := clamp_range (show 10 ≤ 600 by decide) limit
  have cg := clamp_range (show 1 ≤ 63 by decide) grade
  split at h
  · split at h
    · simp only [Option.bind_eq_some_iff, Option.map_eq_some_iff, idIn_eq_some, Option.some.injEq] at h
      obtain ⟨_, ⟨m, ⟨_, rlo, rhi⟩, rfl⟩, rfl⟩ := h
      exact ⟨lo, hi, cl.1, cl.2, rlo, rhi, cg.1, cg.2⟩
    · contradiction
  · split at h
    · split at h
      · simp only [Option.bind_eq_some_iff, idIn_eq_some, Option.some.injEq] at h
        obtain ⟨m, ⟨_, range⟩, x, _, _, rfl, rfl⟩ := h
        exact ⟨lo, hi, cl.1, cl.2, range⟩
      · contradiction
    · contradiction

theorem parseButton_yields : YieldsRanged 7 parseButton := by
  refine .any fun input => .any fun lamp => .any fun demo => .pure fun r h => ?_
  simp only [Option.bind_eq_bind, Option.bind_eq_some_iff, idIn_eq_some, bitNo_eq_some, Option.some.injEq] at h
  obtain ⟨i, ⟨_, hi⟩, m, ⟨_, hm⟩, d, ⟨_, lo, up⟩, rfl⟩ := h
  exact ⟨hi, hm, lo, up⟩

theorem parseBoard_yields : YieldsRanged 8 parseBoard := by
  refine (listOf_yields (P := fun _ => True) (fun _ _ _ _ => trivial) 3).bind fun sections hs => .pure fun r h => ?_
  simp only [Option.map_eq_some_iff] at h
  obtain ⟨l, hl, rfl⟩ := h
  exact ⟨(mapM_some_mem hl).1 ▸ hs.1, mapM_idIn_mem hl⟩

theorem parseTurntable_yields : YieldsRanged 9 parseTurntable := by
  refine .any fun here => .any fun bridge => .any fun step => .any fun lock => .any fun sector => .any fun index =>
    .any fun home => .any fun confirmed => .any fun cw => .any fun acw => .any fun release => .pure fun r h => ?_
  simp only [Option.bind_eq_bind, Option.bind_eq_some_iff, idIn_eq_some, bitNo_eq_some, Option.some.injEq] at h
  obtain ⟨p, _, b, ⟨_, lo, hi⟩, i, ⟨_, hI⟩, ho, ⟨_, hH⟩, lk, ⟨_, hL⟩, c, ⟨_, hC⟩, a, ⟨_, hA⟩, re, ⟨_, hR⟩, rfl⟩ := h
  have cs := clamp_range (show 1 ≤ 50 by decide) step
  have cl := clamp_range (show 1 ≤ 50 by decide) lock
  refine ⟨lo, hi, cs.1, cs.2, cl.1, cl.2, fun z hz => ?_, hI, hH, hL, hC, hA, hR⟩
  dsimp only at hz
  split at hz
  · contradiction
  · cases hz
    exact Nat.mod_lt _ (by decide)

theorem parseClass_yields : YieldsRanged 10 parseClass := by
  refine .any fun g => .any fun a => .any fun b => .pure fun r h => ?_
  cases h
  have cg := clamp_range (show 1 ≤ 63 by decide) g
  have ca := clamp_range (show 1 ≤ 8 by decide) a
  have cb := clamp_range (show 1 ≤ 32 by decide) b
  exact ⟨cg.1, cg.2, ca.1, ca.2, cb.1, cb.2⟩

theorem parseStation_yields : YieldsRanged 11 parseStation := by
  refine .any fun floor => .any fun k => .pure fun r h => ?_
  cases h
  have ck := clamp_range (show 1 ≤ 60 by decide) k
  exact ⟨Nat.min_le_right floor 15, ck.1, ck.2⟩

theorem parseDevice_yields : YieldsRanged 12 parseDevice := by
  refine .any fun approach => .any fun debounce => .any fun low => u8_yields.bind fun cooldown hc => .any fun policy =>
    .any fun c1 => .any fun c2 => .any fun c3 => .any fun inLen => .any fun outLen => .pure fun r h => ?_
  simp only [Option.bind_eq_bind, Option.bind_eq_some_iff, consoleCode_eq_some, Option.some.injEq] at h
  obtain ⟨p, _, a, ⟨_, ha⟩, b, ⟨_, hb⟩, c, ⟨_, hc'⟩, rfl⟩ := h
  have ca := clamp_range (show 1 ≤ 120 by decide) approach
  have cd := clamp_range (show 3 ≤ 15 by decide) debounce
  have cl := clamp_range (show 1 ≤ 63 by decide) low
  obtain ⟨i1, i2, i3⟩ := chainLength_range inLen
  obtain ⟨o1, o2, o3⟩ := chainLength_range outLen
  exact ⟨ca.1, ca.2, cd.1, cd.2, cl.1, cl.2, Nat.le_of_lt_succ hc, ha, hb, hc', i1, i2, i3, o1, o2, o3⟩

theorem parseRecord_yields (kind : Nat) : YieldsRanged kind (parseRecord kind) := by
  unfold parseRecord
  split
  · exact parseSection_yields
  · exact parsePoint_yields
  · exact parseSignal_yields
  · exact parseRoute_yields
  · exact parseRoad_yields
  · exact parseTrigger_yields
  · exact parseDemo_yields
  · exact parseButton_yields
  · exact parseBoard_yields
  · exact parseTurntable_yields
  · exact parseClass_yields
  · exact parseStation_yields
  · exact parseDevice_yields
  · exact .undecodable

theorem parsePlanWrite_yields :
    Yields parsePlanWrite fun w => ∀ r, w.record = some (some r) → r.ranged w.kind := by
  refine .any fun kind => .any fun key => .any fun op => .ite .undecodable (.ite ?_ (.ite (.pure fun r h => ?_) .undecodable))
  · refine (parseRecord_yields kind).bind fun o ho => .pure fun r h => ho r ?_
    simpa using h
  · simp at h

end Sys2Proof.Machine
end

section
/-! PROOFS. Plan records on the link: what is encoded is read back as it was, and numbers are clamped (R15, R16, R17,
R173). -/
namespace Sys2Proof.Machine

/-! ### Reading back what was encoded -/

section
variable {α β : Type}

/-- A decoder takes these bytes for `a`, whatever bytes follow. -/
def Reads (p : Parse α) (bytes : List Byte) (a : α) : Prop := ∀ l, p (bytes ++ l) = some (a, l)

theorem Reads.bind {p : Parse α} {f : α → Parse β} {bs cs : List Byte} {a : α} {b : β} (hp : Reads p bs a)
    (hf : Reads (f a) cs b) : Reads (p >>= f) (bs ++ cs) b := by
  intro l
  rw [parse_bind, List.append_assoc, hp]
  exact hf l

theorem Reads.last {p : Parse α} {g : α → β} {bs : List Byte} {a : α} {b : β} (hp : Reads p bs a) (e : g a = b) :
    Reads (p >>= fun x => pure (g x)) bs b := by
  intro l
  rw [parse_bind, hp]
  exact e ▸ rfl

theorem Reads.decodeAll {p : Parse α} {bs : List Byte} {a : α} (h : Reads p bs a) : decodeAll p bs = some a := by
  have := h []
  rw [List.append_nil] at this
  exact decodeAll_eq_some.2 this

theorem u8_one {n : Nat} (h : n < 256) : Reads u8 (one n) n := by
  intro l
  change some ((BitVec.ofNat 8 n).toNat, l) = _
  rw [BitVec.toNat_ofNat, Nat.mod_eq_of_lt h]

theorem u16_two {n : Nat} (h : n < 65536) : Reads u16 (two n) n := by
  intro l
  change some ((BitVec.ofNat 8 (n / 256)).toNat * 256 + (BitVec.ofNat 8 n).toNat, l) = _
  rw [BitVec.toNat_ofNat, BitVec.toNat_ofNat]
  congr 2
  omega

theorem flag_flagByte (b : Bool) : Reads flag (flagByte b) b := by
  intro l
  cases b <;> rfl

theorem many_flatMap {p : Parse β} {enc : α → List Byte} {f : α → β} {l : List α}
    (h : ∀ x ∈ l, Reads p (enc x) (f x)) : Reads (many p l.length) (l.flatMap enc) (l.map f) := by
  induction l with
  | nil => exact fun _ => rfl
  | cons x l ih =>
    obtain ⟨hx, hl⟩ := List.forall_mem_cons.1 h
    exact hx.bind ((ih hl).last rfl)

theorem listOf_listBytes {p : Parse β} {enc : α → List Byte} {f : α → β} {l : List α} {m : Nat} (m_lt : m < 256)
    (len : l.length ≤ m) (h : ∀ x ∈ l, Reads p (enc x) (f x)) : Reads (listOf m p) (listBytes enc l) (l.map f) := by
  refine (u8_one (by omega)).bind ?_
  rw [if_neg (by omega)]
  exact many_flatMap h

theorem mapM_some (l : List α) : l.mapM (fun x => some x) = some l := by
  induction l with
  | nil => rfl
  | cons x l ih => simp [ih]

/-! ### Named values -/

variable [DecidableEq α]

theorem u8_code {values : List α} (h : values.length < 256) (x : α) :
    Reads u8 (one (code values x)) (code values x) :=
  u8_one (Nat.lt_of_le_of_lt List.idxOf_le_length h)

theorem named_code {values : List α} {x : α} (h : x ∈ values) : named values (code values x) = some x :=
  List.getElem?_idxOf h

end

@[simp] theorem mem_positions (x : Pos) : x ∈ positions := by cases x <;> decide
@[simp] theorem mem_dirs (x : Dir) : x ∈ dirs := by cases x <;> decide
@[simp] theorem mem_endsAB (x : End) : x ∈ endsAB := by cases x <;> decide
@[simp] theorem mem_endChoices (x : EndChoice) : x ∈ endChoices := by cases x <;> decide
@[simp] theorem mem_sectionKinds (x : SectionKind) : x ∈ sectionKinds := by cases x <;> decide
@[simp] theorem mem_mainShunts (x : MainShunt) : x ∈ mainShunts := by cases x <;> decide
@[simp] theorem mem_dirFilters (x : DirFilter) : x ∈ dirFilters := by cases x <;> decide
@[simp] theorem mem_queuePolicies (x : QueuePolicy) : x ∈ queuePolicies := by cases x <;> decide

/-- R173: a class filter in the order of R9 is read back from its byte. -/
theorem setOf_setByte {l : List TrainClass} (h : l = trainClasses.filter (fun c => l.contains c)) :
    Reads (setOf trainClasses) (setByte trainClasses l) l := by
  have all : ∀ l ∈ trainClasses.sublists,
      (trainClasses.zipIdx.map (fun (x : TrainClass × Nat) => if l.contains x.1 then 2 ^ x.2 else 0)).sum < 64 ∧
      (trainClasses.zipIdx.filter (fun x => ((trainClasses.zipIdx.map
        (fun (x : TrainClass × Nat) => if l.contains x.1 then 2 ^ x.2 else 0)).sum).testBit x.2)).map Prod.fst = l := by
    decide
  have sub : l ∈ trainClasses.sublists := List.mem_sublists.2 (h ▸ List.filter_sublist)
  obtain ⟨lt, same⟩ := all l sub
  refine fun t => (u8_one (by omega)).bind (cs := []) (b := l) ?_ t
  rw [if_neg (by exact Nat.not_le.2 lt), same]
  exact fun _ => rfl

/-! ### Values within their ranges are taken as they are -/

theorem idIn_of {hi n : Nat} (lo : 1 ≤ n) (up : n ≤ hi) : idIn hi n = some n := idIn_eq_some.2 ⟨rfl, lo, up⟩
theorem idOrNone_of {hi n : Nat} (up : n ≤ hi) : idOrNone hi n = some n := idOrNone_eq_some.2 ⟨rfl, up⟩
theorem bitNo_of {n : Nat} (up : n ≤ 511) : bitNo n = some n := bitNo_eq_some.2 ⟨rfl, up⟩
theorem consoleCode_of {n : Nat} (up : n ≤ 5) : consoleCode n = some n := consoleCode_eq_some.2 ⟨rfl, up⟩

theorem clamp_of {lo hi n : Nat} (h : lo ≤ n) (up : n ≤ hi) : clamp lo hi n = n := by
  unfold clamp
  omega

theorem chainLength_of {n : Nat} (h : 8 ≤ n) (up : n ≤ 512) (whole : n % 8 = 0) : chainLength n = n := by
  unfold chainLength clamp
  omega

theorem optBit_reads {o : Option Nat} (h : bitRanged o) : Reads u16 (optBit o) (o.getD 65535) := by
  cases o with
  | none => exact u16_two (by decide)
  | some b => exact u16_two (Nat.lt_of_le_of_lt (h b rfl) (by decide))

theorem optBitNo_getD {o : Option Nat} (h : bitRanged o) : optBitNo (o.getD 65535) = some o := by
  cases o with
  | none => rfl
  | some b =>
    have le : b ≤ 511 := h b rfl
    unfold optBitNo
    rw [Option.getD_some, if_neg (by omega), bitNo_of le]
    rfl

theorem mapM_idIn {hi : Nat} {l : List Nat} (h : ∀ x ∈ l, 1 ≤ x ∧ x ≤ hi) : l.mapM (idIn hi) = some l := by
  induction l with
  | nil => rfl
  | cons x l ih =>
    obtain ⟨⟨lo, up⟩, hl⟩ := List.forall_mem_cons.1 h
    simp [idIn_of lo up, ih hl]

/-- A list of ids of tables of up to 255 records. -/
theorem listOf_ids {l : List Nat} {m : Nat} (m_lt : m < 256) (len : l.length ≤ m) (h : ∀ x ∈ l, 1 ≤ x ∧ x ≤ 240) :
    Reads (listOf m u8) (listBytes one l) l := by
  have := listOf_listBytes (p := u8) (enc := one) (f := id) m_lt len
    fun x hx => u8_one (Nat.lt_of_le_of_lt (h x hx).2 (by decide))
  rwa [List.map_id] at this

/-- The two bytes of an absent condition or requirement. -/
theorem absent_bytes : ([0#8, 255#8] : List Byte) = one 0 ++ one 255 := rfl

/-! ### Every record reads back -/

theorem parseSucc_reads {e : Succ} (h : e.ranged) : Reads parseSucc (succBytes e) (some e) := by
  obtain ⟨target, flip, cond⟩ := e
  obtain ⟨lo, up, hc⟩ := h
  dsimp only at lo up hc
  cases cond with
  | none =>
    simp only [succBytes, absent_bytes, List.append_assoc]
    refine (u8_one (by omega)).bind <| (flag_flagByte _).bind <| (u8_one (by omega)).bind <| (u8_one (by omega)).last ?_
    simp [idIn_of lo up, condition]
  | some c =>
    obtain ⟨clo, cup⟩ := hc c rfl
    simp only [succBytes, List.append_assoc]
    refine (u8_one (by omega)).bind <| (flag_flagByte _).bind <| (u8_one (by omega)).bind <| (u8_code (by decide) _).last ?_
    simp [idIn_of lo up, condition, idIn_of clo cup, named_code, show c.1 ≠ 0 by omega]

theorem parseSection_reads {r : SectionRec} (h : Record.ranged 0 (.sect r)) :
    Reads parseSection (Record.sect r).bytes (some (.sect r)) := by
  obtain ⟨l1, l2, d, s1, s2, le, lw, all, b⟩ := h
  obtain ⟨he, hw⟩ := List.forall_mem_append.1 all
  simp only [Record.bytes, List.append_assoc]
  refine (u16_two (by omega)).bind <| (u16_two (by omega)).bind <| (u8_code (by decide) _).bind <|
    (u8_one (by omega)).bind <| (listOf_listBytes (by decide) le fun x hx => parseSucc_reads (he x hx)).bind <|
    (listOf_listBytes (by decide) lw fun x hx => parseSucc_reads (hw x hx)).bind <| (u8_one (by omega)).last ?_
  simp [bitNo_of d, named_code, mapM_some, idOrNone_of b, clamp_of l1 l2, clamp_of s1 s2]

theorem parsePoint_reads {r : PointRec} (h : Record.ranged 1 (.point r)) :
    Reads parsePoint (Record.point r).bytes (some (.point r)) := by
  obtain ⟨lo, up, a, b, c, d, p1, p2, t1, t2, r1, r2⟩ := h
  simp only [Record.bytes, List.append_assoc]
  refine (u8_one (by omega)).bind <| (u16_two (by omega)).bind <| (u16_two (by omega)).bind <| (u16_two (by omega)).bind <|
    (u16_two (by omega)).bind <| (u8_one (by omega)).bind <| (u8_one (by omega)).bind <| (u8_one (by omega)).last ?_
  simp [idIn_of lo up, bitNo_of a, bitNo_of b, bitNo_of c, bitNo_of d, clamp_of p1 p2, clamp_of t1 t2, clamp_of r1 r2]

theorem parseSignal_reads {r : SignalRec} (h : Record.ranged 2 (.signal r)) :
    Reads parseSignal (Record.signal r).bytes (some (.signal r)) := by
  obtain ⟨lo, up, a, st, ca, se, cl, su, shunt⟩ := h
  simp only [Record.bytes, List.append_assoc]
  refine (u8_code (by decide) _).bind <| (u8_one (by omega)).bind <| (u8_code (by decide) _).bind <|
    (u8_one (by omega)).bind <| (u16_two (by omega)).bind <| (optBit_reads ca).bind <| (optBit_reads se).bind <|
    (optBit_reads cl).bind <| (optBit_reads su).last ?_
  simpa [named_code, idIn_of lo up, idOrNone_of a, bitNo_of st, optBitNo_getD ca, optBitNo_getD se, optBitNo_getD cl,
    optBitNo_getD su] using shunt

theorem parseSetting_reads {x : Nat × Pos} (h : 1 ≤ x.1 ∧ x.1 ≤ 120) : Reads parseSetting (settingBytes x) (some x) := by
  obtain ⟨lo, up⟩ := h
  refine (u8_one (by omega)).bind <| (u8_code (by decide) _).last ?_
  simp [idIn_of lo up, named_code]

theorem parseRoute_reads {r : RouteRec} (h : Record.ranged 3 (.route r)) :
    Reads parseRoute (Record.route r).bytes (some (.route r)) := by
  obtain ⟨cls, entry, exit, sections, points, flanks, overlap, req⟩ := r
  obtain ⟨lo, up, ex, ls, lp, lf, lv, hs, hp, hq⟩ := h
  dsimp only at lo up ex ls lp lf lv hs hp hq
  obtain ⟨hss, hov⟩ := List.forall_mem_append.1 hs
  obtain ⟨hpp, hff⟩ := List.forall_mem_append.1 hp
  cases req with
  | none =>
    simp only [Record.bytes, absent_bytes, List.append_assoc]
    refine (u8_code (by decide) _).bind <| (u8_one (by omega)).bind <| (u8_one (by omega)).bind <|
      (listOf_ids (by decide) ls hss).bind <|
      (listOf_listBytes (by decide) lp fun x hx => parseSetting_reads (hpp x hx)).bind <|
      (listOf_listBytes (by decide) lf fun x hx => parseSetting_reads (hff x hx)).bind <|
      (listOf_ids (by decide) lv hov).bind <| (u8_one (by decide)).bind <| (u8_one (by decide)).last ?_
    simp [named_code, idIn_of lo up, idOrNone_of ex, mapM_idIn hss, mapM_some, mapM_idIn hov, requirementOf]
  | some q =>
    obtain ⟨qlo, qup⟩ := hq q rfl
    simp only [Record.bytes, List.append_assoc]
    refine (u8_code (by decide) _).bind <| (u8_one (by omega)).bind <| (u8_one (by omega)).bind <|
      (listOf_ids (by decide) ls hss).bind <|
      (listOf_listBytes (by decide) lp fun x hx => parseSetting_reads (hpp x hx)).bind <|
      (listOf_listBytes (by decide) lf fun x hx => parseSetting_reads (hff x hx)).bind <|
      (listOf_ids (by decide) lv hov).bind <| (u8_one (by omega)).bind <| (u8_code (by decide) _).last ?_
    simp [named_code, idIn_of lo up, idOrNone_of ex, mapM_idIn hss, mapM_some, mapM_idIn hov, requirementOf,
      idIn_of qlo qup, show q.1 ≠ 0 by omega]

theorem parseRoad_reads {r : RoadRec} (h : Record.ranged 4 (.road r)) :
    Reads parseRoad (Record.road r).bytes (some (.road r)) := by
  obtain ⟨i, lo, up⟩ := h
  simp only [Record.bytes, List.append_assoc]
  refine (u8_one (by omega)).bind <| (u8_one (by omega)).bind <| (flag_flagByte _).last ?_
  simp [idIn_of lo up, Nat.mod_eq_of_lt i]

theorem parseAction_reads {a : Action} (h : a.ranged) : Reads parseAction (actionBytes a) (some a) := by
  cases a with
  | requestRoute r =>
    obtain ⟨lo, up⟩ := h
    refine (u8_one (by decide)).bind <| (u16_two (by omega)).last ?_
    simp [idIn_of lo up]
  | dwell n r =>
    obtain ⟨n1, n2, lo, up⟩ := h
    simp only [actionBytes, List.append_assoc]
    refine (u8_one (by decide)).bind <| (u16_two (by omega)).bind <| (u16_two (by omega)).last ?_
    simp [idIn_of lo up, clamp_of n1 n2]
  | setSpeed g =>
    have le : g ≤ 63 := h
    refine (u8_one (by decide)).bind <| (u8_one (by omega)).last ?_
    simp [le]
  | endDemo => exact fun _ => rfl
  | notice => exact fun _ => rfl

theorem parseTrigger_reads {r : TriggerRec} (h : Record.ranged 5 (.trigger r)) :
    Reads parseTrigger (Record.trigger r).bytes (some (.trigger r)) := by
  obtain ⟨lo, up, hc, ha⟩ := h
  simp only [Record.bytes, List.append_assoc]
  refine (u8_one (by omega)).bind <| (u8_code (by decide) _).bind <| (setOf_setByte hc).bind <|
    (parseAction_reads ha).last ?_
  simp [idIn_of lo up, named_code]

/-- The three bytes of an absent route and grade. -/
theorem absent_run : ([0#8, 0#8, 0#8] : List Byte) = two 0 ++ one 0 := rfl

theorem parseDemo_reads {r : DemoRec} (h : Record.ranged 6 (.demo r)) :
    Reads parseDemo (Record.demo r).bytes (some (.demo r)) := by
  obtain ⟨kind, train, limit⟩ := r
  obtain ⟨t1, t2, l1, l2, hk⟩ := h
  dsimp only at t1 t2 l1 l2 hk
  cases kind with
  | run rt g =>
    obtain ⟨lo, up, g1, g2⟩ := hk
    simp only [Record.bytes, absent_bytes, List.append_assoc]
    refine (u8_one (by decide)).bind <| (u16_two (by omega)).bind <| (u16_two (by omega)).bind <| (u8_one (by omega)).bind <|
      (u8_one (by decide)).bind <| (u8_one (by decide)).bind <| (u16_two (by omega)).last ?_
    simp [idIn_of t1 t2, idIn_of lo up, clamp_of g1 g2, clamp_of l1 l2]
  | turn rd e =>
    obtain ⟨lo, up⟩ := hk
    simp only [Record.bytes, absent_run, List.append_assoc]
    refine (u8_one (by decide)).bind <| (u16_two (by omega)).bind <| (u16_two (by decide)).bind <|
      (u8_one (by decide)).bind <| (u8_one (by omega)).bind <| (u8_code (by decide) _).bind <| (u16_two (by omega)).last ?_
    simp [idIn_of t1 t2, idIn_of lo up, named_code, clamp_of l1 l2]

theorem parseButton_reads {r : ButtonRec} (h : Record.ranged 7 (.button r)) :
    Reads parseButton (Record.button r).bytes (some (.button r)) := by
  obtain ⟨i, m, lo, up⟩ := h
  simp only [Record.bytes, List.append_assoc]
  refine (u16_two (by omega)).bind <| (u16_two (by omega)).bind <| (u8_one (by omega)).last ?_
  simp [bitNo_of i, bitNo_of m, idIn_of lo up]

theorem parseBoard_reads {r : BoardRec} (h : Record.ranged 8 (.board r)) :
    Reads parseBoard (Record.board r).bytes (some (.board r)) := by
  obtain ⟨len, all⟩ := h
  refine (listOf_ids (by decide) len all).last ?_
  simp [mapM_idIn all]

theorem parseTurntable_reads {r : TurntableRec} (h : Record.ranged 9 (.turntable r)) :
    Reads parseTurntable (Record.turntable r).bytes (some (.turntable r)) := by
  obtain ⟨present, bridge, step, lock, sector, index, home, lockBit, cw, acw, release⟩ := r
  obtain ⟨b1, b2, s1, s2, l1, l2, hz, i, ho, lk, c, a, re⟩ := h
  dsimp only at b1 b2 s1 s2 l1 l2 hz i ho lk c a re
  have sectorByte : sector.getD 255 < 256 ∧ (if sector.getD 255 = 255 then none else some (sector.getD 255 % 48)) = sector := by
    cases sector with
    | none => exact ⟨by decide, rfl⟩
    | some z =>
      have lt : z < 48 := hz z rfl
      rw [Option.getD_some, if_neg (by omega), Nat.mod_eq_of_lt lt]
      exact ⟨by omega, rfl⟩
  have here : present ∈ [true, false] := by cases present <;> decide
  simp only [Record.bytes, opt1z, List.append_assoc]
  refine (u8_code (by decide) _).bind <| (u8_one (by omega)).bind <| (u8_one (by omega)).bind <| (u8_one (by omega)).bind <|
    (u8_one sectorByte.1).bind <| (u16_two (by omega)).bind <| (u16_two (by omega)).bind <| (u16_two (by omega)).bind <|
    (u16_two (by omega)).bind <| (u16_two (by omega)).bind <| (u16_two (by omega)).last ?_
  rw [sectorByte.2]
  simp [named_code here, idIn_of b1 b2, bitNo_of i, bitNo_of ho, bitNo_of lk, bitNo_of c, bitNo_of a, bitNo_of re,
    clamp_of s1 s2, clamp_of l1 l2]

theorem parseClass_reads {r : ClassRec} (h : Record.ranged 10 (.cls r)) :
    Reads parseClass (Record.cls r).bytes (some (.cls r)) := by
  obtain ⟨g1, g2, a1, a2, b1, b2⟩ := h
  simp only [Record.bytes, List.append_assoc]
  refine (u8_one (by omega)).bind <| (u8_one (by omega)).bind <| (u8_one (by omega)).last ?_
  rw [clamp_of g1 g2, clamp_of a1 a2, clamp_of b1 b2]

theorem parseStation_reads {r : StationRec} (h : Record.ranged 11 (.station r)) :
    Reads parseStation (Record.station r).bytes (some (.station r)) := by
  obtain ⟨fl, k1, k2⟩ := h
  refine (u8_one (by omega)).bind <| (u8_one (by omega)).last ?_
  rw [Nat.min_eq_left fl, clamp_of k1 k2]

theorem parseDevice_reads {r : DeviceRec} (h : Record.ranged 12 (.device r)) :
    Reads parseDevice (Record.device r).bytes (some (.device r)) := by
  obtain ⟨a1, a2, d1, d2, s1, s2, co, c1, c2, c3, i1, i2, i3, o1, o2, o3⟩ := h
  simp only [Record.bytes, List.append_assoc]
  refine (u8_one (by omega)).bind <| (u8_one (by omega)).bind <| (u8_one (by omega)).bind <| (u8_one (by omega)).bind <|
    (u8_code (by decide) _).bind <| (u8_one (by omega)).bind <| (u8_one (by omega)).bind <| (u8_one (by omega)).bind <|
    (u16_two (by omega)).bind <| (u16_two (by omega)).last ?_
  simp [named_code, consoleCode_of c1, consoleCode_of c2, consoleCode_of c3, clamp_of a1 a2, clamp_of d1 d2, clamp_of s1 s2,
    chainLength_of i1 i2 i3, chainLength_of o1 o2 o3]

theorem parseRecord_reads {kind : Nat} {r : Record} (h : r.ranged kind) :
    kind ≤ 12 ∧ Reads (parseRecord kind) r.bytes (some r) := by
  unfold Record.ranged at h
  split at h
  · exact ⟨by decide, parseSection_reads h⟩
  · exact ⟨by decide, parsePoint_reads h⟩
  · exact ⟨by decide, parseSignal_reads h⟩
  · exact ⟨by decide, parseRoute_reads h⟩
  · exact ⟨by decide, parseRoad_reads h⟩
  · exact ⟨by decide, parseTrigger_reads h⟩
  · exact ⟨by decide, parseDemo_reads h⟩
  · exact ⟨by decide, parseButton_reads h⟩
  · exact ⟨by decide, parseBoard_reads h⟩
  · exact ⟨by decide, parseTurntable_reads h⟩
  · exact ⟨by decide, parseClass_reads h⟩
  · exact ⟨by decide, parseStation_reads h⟩
  · exact ⟨by decide, parseDevice_reads h⟩
  · exact h.elim

/-- The parameters of a PLAN WRITE of a record: its kind, its key, 0 and its fields, whatever the fields say. -/
theorem parsePlanWrite_reads {kind key : Nat} {bs : List Byte} {o : Option Record} (hk : kind ≤ 12) (hy : key < 65536)
    (h : Reads (parseRecord kind) bs o) :
    Reads parsePlanWrite ([byte kind] ++ two key ++ [0#8] ++ bs) ⟨kind, key, some o⟩ := by
  have ok : Reads parsePlanWrite (one kind ++ (two key ++ (one 0 ++ bs))) ⟨kind, key, some o⟩ := by
    refine (u8_one (by omega)).bind <| (u16_two hy).bind <| (u8_one (by decide)).bind ?_
    rw [if_neg (by omega), if_pos rfl]
    exact h.last rfl
  simpa [one, byte] using ok

/-! ### Fields of given bytes -/

section
variable {α β : Type} {p : Parse β} {bs : List Byte} {r : β}

theorem reads_u8 {f : Nat → Parse β} {b : Byte} (h : Reads (f b.toNat) bs r) : Reads (u8 >>= f) (b :: bs) r :=
  fun l => h l

theorem reads_u16 {f : Nat → Parse β} {a b : Byte} (h : Reads (f (pair a b)) bs r) : Reads (u16 >>= f) (a :: b :: bs) r :=
  fun l => h l

theorem reads_empty {f : List α → Parse β} {m : Nat} {q : Parse α} (h : Reads (f []) bs r) :
    Reads (listOf m q >>= f) (0#8 :: bs) r :=
  fun l => h l

theorem reads_clear {f : Bool → Parse β} (h : Reads (f false) bs r) : Reads (flag >>= f) (0#8 :: bs) r :=
  fun l => h l

theorem reads_pure {a : β} (e : a = r) : Reads (pure a) [] r :=
  fun _ => e ▸ rfl

end

@[simp] theorem pair_zero (b : Byte) : pair 0#8 b = b.toNat := by
  simp [pair]

@[simp] theorem bitNo_byte (b : Byte) : bitNo b.toNat = some b.toNat := bitNo_of (by have := b.isLt; omega)

/-! ### The statement (R15, R16, R17) -/

/-- Settles O31: every decoder keeps to the ranges of its fields, reads back what was encoded from within them, and clamps
a number it reads. -/
theorem planRecordRoundTrip : Obligations.PlanRecordRoundTrip := by
  refine ⟨⟨fun params kind key r h => ?_, fun kind key r hy h => ?_⟩, fun a b c d e g h => ⟨?_, ?_, ?_, ?_, ?_, ?_⟩⟩
  · exact parsePlanWrite_yields _ _ _ (decodeAll_eq_some.1 h) r rfl
  · obtain ⟨hk, reads⟩ := parseRecord_reads h
    exact (parsePlanWrite_reads hk hy reads).decodeAll
  all_goals refine Reads.decodeAll ?_
  · refine reads_u16 <| reads_u16 <| reads_u8 <| reads_u8 <| reads_empty <| reads_empty <| reads_u8 <| reads_pure ?_
    simp [clamp, idOrNone, sectionKinds, named]
  · refine reads_u8 <| reads_u16 <| reads_u16 <| reads_u16 <| reads_u16 <| reads_u8 <| reads_u8 <| reads_u8 <|
      reads_pure ?_
    simp [clamp, idIn, bitNo]
  · exact reads_u8 <| reads_u8 <| reads_u8 <| reads_pure rfl
  · exact reads_u8 <| reads_u8 <| reads_pure rfl
  · exact reads_u8 <| reads_u8 <| reads_clear <| reads_pure rfl
  · exact reads_u8 <| reads_u8 <| reads_u8 <| reads_u8 <| reads_u8 <| reads_u8 <| reads_u8 <| reads_u8 <| reads_u16 <|
      reads_u16 <| reads_pure rfl

end Sys2Proof.Machine
end

section
/-! PROOFS. What a change of the plan tables touches, and what the end of an event does in SETUP (R15, R18, R22, R95,
R149). -/
namespace Sys2Proof.Machine

/-! ### The end of an event in SETUP -/

/-- In SETUP, with no turn ended, whatever is handed on finds nothing to do. -/
def State.Resting (s : State) : Prop := s.mc.mode = .setup ∧ s.due.turnEnds = []

/-- The signals, the outputs, the mode and the turns ended. -/
def State.display (s : State) : Tab Signal × Tab Bool × MC × List TurnEnd :=
  (s.iu.signals, s.fs.image, s.mc, s.due.turnEnds)

theorem State.Resting.of_display {s t : State} (h : s.Resting) (e : t.display = s.display) : t.Resting := by
  simp only [State.display, Prod.mk.injEq] at e
  obtain ⟨_, _, mc, ends⟩ := e
  exact ⟨mc ▸ h.1, ends ▸ h.2⟩

theorem State.Resting.working {s : State} (h : s.Resting) : s.working = false := by
  simp [State.working, h.1]

theorem recompute_display (s : State) (k : Nat) : (s.recompute k).display = s.display := by
  have join : ∀ u : State, (u.joinUrgent k).display = u.display := fun u => by
    unfold State.joinUrgent
    split <;> rfl
  have grant : ∀ (u : State) x g, (u.grant k x g).display = u.display := fun u x g => by
    unfold State.grant
    dsimp only
    split <;> exact join (u.putTrain k _)
  unfold State.recompute
  split
  · rfl
  · dsimp only
    split
    · exact grant _ _ _
    · rfl

theorem iuTakes_display {s : State} (h : s.Resting) : s.iuTakes.display = s.display := by
  unfold State.iuTakes
  rw [if_neg]
  · rfl
  · exact Bool.eq_false_iff.1 h.working

theorem awuTakes_display {s : State} (h : s.Resting) : s.awuTakes.display = s.display := by
  unfold State.awuTakes
  rw [h.2]
  dsimp only
  rw [attemptStart_idle _ (.inl (by show s.mc.mode ≠ .run; simp [h.1]))]
  rfl

theorem tcTakes_display {s : State} (h : s.Resting) : s.tcTakes.display = s.display := by
  have idle : ({ s with due := { s.due with arbitrate := false } } : State).free = false := by
    simp [State.free, State.working, h.1]
  unfold State.tcTakes
  rw [arbitrate_idle _ (.inl idle)]
  rfl

theorem settle_display (n : Nat) {s : State} (h : s.Resting) : (settle n s).display = s.display := by
  induction n generalizing s with
  | zero => rfl
  | succ n ih =>
    have step : ∀ {t : State}, t.display = s.display → (settle n t).display = s.display :=
      fun e => (ih (h.of_display e)).trans e
    unfold settle
    split
    · exact step (iuTakes_display h)
    · split
      · exact step (awuTakes_display h)
      · split
        · exact step (tcTakes_display h)
        · rfl

theorem settleSpeeds_display (n : Nat) {s : State} (h : s.Resting) : (settleSpeeds n s).display = s.display := by
  induction n generalizing s with
  | zero => rfl
  | succ n ih =>
    have once : s.handOn.recomputeAll.display = s.display :=
      (foldl_keeps State.display recompute_display _ _).trans (settle_display _ h)
    unfold settleSpeeds
    dsimp only
    split
    · exact once
    · exact (ih (h.of_display once)).trans once

theorem kickPort_fs (s : State) : s.kickPort.fs = s.fs := by
  unfold State.kickPort State.startOrder
  repeat' split
  all_goals rfl

/-- R93: in SETUP every signal's aspect is STOP. -/
theorem aspectOf_setup {s : State} (h : s.mc.mode = .setup) (k : Nat) : s.aspectOf k = .stop := by
  unfold State.aspectOf
  split
  · rfl
  · split
    · rfl
    · simp [State.meets, State.working, h]

/-! ### A signal that the plan does not have -/

theorem showAspect_signal_ne (s : State) {j k : Nat} (g : SignalRec) (a : Aspect) (h : j ≠ k) :
    (s.showAspect k g a).signal j = s.signal j := by
  unfold State.signal
  rw [(showAspect_signals s k g a).1, Tab.getD_putD_ne _ _ _ h]

theorem refreshAspects_signal (s : State) (k : Nat) (h : k ∉ s.plan.signals.keys) :
    s.refreshAspects.signal k = s.signal k := by
  refine List.foldlRecOn (motive := fun u : State => u.signal k = s.signal k) _ _ rfl fun u hu g hg => ?_
  have ne : k ≠ g.1 := fun e => h (e ▸ List.mem_map_of_mem hg)
  dsimp only
  split
  · exact hu
  · rw [showAspect_signal_ne _ _ _ ne, hu]

/-- R93, R95: a signal at STOP in SETUP is at STOP when the event has ended. -/
theorem finish_stop {s : State} (h : s.Resting) (w : s.iu.signals.Wf) (before : List Nat) {k : Nat}
    (stop : (s.signal k).aspect = .stop) : ((s.finish before).signal k).aspect = .stop := by
  by_cases known : ∃ g, (s.finish before).plan.signals.get? k = some g
  · obtain ⟨g, hg⟩ := known
    rw [finish_shown s w k g before hg]
    exact aspectOf_setup (by rw [(finish_inner s before).mc]; exact h.1) k
  · have absent : k ∉ (settleSpeeds Config.handoffBound s).plan.signals.keys := by
      have plan : (settleSpeeds Config.handoffBound s).plan = (s.finish before).plan := by
        unfold State.plan
        rw [(settleSpeeds_inner _ s).pm, (finish_inner s before).pm]
      rw [plan]
      exact fun m => known (get?_of_mem_keys _ _ m)
    have e := settleSpeeds_display Config.handoffBound h
    simp only [State.display, Prod.mk.injEq] at e
    have same : (s.finish before).signal k = s.signal k := by
      unfold State.finish
      unfold State.signal
      rw [(afterAspects _ before).1]
      exact (refreshAspects_signal _ k absent).trans (by unfold State.signal; rw [e.1])
    rw [same, stop]

/-! ### Outputs at 0 -/

/-- R27: an output bit that is 0, in an image in form. -/
structure State.Dark (s : State) (bit : Nat) : Prop where
  wf : s.fs.image.Wf
  off : s.out bit = false

section
variable {s t : State} {bit : Nat}

theorem State.Dark.of_image (h : s.Dark bit) (e : t.fs.image = s.fs.image) : t.Dark bit :=
  ⟨e ▸ h.wf, (show Tab.getD _ _ _ = _ by rw [e]; exact h.off)⟩

theorem State.Dark.setOut (h : s.Dark bit) (c : Nat) (v : Bool) (other : bit = c → v = false) : (s.setOut c v).Dark bit := by
  refine ⟨setOut_image_wf _ _ _ h.wf, ?_⟩
  rw [setOut_out _ _ _ _ h.wf]
  split
  · next e => exact other e
  · exact h.off

theorem State.Dark.setOut? (h : s.Dark bit) (c : Option Nat) (v : Bool) (other : bit ∉ c.toList) :
    (s.setOut? c v).Dark bit := by
  cases c with
  | none => exact h
  | some c => exact h.setOut c v fun e => absurd (by simp [e]) other

theorem State.Dark.foldl {α : Type} {f : State → α → State} {l : List α} (h : s.Dark bit)
    (step : ∀ (u : State), ∀ x ∈ l, u.Dark bit → (f u x).Dark bit) : (l.foldl f s).Dark bit :=
  List.foldlRecOn (motive := fun u : State => u.Dark bit) _ _ h fun u hu x hx => step u x hx hu

theorem State.Dark.showAspect (h : s.Dark bit) (k : Nat) {g : SignalRec} (a : Aspect) (other : bit ∉ g.lampBits) :
    (s.showAspect k g a).Dark bit := by
  simp only [SignalRec.lampBits, List.mem_cons, List.flatMap_cons, List.flatMap_nil, List.mem_append, List.append_nil,
    not_or] at other
  obtain ⟨stop, caution, second, clear, subsidiary⟩ := other
  rw [showAspect_eq]
  have start : (s.putSignal k ⟨a, lampsFor g.kind a⟩).Dark bit := h.of_image rfl
  exact ((((start.setOut _ _ fun e => absurd e stop).setOut? _ _ caution).setOut? _ _ second).setOut? _ _ clear).setOut?
    _ _ subsidiary

theorem State.Dark.clearOuts (h : s.Dark bit) (l : List Nat) : (s.clearOuts l).Dark bit :=
  h.foldl fun _ c _ hu => hu.setOut c false fun _ => rfl

/-- R15, R18: output bits set to 0 are 0. -/
theorem clearOuts_dark (w : s.fs.image.Wf) {l : List Nat} (h : bit ∈ l) : (s.clearOuts l).Dark bit := by
  induction l generalizing s with
  | nil => cases h
  | cons c l ih =>
    have w' := setOut_image_wf s c false w
    by_cases e : bit = c
    · refine State.Dark.clearOuts (s := s.setOut c false) ⟨w', ?_⟩ l
      rw [setOut_out _ _ _ _ w, if_pos e]
    · exact ih w' ((List.mem_cons.1 h).resolve_left e)

theorem State.Dark.stopSignals (h : s.Dark bit) (other : ∀ g ∈ s.plan.signals.rows, bit ∉ g.2.lampBits) :
    s.stopSignals.Dark bit :=
  h.foldl fun _ g hg hu => hu.showAspect g.1 _ (other g hg)

theorem State.Dark.refreshAspects (h : s.Dark bit) (other : ∀ g ∈ s.plan.signals.rows, bit ∉ g.2.lampBits) :
    s.refreshAspects.Dark bit :=
  h.foldl fun _ g hg hu => by
    dsimp only
    split
    · exact hu
    · exact hu.showAspect g.1 _ (other g hg)

theorem State.Dark.showLamp (h : s.Dark bit) (k : Nat) {b : ButtonRec} (l : Lamp) (other : b.lamp ≠ bit) :
    (s.showLamp k b l).Dark bit := by
  unfold State.showLamp
  refine State.Dark.setOut ?_ _ _ fun e => absurd e.symm other
  exact h.of_image rfl

theorem State.Dark.refreshLamps (h : s.Dark bit) (other : ∀ b ∈ s.plan.buttons.rows, b.2.lamp ≠ bit) :
    s.refreshLamps.Dark bit :=
  h.foldl fun u b hb hu => by
    dsimp only
    split
    · exact hu
    · exact hu.showLamp b.1 _ (other b hb)

/-- R95, R149: the end of an event in SETUP lights no bit that names no lamp of the plan. -/
theorem finish_dark (rest : s.Resting) (h : s.Dark bit) (before : List Nat)
    (signals : ∀ g ∈ s.plan.signals.rows, bit ∉ g.2.lampBits) (buttons : ∀ b ∈ s.plan.buttons.rows, b.2.lamp ≠ bit) :
    (s.finish before).Dark bit := by
  have e := settleSpeeds_display Config.handoffBound rest
  simp only [State.display, Prod.mk.injEq] at e
  have plan : (settleSpeeds Config.handoffBound s).plan = s.plan := congrArg PM.plan (settleSpeeds_inner _ s).pm
  have plan' : (settleSpeeds Config.handoffBound s).refreshAspects.plan = s.plan :=
    (congrArg PM.plan (refreshAspects_followUp _).pm).trans plan
  have one := (h.of_image e.2.1).refreshAspects (plan.symm ▸ signals)
  have two := one.refreshLamps (plan'.symm ▸ buttons)
  exact two.of_image (congrArg FS.image (kickPort_fs _))

end

end Sys2Proof.Machine
end

section
/-! PROOFS. What a change of the plan tables leaves: the frame of a change, a point's detection, and PLAN CLEAR and PLAN
LOAD (R15, R18, R22, R79). -/
namespace Sys2Proof.Machine

/-! ### The frame of a change of the tables -/

/-- R15, R18: a change of the plan tables reaches the tables, the points, the signals, the outputs, the lamps and views, the
TC and a retry trigger; nothing else. -/
def ChangesPlan (s t : State) : Prop :=
  t = { s with
    pm := t.pm, tc := t.tc, iu := { s.iu with points := t.iu.points, signals := t.iu.signals },
    fs := { s.fs with image := t.fs.image }, awu := { s.awu with lamps := t.awu.lamps, views := t.awu.views },
    due := { s.due with scan := t.due.scan } }

theorem ChangesPlan.refl (s : State) : ChangesPlan s s := rfl

theorem ChangesPlan.trans {s t u : State} (h : ChangesPlan s t) (k : ChangesPlan t u) : ChangesPlan s u := by
  unfold ChangesPlan at h k ⊢
  rw [h] at k
  exact k

theorem ChangesPlan.foldl {α : Type} {f : State → α → State} (h : ∀ s x, ChangesPlan s (f s x)) (l : List α) (s : State) :
    ChangesPlan s (l.foldl f s) := by
  induction l generalizing s with
  | nil => exact .refl s
  | cons x l ih => exact (h s x).trans (ih _)

theorem ShowsOnly.changesPlan {s t : State} (h : ShowsOnly s t) : ChangesPlan s t := by
  unfold ShowsOnly at h
  unfold ChangesPlan
  rw [h]

/-- What a change of the tables in SETUP and the end of its event leave alone. -/
structure PlanChangeFrame (s w : State) : Prop where
  routes : w.iu.routes = s.iu.routes
  marks : w.iu.marks = s.iu.marks
  stack : w.iu.stack = s.iu.stack
  mc : w.mc = s.mc
  clp : w.clp = s.clp
  tr : w.tr = { s.tr with trains := w.tr.trains }
  fs : w.fs = { s.fs with image := w.fs.image }
  queue : w.awu.queue = s.awu.queue
  running : w.awu.running = s.awu.running

theorem ChangesPlan.resting {s t : State} (h : ChangesPlan s t) (rest : s.Resting) : t.Resting := by
  unfold ChangesPlan at h
  rw [h]
  exact rest

theorem ChangesPlan.finished {s t w : State} (h : ChangesPlan s t) (k : FollowUp t w) : PlanChangeFrame s w := by
  have fs := k.fs
  have tr := k.tr
  have same := h
  unfold ChangesPlan at same
  rw [same] at fs tr
  have mc : t.mc = s.mc := by rw [same]
  have clp : t.clp = s.clp := by rw [same]
  have iu : t.iu = { s.iu with points := t.iu.points, signals := t.iu.signals } := congrArg State.iu same
  have awu : t.awu = { s.awu with lamps := t.awu.lamps, views := t.awu.views } := congrArg State.awu same
  refine ⟨?_, ?_, ?_, k.mc.trans mc, k.clp.trans clp, tr, fs, ?_, ?_⟩
  · rw [k.iu, iu]
  · rw [k.iu, iu]
  · rw [k.iu, iu]
  · rw [k.awu, awu]
  · rw [k.awu, awu]

/-! ### The detection of a point at rest (R79) -/

/-- R79: the state that a point's detection pair shows. -/
def State.shownState (s : State) (r : PointRec) : PointState :=
  match s.input r.normalDetect, s.input r.reverseDetect with
  | true, false => .normal
  | false, true => .reverse
  | _, _ => .undetected

/-- An UNDETECTED point with no throw and no demand. -/
structure Point.AtRest (x : Point) : Prop where
  state : x.state = .undetected
  throw : x.throw = none
  demand : x.demand = none

/-- R79: a point at rest takes the state its pair shows; a change is a point settle. -/
theorem detection_atRest {s : State} {p : Nat} {r : PointRec} (h : s.plan.points.get? p = some r)
    (rest : (s.point p).AtRest) :
    (s.shownState r = .undetected ∧ s.detection p = s) ∨
      s.detection p = (s.putPoint p { s.point p with state := s.shownState r }).wantScan := by
  obtain ⟨state, throw, demand⟩ := rest
  unfold State.detection State.detected State.shownState
  rw [h]
  dsimp only
  generalize s.input r.normalDetect = normal
  generalize s.input r.reverseDetect = reverse
  cases normal <;> cases reverse
  case false.false => simp [pointMove, state]
  case true.true => simp [pointMove, state]
  case true.false => simp [pointMove, state, loses, demand, PointState.inFlight, Pos.settled, throw]
  case false.true => simp [pointMove, state, loses, demand, PointState.inFlight, Pos.settled, throw]

/-- What the detection of a point at rest does. -/
structure Detects (p : Nat) (r : PointRec) (s t : State) : Prop where
  frame : ChangesPlan s t
  pm : t.pm = s.pm
  tc : t.tc = s.tc
  signals : t.iu.signals = s.iu.signals
  image : t.fs.image = s.fs.image
  wf : s.iu.points.Wf → t.iu.points.Wf
  self : s.iu.points.Wf → t.point p = { s.point p with state := s.shownState r }
  other : ∀ j, j ≠ p → t.point j = s.point j

theorem detection_detects {s : State} {p : Nat} {r : PointRec} (h : s.plan.points.get? p = some r)
    (rest : (s.point p).AtRest) : Detects p r s (s.detection p) := by
  rcases detection_atRest h rest with ⟨dark, e⟩ | e
  · rw [e]
    exact ⟨.refl s, rfl, rfl, rfl, rfl, id, fun _ => by rw [dark, ← rest.state], fun _ _ => rfl⟩
  · rw [e]
    exact ⟨rfl, rfl, rfl, rfl, rfl, fun w => putD_wf _ _ _ _ w, fun w => Tab.getD_putD_same _ _ _ _ w,
      fun _ ne => Tab.getD_putD_ne _ _ _ ne⟩

theorem ChangesPlan.shownState {s t : State} (h : ChangesPlan s t) (r : PointRec) : t.shownState r = s.shownState r := by
  unfold ChangesPlan at h
  rw [h]
  rfl

/-- What the detection of points at rest, one after another, does. -/
structure DetectsAll (l : List (Nat × PointRec)) (s t : State) : Prop where
  frame : ChangesPlan s t
  pm : t.pm = s.pm
  tc : t.tc = s.tc
  signals : t.iu.signals = s.iu.signals
  image : t.fs.image = s.fs.image
  points : ∀ k, t.point k = (rowsGet l k).elim (s.point k) fun r => { s.point k with state := s.shownState r }

theorem detections_detectAll {l : List (Nat × PointRec)} {s : State} (wf : s.iu.points.Wf)
    (distinct : (l.map Prod.fst).Pairwise (· < ·)) (known : ∀ r ∈ l, s.plan.points.get? r.1 = some r.2)
    (rest : ∀ r ∈ l, (s.point r.1).AtRest) : DetectsAll l s (l.foldl (fun s r => s.detection r.1) s) := by
  induction l generalizing s with
  | nil => exact ⟨.refl s, rfl, rfl, rfl, rfl, fun _ => rfl⟩
  | cons r l ih =>
    obtain ⟨first, later⟩ := List.pairwise_cons.1 distinct
    have d := detection_detects (known r (List.mem_cons_self ..)) (rest r (List.mem_cons_self ..))
    have ne : ∀ x ∈ l, x.1 ≠ r.1 := fun x hx => Nat.ne_of_gt (first x.1 (List.mem_map_of_mem hx))
    have all := ih (d.wf wf) later
      (fun x hx => by unfold State.plan; rw [d.pm]; exact known x (List.mem_cons_of_mem r hx))
      (fun x hx => by rw [d.other _ (ne x hx)]; exact rest x (List.mem_cons_of_mem r hx))
    refine ⟨d.frame.trans all.frame, all.pm.trans d.pm, all.tc.trans d.tc, all.signals.trans d.signals,
      all.image.trans d.image, fun k => (all.points k).trans ?_⟩
    by_cases e : r.1 = k
    · subst e
      have absent : rowsGet l r.1 = none := rowsGet_none_of_lt l r.1 fun x hx => first x.1 (List.mem_map_of_mem hx)
      rw [absent, Option.elim_none, d.self wf]
      simp [rowsGet]
    · simp only [rowsGet, if_neg e, d.other k (Ne.symm e), d.frame.shownState]

/-! ### PLAN CLEAR and PLAN LOAD (R18, R22) -/

/-- R18, R22: the tables replaced, before the signals and the points of the new plan are seen to. -/
def State.withPlan (s : State) (p : Plan) : State :=
  let s := (s.clearOuts s.plan.outputs).putPlan p
  ({ s with iu := { s.iu with points := ⟨[]⟩, signals := ⟨[]⟩ },
            awu := { s.awu with lamps := ⟨[]⟩, views := ⟨[]⟩ } } : State).setTc TC.unindexed

theorem replacePlan_eq (s : State) (p : Plan) :
    s.replacePlan p = p.points.rows.foldl (fun s r => s.detection r.1) (s.withPlan p).stopSignals := rfl

theorem withPlan_changesPlan (s : State) (p : Plan) : ChangesPlan s (s.withPlan p) := by
  have outs := (clearOuts_showsOnly s s.plan.outputs).changesPlan
  exact outs.trans rfl

/-- What the replacing of the tables leaves: every point at what its pair shows and every signal at rest. -/
structure Replaced (s : State) (p : Plan) (t : State) : Prop where
  frame : ChangesPlan s t
  pm : t.pm = { s.pm with plan := p, valid := false }
  tc : t.tc = {}
  signals : t.iu.signals = ⟨[]⟩
  points : ∀ k, t.point k = (p.points.get? k).elim {} fun r => { state := s.shownState r }
  dark : s.fs.image.Wf → ∀ bit ∈ s.plan.outputs, (∀ g ∈ p.signals.rows, bit ∉ g.2.lampBits) → t.Dark bit

theorem replacePlan_replaced (s : State) {p : Plan} (form : PlanForm p) : Replaced s p (s.replacePlan p) := by
  have shows := stopSignals_showsOnly (s.withPlan p)
  have base := (withPlan_changesPlan s p).trans shows.changesPlan
  have nil := stopSignals_signals_nil (s.withPlan p) rfl
  have pm : (s.withPlan p).pm = { s.pm with plan := p, valid := false } := by
    show ({ (s.clearOuts s.plan.outputs).pm with plan := p, valid := false } : PM) = _
    rw [clearOuts_showsOnly s s.plan.outputs]
  rw [ShowsOnly] at shows
  have pm' : (s.withPlan p).stopSignals.pm = { s.pm with plan := p, valid := false } := by rw [shows]; exact pm
  have points : (s.withPlan p).stopSignals.iu.points = ⟨[]⟩ := by rw [shows]; rfl
  have rests : ∀ k, (s.withPlan p).stopSignals.point k = {} := fun k => by unfold State.point; rw [points]; rfl
  have all := detections_detectAll (l := p.points.rows) (s := (s.withPlan p).stopSignals) (points ▸ Tab.empty_wf) form.points
    (fun r hr => by unfold State.plan; rw [pm']; exact get?_of_mem _ _ _ hr form.points)
    (fun r _ => by rw [rests]; exact ⟨rfl, rfl, rfl⟩)
  rw [replacePlan_eq]
  refine ⟨base.trans all.frame, all.pm.trans pm', all.tc.trans (by rw [shows]; rfl), all.signals.trans nil, fun k => ?_,
    fun w bit mem other => ?_⟩
  · rw [all.points, rests]
    simp only [base.shownState]
    rfl
  · have off : (s.withPlan p).Dark bit := (clearOuts_dark w mem).of_image rfl
    exact (off.stopSignals (by unfold State.plan; rw [pm]; exact other)).of_image all.image

/-- R18, R22: the tests of PLAN CLEAR and PLAN LOAD, and the plan that replaces the tables. -/
def replaceTables (s : State) (station : Nat) (p : Option Plan) : State × Answer :=
  if station ≠ 0 then (s, .refused .notPermitted [])
  else if s.mc.mode ≠ .setup then (s, .refused .badMode [])
  else if s.pm.saving then (s, .refused .busy [])
  else
    match p with
    | none => (s, .refused .noSuch [])
    | some p => (s.replacePlan p, .done [])

theorem ownPlanLoad_eq (s : State) (st : Nat) (u : Unit) : ownPlanLoad s st u = replaceTables s st s.pm.store := by
  unfold ownPlanLoad replaceTables
  cases s.pm.store <;> rfl

theorem exec_replaceTables {f : Frame} {st code : Nat} {s : State} {c : Instr} {p : Option Plan}
    (which : (c = .planClear f ∧ code = 0x10 ∧ p = some {}) ∨ (c = .planLoad f ∧ code = 0x15 ∧ p = s.pm.store))
    (h : Carries f code st []) (k : s.listening) :
    exec c s = .next (State.answered code st (State.finish s.ss.urgent) (replaceTables (s.openFrame f) st p)) := by
  rcases which with ⟨rfl, rfl, rfl⟩ | ⟨rfl, rfl, rfl⟩
  · exact congrArg Host.Outcome.next (takeFrame_answered s _ st f [] noParams ownPlanClear _ h k () rfl)
  · refine congrArg Host.Outcome.next ((takeFrame_answered s _ st f [] noParams ownPlanLoad _ h k () rfl).trans ?_)
    rw [ownPlanLoad_eq]
    rfl

/-- R18: the output bits that the records of a plan name are the plan's outputs. -/
theorem mem_outputs {p : Plan} {bit : Nat}
    (h : (∃ r ∈ p.points.rows, bit = r.2.normalDrive ∨ bit = r.2.reverseDrive) ∨
      (∃ r ∈ p.signals.rows, bit ∈ r.2.lampBits) ∨ (∃ r ∈ p.buttons.rows, bit = r.2.lamp) ∨
      (p.turntable.present = true ∧ bit ∈ [p.turntable.cwBit, p.turntable.acwBit, p.turntable.releaseBit])) :
    bit ∈ p.outputs := by
  simp only [Plan.outputs, List.mem_append, List.mem_flatMap]
  rcases h with ⟨r, hr, e⟩ | ⟨r, hr, e⟩ | ⟨r, hr, e⟩ | ⟨present, e⟩
  · exact .inl (.inl (.inl ⟨r, hr, by simpa [Record.outputs] using e⟩))
  · exact .inl (.inl (.inr ⟨r, hr, e⟩))
  · exact .inl (.inr ⟨r, hr, by simpa [Record.outputs] using e⟩)
  · exact .inr (by simpa [Record.outputs, present] using e)

/-- Settles O36: after the tests the tables are replaced, and in SETUP the end of the event changes neither the aspects nor
any bit that is no lamp of the new plan. -/
theorem planClearAndLoad : Obligations.PlanClearAndLoad := by
  intro f st s c code p which h k
  rw [exec_replaceTables which h k]
  have refused : ∀ r : Reason, replaceTables (s.openFrame f) st p = (s.openFrame f, .refused r []) →
      Host.Outcome.next (State.answered code st (State.finish s.ss.urgent) (replaceTables (s.openFrame f) st p)) =
        (Host.Outcome.next (s.replied f code (.refused r [])) : Host.Outcome State Fault Refusal) := fun r e => by
    rw [e, answered_refused code st _ f _ r [] h.sender]
    rfl
  refine ⟨fun cab => refused _ ?_, fun sup mode => refused _ ?_, fun sup mode busy => refused _ ?_,
    fun sup mode idle => ⟨fun absent => refused _ ?_, fun new e form ends => ?_⟩⟩
  · simp [replaceTables, cab]
  · simp [replaceTables, sup, mode]
  · simp [replaceTables, sup, mode, busy]
  · simp [replaceTables, sup, mode, idle, absent]
  · have done : replaceTables (s.openFrame f) st p = ((s.openFrame f).replacePlan new, .done []) := by
      simp [replaceTables, sup, mode, idle, e]
    have u := replacePlan_replaced (s.openFrame f) form
    have rest : ((s.openFrame f).replacePlan new).Resting := u.frame.resting ⟨mode, ends⟩
    have after := finish_followUp_idle _ rest.working rest.2 s.ss.urgent
    have frame := u.frame.finished after
    have plan : ((s.openFrame f).replacePlan new).plan = new := congrArg PM.plan u.pm
    rw [done, answered_done code st _ f _ [] h.sender]
    refine ⟨_, rfl, ?_, fun j => ?_, fun j g _ => ?_, after.tc.trans u.tc, frame.routes, frame.marks, frame.stack, frame.mc,
      frame.clp, frame.tr, frame.fs, frame.queue, frame.running, fun w bit named signals buttons => ?_⟩
    · rw [after.pm, u.pm, ← idle]
      rfl
    · have same : (((s.openFrame f).replacePlan new).finish s.ss.urgent).point j =
          ((s.openFrame f).replacePlan new).point j := by
        unfold State.point
        rw [after.iu]
      rw [same, u.points]
      cases new.points.get? j <;> rfl
    · refine finish_stop rest (u.signals ▸ Tab.empty_wf) _ ?_
      unfold State.signal
      rw [u.signals]
      rfl
    · exact (finish_dark rest (u.dark w bit (mem_outputs named) signals) _ (plan.symm ▸ signals) (plan.symm ▸ buttons)).off

end Sys2Proof.Machine
end

section
/-! PROOFS. PLAN WRITE: its tests, the record it stores or removes, and what that leaves (R14, R15, R173). -/
namespace Sys2Proof.Machine

/-! ### The record at a key (R1, R15) -/

/-- R15: the plan after a record is written at a key, or removed. -/
def Plan.rewrite (p : Plan) (kind key : Nat) (new : Option Record) : Plan :=
  match new with
  | some r => p.store key r
  | none => p.remove kind key

theorem ClassTable.at_put (t : ClassTable) {key key' : Nat} (r : ClassRec) (h : key ≤ 5) (h' : key' ≤ 5) :
    (t.put key r).at key' = if key' = key then some r else t.at key' := by
  interval_cases key <;> interval_cases key' <;> rfl

theorem Plan.lookup_store_same {p : Plan} {kind key : Nat} {r : Record} (form : PlanForm p) (h : r.ranged kind)
    (k : keyInRange kind key = true) : (p.store key r).lookup kind key = some r := by
  unfold Record.ranged at h
  split at h
  case h_10 => rfl
  case h_11 =>
    have le : key ≤ 5 := of_decide_eq_true k
    simp [store, lookup, ClassTable.at_put _ _ le le]
  case h_12 => simp [store, lookup, station, Tab.getD_putD_same _ _ _ _ form.stations]
  case h_13 => rfl
  case h_14 => exact h.elim
  all_goals simp [store, lookup]

/-- R173: the number of a record's kind. -/
def Record.kindNo : Record → Nat
  | .sect _ => 0
  | .point _ => 1
  | .signal _ => 2
  | .route _ => 3
  | .road _ => 4
  | .trigger _ => 5
  | .demo _ => 6
  | .button _ => 7
  | .board _ => 8
  | .turntable _ => 9
  | .cls _ => 10
  | .station _ => 11
  | .device _ => 12

theorem kindNo_of_ranged {kind : Nat} {r : Record} (h : r.ranged kind) : r.kindNo = kind := by
  unfold Record.ranged at h
  split at h
  case h_14 => exact h.elim
  all_goals rfl

/-- R15: a record written leaves the other records of its kind. -/
theorem Plan.lookup_store_ne_key {p : Plan} {kind key key' : Nat} {r : Record} (h : r.ranged kind)
    (k : keyInRange kind key = true) (k' : keyInRange kind key' = true) (ne : key' ≠ key) :
    (p.store key r).lookup kind key' = p.lookup kind key' := by
  unfold Record.ranged at h
  split at h
  case h_10 => exact absurd ((of_decide_eq_true k').trans (of_decide_eq_true k).symm) ne
  case h_11 =>
    have le : key ≤ 5 := of_decide_eq_true k
    have le' : key' ≤ 5 := of_decide_eq_true k'
    simp [store, lookup, ClassTable.at_put _ _ le le', ne]
  case h_12 => simp [store, lookup, station, Tab.getD_putD_ne _ _ _ ne]
  case h_13 => exact absurd ((of_decide_eq_true k').trans (of_decide_eq_true k).symm) ne
  case h_14 => exact h.elim
  all_goals simp [store, lookup, Tab.get?_put_ne _ _ ne]

/-- R15: a record written leaves the records of the other kinds: each kind is looked up in a table of its own. -/
theorem Plan.lookup_store_ne_kind {p : Plan} {key kind' key' : Nat} {r : Record} (ne : kind' ≠ r.kindNo) :
    (p.store key r).lookup kind' key' = p.lookup kind' key' := by
  unfold lookup
  split
  case h_1 => cases r with | sect => exact absurd rfl ne | _ => rfl
  case h_2 => cases r with | point => exact absurd rfl ne | _ => rfl
  case h_3 => cases r with | signal => exact absurd rfl ne | _ => rfl
  case h_4 => cases r with | route => exact absurd rfl ne | _ => rfl
  case h_5 => cases r with | road => exact absurd rfl ne | _ => rfl
  case h_6 => cases r with | trigger => exact absurd rfl ne | _ => rfl
  case h_7 => cases r with | demo => exact absurd rfl ne | _ => rfl
  case h_8 => cases r with | button => exact absurd rfl ne | _ => rfl
  case h_9 => cases r with | board => exact absurd rfl ne | _ => rfl
  case h_10 => cases r with | turntable => exact absurd rfl ne | _ => rfl
  case h_11 => cases r with | cls => exact absurd rfl ne | _ => rfl
  case h_12 => cases r with | station => exact absurd rfl ne | _ => rfl
  case h_13 => cases r with | device => exact absurd rfl ne | _ => rfl
  case h_14 => rfl

theorem Plan.lookup_remove_same {p : Plan} {kind key : Nat} (form : PlanForm p) (h : kind ≤ 8) :
    (p.remove kind key).lookup kind key = none := by
  interval_cases kind
  · exact Option.map_eq_none_iff.2 (Tab.get?_erase_same _ _ form.sections)
  · exact Option.map_eq_none_iff.2 (Tab.get?_erase_same _ _ form.points)
  · exact Option.map_eq_none_iff.2 (Tab.get?_erase_same _ _ form.signals)
  · exact Option.map_eq_none_iff.2 (Tab.get?_erase_same _ _ form.routes)
  · exact Option.map_eq_none_iff.2 (Tab.get?_erase_same _ _ form.roads)
  · exact Option.map_eq_none_iff.2 (Tab.get?_erase_same _ _ form.triggers)
  · exact Option.map_eq_none_iff.2 (Tab.get?_erase_same _ _ form.demos)
  · exact Option.map_eq_none_iff.2 (Tab.get?_erase_same _ _ form.buttons)
  · exact Option.map_eq_none_iff.2 (Tab.get?_erase_same _ _ form.boards)

/-- R15: a removal leaves every other record. -/
theorem Plan.lookup_remove_ne {p : Plan} {kind key kind' key' : Nat} (ne : ¬(kind' = kind ∧ key' = key)) :
    (p.remove kind key).lookup kind' key' = p.lookup kind' key' := by
  by_cases same : kind' = kind
  · subst same
    have other : key' ≠ key := fun e => ne ⟨rfl, e⟩
    clear ne
    unfold remove
    split
    case h_10 => rfl
    all_goals simp [lookup, Tab.get?_erase_ne _ other]
  · clear ne
    unfold remove
    split
    case h_10 => rfl
    all_goals
      unfold lookup
      split
      any_goals rfl
      exact absurd rfl same

theorem Plan.lookup_rewrite_same {p : Plan} {kind key : Nat} {new : Option Record} (form : PlanForm p)
    (h : ∀ r, new = some r → r.ranged kind) (k : keyInRange kind key = true) (small : new = none → kind ≤ 8) :
    (p.rewrite kind key new).lookup kind key = new := by
  cases new with
  | none => exact lookup_remove_same form (small rfl)
  | some r => exact lookup_store_same form (h r rfl) k

theorem Plan.lookup_rewrite_ne {p : Plan} {kind key kind' key' : Nat} {new : Option Record}
    (h : ∀ r, new = some r → r.ranged kind) (k : keyInRange kind key = true) (k' : keyInRange kind' key' = true)
    (ne : ¬(kind' = kind ∧ key' = key)) : (p.rewrite kind key new).lookup kind' key' = p.lookup kind' key' := by
  cases new with
  | none => exact lookup_remove_ne ne
  | some r =>
    by_cases same : kind' = kind
    · subst same
      exact lookup_store_ne_key (h r rfl) k k' fun e => ne ⟨rfl, e⟩
    · exact lookup_store_ne_kind (kindNo_of_ranged (h r rfl) ▸ same)

end Sys2Proof.Machine
end

section
/-! PROOFS. What a written or removed record leaves in the IU, the TC and the outputs, and PLAN WRITE (R14, R15, R173). -/
namespace Sys2Proof.Machine

/-! ### A point set back (R15, R77) -/

/-- R15, R79: the state a point takes when its record is written or removed. -/
def State.newPointState (s : State) : Option Record → PointState
  | some (.point r) => s.shownState r
  | _ => .undetected

theorem stopPulse_showsOnly (s : State) (key : Nat) (old : Option Record) : ShowsOnly s (s.stopPulse key old) := by
  unfold State.stopPulse
  split
  · exact setOut_showsOnly _ _ _
  · exact .refl s

theorem stopPulse_iu (s : State) (key : Nat) (old : Option Record) : (s.stopPulse key old).iu = s.iu := by
  unfold State.stopPulse
  split <;> rfl

theorem State.Dark.stopPulse {s : State} {bit : Nat} (h : s.Dark bit) (key : Nat) (old : Option Record) :
    (s.stopPulse key old).Dark bit := by
  unfold State.stopPulse
  split
  · exact h.setOut _ false fun _ => rfl
  · exact h

/-- What the IU, the TC and the AWU do with a record written or removed at a key. -/
structure RecordChanged (kind key : Nat) (new : Option Record) (s t : State) : Prop where
  frame : ChangesPlan s t
  pm : t.pm = s.pm
  tc : t.tc = if kind = 9 then {} else s.tc
  points : kind ≠ 1 → t.iu.points = s.iu.points
  others : ∀ j, (kind = 1 → j ≠ key) → t.point j = s.point j
  point : kind = 1 → ∃ x, t.point key = { pulse := x, state := s.newPointState new }
  wf : t.iu.points.Wf
  signals : t.iu.signals.Wf
  stop : kind = 2 → (t.signal key).aspect = .stop
  dark : ∀ bit, s.Dark bit → (∀ r, new = some r → bit ∉ r.outputs) → t.Dark bit

section
variable {s : State} {key : Nat} (old new : Option Record)

/-- R15: a point whose record is written or removed is set back. -/
theorem resetPoint_changed (wp : s.iu.points.Wf) (ws : s.iu.signals.Wf) (keep : Bool) :
    RecordChanged 1 key none s ((if keep then s else s.stopPulse key old).resetPoint key keep) := by
  have shows : ShowsOnly s (if keep then s else s.stopPulse key old) := by
    split
    · exact .refl s
    · exact stopPulse_showsOnly s key old
  have iu : (if keep then s else s.stopPulse key old).iu = s.iu := by
    split
    · rfl
    · exact stopPulse_iu s key old
  have dark : ∀ bit, s.Dark bit → (if keep then s else s.stopPulse key old).Dark bit := fun bit h => by
    split
    · exact h
    · exact h.stopPulse key old
  generalize (if keep then s else s.stopPulse key old) = t at shows iu dark
  refine ⟨shows.changesPlan.trans rfl, ?_, ?_, fun ne => absurd rfl ne, fun j ne => ?_, fun _ => ⟨if keep then (t.point key).pulse else none, ?_⟩, ?_, ?_,
    fun e => absurd e (by decide), fun bit h _ => (dark bit h).of_image rfl⟩
  · show t.pm = s.pm
    rw [shows]
  · show t.tc = s.tc
    rw [shows]
  · refine (Tab.getD_putD_ne _ _ _ (ne rfl)).trans ?_
    rw [iu]
    rfl
  · exact Tab.getD_putD_same _ _ _ _ (iu ▸ wp)
  · exact putD_wf _ _ _ _ (iu ▸ wp)
  · show t.iu.signals.Wf
    rw [iu]
    exact ws

/-- R15, R79: a point set back takes what its pair shows under its new record. -/
theorem RecordChanged.detected {t : State} (back : RecordChanged 1 key none s t) {x : PointRec}
    (hx : s.plan.points.get? key = some x) : RecordChanged 1 key (some (.point x)) s (t.detection key) := by
  obtain ⟨pulse, at_rest⟩ := back.point rfl
  have rest : (t.point key).AtRest := by
    rw [at_rest]
    exact ⟨rfl, rfl, rfl⟩
  have d := detection_detects (by unfold State.plan; rw [back.pm]; exact hx) rest
  refine ⟨back.frame.trans d.frame, d.pm.trans back.pm, d.tc.trans back.tc, fun ne => absurd rfl ne,
    fun j ne => (d.other j (ne rfl)).trans (back.others j ne), fun _ => ⟨pulse, ?_⟩, d.wf back.wf, d.signals ▸ back.signals,
    fun e => absurd e (by decide), fun bit h _ => (back.dark bit h fun _ e => nomatch e).of_image d.image⟩
  refine (d.self back.wf).trans ?_
  rw [at_rest, back.frame.shownState]
  rfl

theorem planChanged_point (wp : s.iu.points.Wf) (ws : s.iu.signals.Wf)
    (known : ∀ r, new = some r → ∃ x, r = .point x ∧ s.plan.points.get? key = some x) :
    RecordChanged 1 key new s (s.planChanged 1 key old new) := by
  have back := resetPoint_changed (key := key) old wp ws (s.keepsPulse key old new)
  cases new with
  | none => exact back
  | some r =>
    obtain ⟨x, rfl, hx⟩ := known r rfl
    exact back.detected hx

theorem planChanged_signal (wp : s.iu.points.Wf) (ws : s.iu.signals.Wf) :
    RecordChanged 2 key new s (s.planChanged 2 key old new) := by
  have erased : RecordChanged 2 key new s { s with iu := { s.iu with signals := s.iu.signals.erase key } } := by
    refine ⟨rfl, rfl, rfl, fun _ => rfl, fun _ _ => rfl, fun e => absurd e (by decide), wp, Tab.erase_wf _ _ ws,
      fun _ => ?_, fun bit h _ => h.of_image rfl⟩
    have absent : rowsGet (s.iu.signals.erase key).rows key = none := Tab.get?_erase_same _ _ ws
    show (Tab.getD {} (s.iu.signals.erase key) key).aspect = .stop
    unfold Tab.getD
    rw [absent]
    rfl
  rcases new with _ | r
  · exact erased
  · cases r with
    | signal g =>
      show RecordChanged 2 key _ s (s.showAspect key g .stop)
      obtain ⟨signals, _⟩ := showAspect_signals s key g .stop
      have shows := showAspect_showsOnly s key g .stop
      have points : (s.showAspect key g .stop).iu.points = s.iu.points := by rw [shows]
      refine ⟨shows.changesPlan, by rw [shows], by rw [shows]; rfl, fun _ => points, fun j _ => ?_,
        fun e => absurd e (by decide), points ▸ wp, signals ▸ putD_wf _ _ _ _ ws, fun _ => ?_,
        fun bit h other => h.showAspect key .stop (other _ rfl)⟩
      · unfold State.point
        rw [points]
      · unfold State.signal
        rw [signals, Tab.getD_putD_same _ _ _ _ ws]
    | _ => exact erased

theorem planChanged_changed {kind : Nat} (wp : s.iu.points.Wf) (ws : s.iu.signals.Wf)
    (known : kind = 1 → ∀ r, new = some r → ∃ x, r = .point x ∧ s.plan.points.get? key = some x) :
    RecordChanged kind key new s (s.planChanged kind key old new) := by
  have plain : ∀ {k : Nat} {t : State}, k ≠ 1 → k ≠ 2 → ChangesPlan s t → t.pm = s.pm →
      t.tc = (if k = 9 then {} else s.tc) → t.iu = s.iu → t.fs.image = s.fs.image → RecordChanged k key new s t :=
    fun n1 n2 frame pm tc iu image => ⟨frame, pm, tc, fun _ => by rw [iu], fun j _ => by unfold State.point; rw [iu],
      fun e => absurd e n1, by rw [iu]; exact wp,
      by rw [iu]; exact ws, fun e => absurd e n2, fun bit h _ => h.of_image image⟩
  by_cases point : kind = 1
  · subst point
    exact planChanged_point old new wp ws (known rfl)
  by_cases signal : kind = 2
  · subst signal
    exact planChanged_signal old new wp ws
  unfold State.planChanged
  split
  case h_1 => exact absurd rfl point
  case h_2 => exact absurd rfl signal
  case h_3 => exact plain point signal rfl rfl rfl rfl rfl
  case h_4 => split <;> exact plain point signal rfl rfl rfl rfl rfl
  case h_5 => exact plain point signal rfl rfl rfl rfl rfl
  case h_6 _ _ _ _ no => exact plain point signal rfl rfl (if_neg no).symm rfl rfl

end

/-! ### A completed PLAN WRITE (R15) -/

/-- R15: a record written at a key, or removed. -/
def State.rewriteRecord (s : State) (kind key : Nat) (new : Option Record) : State :=
  ((s.dropOutputs (s.plan.lookup kind key) new).putPlan (s.plan.rewrite kind key new)).planChanged kind key
    (s.plan.lookup kind key) new

theorem writeRecord_eq (s : State) (kind key : Nat) (r : Record) :
    s.writeRecord kind key r = s.rewriteRecord kind key (some r) := rfl

theorem removeRecord_eq (s : State) (kind key : Nat) : s.removeRecord kind key = s.rewriteRecord kind key none := rfl

/-- R15: an output bit that only the old record names is 0 once the record is rewritten. -/
theorem dropOutputs_dark {s : State} (w : s.fs.image.Wf) {old : Record} {new : Option Record} {bit : Nat}
    (named : bit ∈ old.outputs) (other : ∀ r, new = some r → bit ∉ r.outputs) :
    (s.dropOutputs (some old) new).Dark bit := by
  refine clearOuts_dark w (List.mem_filter.2 ⟨named, ?_⟩)
  cases new with
  | none => rfl
  | some r => simpa using other r rfl

/-- What a completed PLAN WRITE leaves, before the end of its event. -/
structure Rewritten (kind key : Nat) (new : Option Record) (s t : State) : Prop where
  frame : ChangesPlan s t
  pm : t.pm = { s.pm with plan := s.plan.rewrite kind key new, valid := false }
  tc : t.tc = if kind = 9 then {} else s.tc
  points : kind ≠ 1 → t.iu.points = s.iu.points
  others : ∀ j, (kind = 1 → j ≠ key) → t.point j = s.point j
  point : kind = 1 → ∃ x, t.point key = { pulse := x, state := s.newPointState new }
  signals : t.iu.signals.Wf
  stop : kind = 2 → (t.signal key).aspect = .stop
  dark : s.fs.image.Wf → ∀ old bit, s.plan.lookup kind key = some old → bit ∈ old.outputs →
    (∀ r, new = some r → bit ∉ r.outputs) → t.Dark bit

theorem rewriteRecord_rewritten {s : State} {kind key : Nat} {new : Option Record} (form : PlanForm s.plan)
    (wp : s.iu.points.Wf) (ws : s.iu.signals.Wf) (h : ∀ r, new = some r → r.ranged kind)
    (k : keyInRange kind key = true) (small : new = none → kind ≤ 8) :
    Rewritten kind key new s (s.rewriteRecord kind key new) := by
  have shows : ShowsOnly s (s.dropOutputs (s.plan.lookup kind key) new) := clearOuts_showsOnly _ _
  have iu : (s.dropOutputs (s.plan.lookup kind key) new).iu = s.iu := 
    foldl_keeps (f := fun s b => s.setOut b false) State.iu (fun _ _ => rfl) _ s
  have pm : ((s.dropOutputs (s.plan.lookup kind key) new).putPlan (s.plan.rewrite kind key new)).pm =
      { s.pm with plan := s.plan.rewrite kind key new, valid := false } := by
    unfold State.putPlan
    rw [shows]
  have tc : (s.dropOutputs (s.plan.lookup kind key) new).tc = s.tc := by rw [shows]
  have dark : s.fs.image.Wf → ∀ old bit, s.plan.lookup kind key = some old → bit ∈ old.outputs →
      (∀ r, new = some r → bit ∉ r.outputs) → (s.dropOutputs (s.plan.lookup kind key) new).Dark bit :=
    fun w old bit e named other => by
      rw [e]
      exact dropOutputs_dark w named other
  have base : ChangesPlan s ((s.dropOutputs (s.plan.lookup kind key) new).putPlan (s.plan.rewrite kind key new)) :=
    shows.changesPlan.trans rfl
  have known : kind = 1 → ∀ r, new = some r → ∃ x, r = .point x ∧
      (s.plan.rewrite kind key new).points.get? key = some x := by
    rintro rfl r rfl
    have stored := Plan.lookup_rewrite_same form h k small
    obtain ⟨x, hx, rfl⟩ := Option.map_eq_some_iff.1 stored
    exact ⟨x, rfl, hx⟩
  have done := planChanged_changed (key := key) (s.plan.lookup kind key) new (kind := kind)
    (s := (s.dropOutputs (s.plan.lookup kind key) new).putPlan (s.plan.rewrite kind key new)) (iu ▸ wp) (iu ▸ ws)
    (fun e r hr => known e r hr)
  refine ⟨base.trans done.frame, done.pm.trans pm, done.tc.trans (tc ▸ rfl), fun ne => (done.points ne).trans ?_,
    fun j ne => (done.others j ne).trans ?_, fun e => ?_, done.signals, done.stop,
    fun w old bit e named other => done.dark bit ((dark w old bit e named other).of_image rfl) other⟩
  · exact congrArg IU.points iu
  · exact congrArg (fun x : IU => Tab.getD {} x.points j) iu
  · obtain ⟨x, hx⟩ := done.point e
    refine ⟨x, hx.trans ?_⟩
    have same : ((s.dropOutputs (s.plan.lookup kind key) new).putPlan (s.plan.rewrite kind key new)).newPointState new =
        s.newPointState new := by
      unfold State.newPointState
      split
      · exact base.shownState _
      · rfl
    rw [same]

/-! ### What a PLAN WRITE carries (R15 step 6, R173) -/

theorem decode_planWrite {kind key : Nat} {new : Option Record} {params : List Byte} (hk : kind ≤ 12) (hy : key < 65536)
    (e : params = [byte kind] ++ two key ++ (match new with | some r => 0#8 :: r.bytes | none => [1#8]))
    (h : ∀ r, new = some r → r.ranged kind) :
    decodeAll parsePlanWrite params = some ⟨kind, key, new.map some⟩ := by
  subst e
  cases new with
  | some r =>
    have reads := (parsePlanWrite_reads hk hy (parseRecord_reads (h r rfl)).2).decodeAll
    rw [List.append_assoc] at reads
    exact reads
  | none =>
    have reads : Reads parsePlanWrite (one kind ++ (two key ++ one 1)) ⟨kind, key, none⟩ := by
      refine (u8_one (by omega)).bind <| (u16_two hy).bind ?_
      rw [← List.append_nil (one 1)]
      refine (u8_one (by decide)).bind ?_
      rw [if_neg (by omega), if_neg (by decide), if_pos rfl]
      exact reads_pure rfl
    exact reads.decodeAll

/-- R15 step 6: a field outside its range or of a value that is none of its field's decodes to what the owner refuses. -/
theorem bad_field_reads {kind : Nat} {a b : Byte} {fields : List Byte} {bad : Prop} (is : bad)
    (h : (kind = 4 ∧ fields = [a, b, 0#8] ∧ (bad ↔ b.toNat = 0 ∨ 240 < b.toNat)) ∨
      (kind = 0 ∧ fields = [0#8, 9#8, 0#8, 9#8, 0#8, 9#8, 0#8, 0#8, a] ∧ (bad ↔ 8 < a.toNat)) ∨
      (kind = 0 ∧ fields = [0#8, 9#8, 0#8, 9#8, a, 9#8, 0#8, 0#8, 0#8] ∧ (bad ↔ 4 < a.toNat)) ∨
      (kind = 12 ∧ fields = [9#8, 9#8, 9#8, 9#8, 0#8, 0#8, a, 0#8, 0#8, 8#8, 0#8, 8#8] ∧ (bad ↔ 5 < a.toNat)) ∨
      (kind = 7 ∧ fields = [a, b, 0#8, 9#8, 9#8] ∧ (bad ↔ 511 < pair a b)) ∨
      (kind = 2 ∧ fields = [1#8, 9#8, 0#8, 0#8, 0#8, 9#8, a, b] ++ List.replicate 6 255#8 ∧ (bad ↔ pair a b ≠ 65535))) :
    Reads (parseRecord kind) fields none := by
  rcases h with ⟨rfl, rfl, e⟩ | ⟨rfl, rfl, e⟩ | ⟨rfl, rfl, e⟩ | ⟨rfl, rfl, e⟩ | ⟨rfl, rfl, e⟩ | ⟨rfl, rfl, e⟩
  · have out := e.1 is
    refine reads_u8 <| reads_u8 <| reads_clear <| reads_pure ?_
    simp [idIn, show ¬(1 ≤ b.toNat ∧ b.toNat ≤ 240) by omega]
  · have out := e.1 is
    refine reads_u16 <| reads_u16 <| reads_u8 <| reads_u8 <| reads_empty <| reads_empty <| reads_u8 <| reads_pure ?_
    simp [idOrNone, show ¬a.toNat ≤ 8 by omega]
  · have out := e.1 is
    refine reads_u16 <| reads_u16 <| reads_u8 <| reads_u8 <| reads_empty <| reads_empty <| reads_u8 <| reads_pure ?_
    simp [named, sectionKinds, show ¬a.toNat < 5 by omega]
  · have out := e.1 is
    refine reads_u8 <| reads_u8 <| reads_u8 <| reads_u8 <| reads_u8 <| reads_u8 <| reads_u8 <| reads_u8 <| reads_u16 <|
      reads_u16 <| reads_pure ?_
    simp [consoleCode, show ¬a.toNat ≤ 5 by omega]
  · have out := e.1 is
    refine reads_u16 <| reads_u16 <| reads_u8 <| reads_pure ?_
    simp [bitNo, show ¬pair a b ≤ 511 by omega]
  · have out := e.1 is
    refine reads_u8 <| reads_u8 <| reads_u8 <| reads_u8 <| reads_u16 <| reads_u16 <| reads_u16 <| reads_u16 <| reads_u16 <|
      reads_pure ?_
    by_cases le : pair a b ≤ 511
    · simp [named, mainShunts, dirs, idIn, idOrNone, bitNo, optBitNo, out, le]
    · simp [named, mainShunts, dirs, idIn, idOrNone, bitNo, optBitNo, out, le]

/-- R163, R173: a board with more than three sections cannot be decoded. -/
theorem long_board_undecodable (key : Nat) (n : Byte) (fields : List Byte) (h : 3 < n.toNat) :
    decodeAll parsePlanWrite ([8#8] ++ two key ++ [0#8, n] ++ fields) = none := by
  have list : listOf 3 u8 (n :: fields) = none := by
    show (if 3 < n.toNat then undecodable else many u8 n.toNat) fields = none
    rw [if_pos h]
    rfl
  have board : parseBoard (n :: fields) = none := by
    unfold parseBoard
    rw [parse_bind, list]
    rfl
  refine decodeAll_of_none ?_
  show (parseBoard (n :: fields)).bind _ = none
  rw [board]
  rfl

end Sys2Proof.Machine
end

section
/-! PROOFS. PLAN WRITE as a request (R15). -/
namespace Sys2Proof.Machine

theorem exec_planWrite (f : Frame) (s : State) :
    exec (.planWrite f) s = .next (s.takeRequest 0x11 f parsePlanWrite ownPlanWrite) := rfl

/-- R15: a PLAN WRITE whose owner refuses it changes nothing but its reply. -/
theorem planWrite_refused {f : Frame} {st : Nat} {s : State} {params : List Byte} {a : WriteAsk} {r : Reason}
    (h : Carries f 0x11 st params) (k : s.listening) (d : decodeAll parsePlanWrite params = some a)
    (o : ownPlanWrite (s.openFrame f) st a = (s.openFrame f, .refused r [])) :
    exec (.planWrite f) s = .next (s.replied f 0x11 (.refused r [])) :=
  congrArg Host.Outcome.next (takeRequest_refuses h k d o)

theorem ownPlanWrite_done {s : State} {kind key : Nat} {new : Option Record} (mode : s.mc.mode = .setup)
    (idle : s.pm.saving = false) (k : keyInRange kind key = true) (small : new = none → kind ≤ 8) :
    ownPlanWrite s 0 ⟨kind, key, new.map some⟩ = (s.rewriteRecord kind key new, .done []) := by
  cases new with
  | none =>
    have le := small rfl
    simp [ownPlanWrite, mode, idle, k, show ¬9 ≤ kind by omega, removeRecord_eq]
  | some r => simp [ownPlanWrite, mode, idle, k, writeRecord_eq]

theorem planWrite_done {f : Frame} {s : State} {params : List Byte} {kind key : Nat} {new : Option Record}
    (h : Carries f 0x11 0 params) (k : s.listening) (d : decodeAll parsePlanWrite params = some ⟨kind, key, new.map some⟩)
    (mode : s.mc.mode = .setup) (idle : s.pm.saving = false) (inRange : keyInRange kind key = true)
    (small : new = none → kind ≤ 8) :
    exec (.planWrite f) s =
      .next ((((s.openFrame f).rewriteRecord kind key new).finish s.ss.urgent).answeredWith f 0x11 (.done [])) := by
  rw [exec_planWrite]
  unfold State.takeRequest
  rw [takeFrame_answered s _ 0 f params _ _ _ h k _ d,
    ownPlanWrite_done (s := s.openFrame f) mode idle inRange small]
  exact congrArg Host.Outcome.next (answered_done _ 0 _ f _ [] h.sender)

/-- Settles O32: what a record's bytes decode to decides test 6; a completed write or removal rewrites one record, and in
SETUP the end of the event changes neither the aspects nor any bit that is no lamp of the plan. -/
theorem planWriteStoresOneRecord : Obligations.PlanWriteStoresOneRecord := by
  refine ⟨fun f st s params k h => ⟨fun d => ?_, fun kind key d sup mode idle => planWrite_refused h k d ?_⟩,
    fun kind a b fields bad hk is form key hy => ?_, fun key n fields _ long => long_board_undecodable key n fields long,
    fun f st s kind key new params k hy hk ranged e h => ?_⟩
  · exact congrArg Host.Outcome.next (takeFrame_undecodable s _ st f params _ _ _ h k d)
  · simp [ownPlanWrite, sup, mode, idle]
  · exact (parsePlanWrite_reads hk hy (bad_field_reads is form)).decodeAll
  have d := decode_planWrite hk hy e ranged
  refine ⟨fun cab => planWrite_refused h k d ?_, fun sup mode => planWrite_refused h k d ?_,
    fun sup mode busy => planWrite_refused h k d ?_, fun sup mode idle out => planWrite_refused h k d ?_,
    fun sup mode idle inRange small form wp ws ends => ?_⟩
  · simp [ownPlanWrite, cab]
  · simp [ownPlanWrite, sup, mode]
  · simp [ownPlanWrite, sup, mode, busy]
  · rcases out with key_out | ⟨rfl, nine⟩
    · simp [ownPlanWrite, sup, mode, idle, key_out]
    · simp [ownPlanWrite, sup, mode, idle, nine]
  · subst sup
    have u := rewriteRecord_rewritten (s := s.openFrame f) form wp ws ranged inRange small
    have rest : ((s.openFrame f).rewriteRecord kind key new).Resting := u.frame.resting ⟨mode, ends⟩
    have after := finish_followUp_idle _ rest.working rest.2 s.ss.urgent
    have frame := u.frame.finished after
    have plan : ((s.openFrame f).rewriteRecord kind key new).plan = s.plan.rewrite kind key new := congrArg PM.plan u.pm
    have pm : (((s.openFrame f).rewriteRecord kind key new).finish s.ss.urgent).pm =
        { s.pm with plan := s.plan.rewrite kind key new, valid := false } := after.pm.trans u.pm
    have plan' : (((s.openFrame f).rewriteRecord kind key new).finish s.ss.urgent).plan = s.plan.rewrite kind key new :=
      congrArg PM.plan pm
    have points : (((s.openFrame f).rewriteRecord kind key new).finish s.ss.urgent).iu.points =
        ((s.openFrame f).rewriteRecord kind key new).iu.points := by rw [after.iu]
    have point : ∀ j, (((s.openFrame f).rewriteRecord kind key new).finish s.ss.urgent).point j =
        ((s.openFrame f).rewriteRecord kind key new).point j := fun j => by unfold State.point; rw [points]
    refine ⟨_, planWrite_done h k d mode idle inRange small, ?_, fun kind' key' inRange' ne => ?_, by rw [pm], by rw [pm], by rw [pm]; exact idle,
      fun ne => points.trans (u.points ne), fun j ne => (point j).trans (u.others j ne), fun one => ?_,
      fun two => finish_stop rest u.signals _ (u.stop two), after.tc.trans u.tc, frame.routes, frame.marks, frame.stack,
      frame.mc, frame.clp, frame.tr, frame.fs, frame.queue, frame.running,
      fun w old bit stored named other signals buttons => ?_⟩
    · rw [plan']
      exact Plan.lookup_rewrite_same form ranged inRange small
    · rw [plan']
      exact Plan.lookup_rewrite_ne ranged inRange inRange' ne
    · obtain ⟨pulse, now⟩ := u.point one
      rw [point, now]
      refine ⟨rfl, rfl, rfl, rfl, ?_, ?_⟩
      · rintro rfl
        rfl
      · rintro r rfl
        rfl
    · exact (finish_dark rest (u.dark w old bit stored named other) _ (plan'.trans plan.symm ▸ signals)
        (plan'.trans plan.symm ▸ buttons)).off

end Sys2Proof.Machine
end

section
/-! PROOFS. CLEAR FAULT: its parameters, its tests in order, and the one flag it clears (R32, R74, R89). -/
namespace Sys2Proof.Machine

/-! ### A request whose owner does what it asks -/

/-- R163: a request that its owner has done is closed and answered DONE. -/
theorem takeRequest_done {α : Type} {s w : State} {code st : Nat} {f : Frame} {ps : List Byte} {p : Parse α}
    {owner : State → Nat → α → State × Answer} (h : Carries f code st ps) (k : s.listening) {a : α} {b : List Byte}
    (d : decodeAll p ps = some a) (o : owner (s.openFrame f) st a = (w, .done b)) :
    s.takeRequest code f p owner = (w.finish s.ss.urgent).answeredWith f code (.done b) := by
  unfold State.takeRequest
  rw [takeFrame_answered s code st f ps p owner _ h k a d, o]
  exact answered_done code st _ f w b h.sender

/-- R173: a subject of CLEAR FAULT that can be decoded: a point, a train, or the field fault flag with id 0. -/
theorem decode_clearFault {kind hi lo : Byte} (h : kind.toNat ≤ 1 ∨ (kind = 2#8 ∧ pair hi lo = 0)) :
    decodeAll parseClearFault [kind, hi, lo] = some (kind.toNat, pair hi lo) := by
  have within : ¬2 < kind.toNat := by
    rcases h with h | ⟨rfl, -⟩
    · omega
    · decide
  have whole : ¬(kind.toNat = 2 ∧ pair hi lo ≠ 0) := by
    rcases h with h | ⟨-, h⟩
    · omega
    · simp [h]
  rw [decodeAll_eq_some]
  unfold parseClearFault
  simp only [parse_bind, u8_cons, u16_cons, Option.bind_some, if_neg within, if_neg whole]
  rfl

/-! ### A point's fault flag (R89) -/

theorem putPoint_point {s : State} (w : s.iu.points.Wf) (p j : Nat) (x : Point) :
    (s.putPoint p x).point j = if j = p then x else s.point j := by
  split
  next same => subst same; exact Tab.getD_putD_same _ _ _ _ w
  next other => exact Tab.getD_putD_ne _ _ _ other

@[simp] theorem wantScan_point (s : State) (p : Nat) : s.wantScan.point p = s.point p := rfl

theorem clearPointFault_of_clear {s : State} {p : Nat} (r : PointRec) (h : (s.point p).fault = false) :
    s.clearPointFault p r = s := by
  simp [State.clearPointFault, h]

/-- R89: with its fault flag cleared a point takes the position that its pair shows, if it shows one. -/
def State.faultCleared (s : State) (x : Point) (r : PointRec) : Point :=
  { x with
    fault := false,
    state := match s.input r.normalDetect, s.input r.reverseDetect with
      | true, false => .normal
      | false, true => .reverse
      | _, _ => x.state }

theorem clearPointFault_of_set {s : State} {p : Nat} (r : PointRec) (h : (s.point p).fault = true) :
    s.clearPointFault p r = (s.putPoint p (s.faultCleared (s.point p) r)).wantScan := by
  simp only [State.clearPointFault, h, if_true, State.faultCleared, State.detected]
  cases s.input r.normalDetect <;> cases s.input r.reverseDetect <;> rfl

/-- R89: a point's cleared fault flag reaches the points and marks a retry scan. -/
theorem clearPointFault_frame (s : State) (p : Nat) (r : PointRec) : s.clearPointFault p r =
    { s with
      iu := { s.iu with points := (s.clearPointFault p r).iu.points },
      due := { s.due with scan := s.due.scan || (s.point p).fault } } := by
  cases h : (s.point p).fault
  case false => simp [clearPointFault_of_clear r h]
  case true => simp [clearPointFault_of_set r h, State.wantScan, State.putPoint]

theorem clearPointFault_point {s : State} (w : s.iu.points.Wf) (p : Nat) (r : PointRec) (j : Nat) :
    (s.clearPointFault p r).point j =
      if j = p ∧ (s.point p).fault = true then s.faultCleared (s.point p) r else s.point j := by
  cases h : (s.point p).fault
  case false => simp [clearPointFault_of_clear r h]
  case true =>
    rw [clearPointFault_of_set r h, wantScan_point, putPoint_point w]
    simp

/-- R89, R110: in a still machine the retry scan of a cleared fault finds nothing to do. -/
theorem clearPointFault_followUp {s : State} (h : s.Still) (p : Nat) (r : PointRec) (before : List Nat) :
    FollowUp { s with iu := { s.iu with points := (s.clearPointFault p r).iu.points } }
      ((s.clearPointFault p r).finish before) := by
  have still : State.Still { s with iu := { s.iu with points := (s.clearPointFault p r).iu.points } } := h
  obtain ⟨-, -, ends, -⟩ := settled_due h.1
  have marked := still.settled { s.due with scan := s.due.scan || (s.point p).fault } ends
  have closed := (putDue_followUp _ _).trans (marked.finish before)
  rwa [← clearPointFault_frame s p r] at closed

/-! ### The other two flags (R32, R74) -/

theorem ownClearFault_overrun {s : State} {k n : Nat} {x : Train} (slot : s.slotOf n = some k)
    (held : s.train? k = some x) (range : 1 ≤ n ∧ n ≤ 9999) :
    ownClearFault s 0 (1, n) = (s.putTrain k { x with overrun := false }, .done []) := by
  simp [ownClearFault, range, slot, State.updTrain, held]

/-- R32: while the chain is in FAULT the field fault flag stays as it is. -/
theorem ownClearFault_field (s : State) (n : Nat) : ownClearFault s 0 (2, n) =
    ({ s with fs := { s.fs with fieldFault := s.fs.fieldFault && decide (s.fs.chain = .fault) } }, .done []) := by
  have flag : (s.fs.fieldFault && decide (s.fs.chain = .fault)) = if s.fs.chain = .fault then s.fs.fieldFault else false := by
    split <;> simp [*]
  rw [flag]
  by_cases fault : s.fs.chain = .fault
  · simp only [ownClearFault, if_pos fault]
    rfl
  · simp only [ownClearFault, if_neg fault]
    rfl

/-! ### The statement (R32, R74, R89) -/

/-- Settles O44: after its tests the owner clears one flag, and the end of a still or quiet event leaves it cleared. -/
theorem clearFault : Obligations.ClearFault := by
  intro f st s kind hi lo k law h
  have refuses : ∀ r, (kind.toNat ≤ 1 ∨ (kind = 2#8 ∧ pair hi lo = 0)) →
      ownClearFault (s.openFrame f) st (kind.toNat, pair hi lo) = (s.openFrame f, .refused r []) →
        exec (.clearFault f) s = .next (s.replied f 0x47 (.refused r [])) := fun r small o =>
    congrArg Host.Outcome.next (takeRequest_refuses h k (decode_clearFault small) o)
  have clears : ∀ w, (kind.toNat ≤ 1 ∨ (kind = 2#8 ∧ pair hi lo = 0)) →
      ownClearFault (s.openFrame f) st (kind.toNat, pair hi lo) = (w, .done []) →
        exec (.clearFault f) s = .next ((w.finish s.ss.urgent).answeredWith f 0x47 (.done [])) := fun w small o =>
    congrArg Host.Outcome.next (takeRequest_done h k (decode_clearFault small) o)
  have plan : (s.openFrame f).plan = s.plan := rfl
  refine ⟨fun small cab => refuses _ small (by simp [ownClearFault, cab]), ?point, ?overrun, ?field⟩
  case point =>
    rintro rfl rfl
    have small : (0#8).toNat ≤ 1 ∨ (0#8 = 2#8 ∧ pair hi lo = 0) := .inl (by decide)
    refine ⟨fun out => refuses _ small ?_, fun lower upper => ⟨fun none => refuses _ small ?_,
      fun r x stored now still wf => ?_⟩⟩
    · simp [ownClearFault, show ¬(1 ≤ pair hi lo ∧ pair hi lo ≤ 120) by omega]
    · simp [ownClearFault, lower, upper, plan, none]
    · subst now
      exact ⟨_, _, clears _ small (by simp [ownClearFault, lower, upper, plan, stored]),
        clearPointFault_point (s := s.openFrame f) wf _ r, clearPointFault_followUp (s := s.openFrame f) still _ r _⟩
  case overrun =>
    rintro rfl rfl
    have small : (1#8).toNat ≤ 1 ∨ (1#8 = 2#8 ∧ pair hi lo = 0) := .inl (by decide)
    refine ⟨fun out => refuses _ small ?_, fun lower upper => ⟨fun none => refuses _ small ?_,
      fun j x held number quiet => ?_⟩⟩
    · simp [ownClearFault, show ¬(1 ≤ pair hi lo ∧ pair hi lo ≤ 9999) by omega]
    · have absent : (s.openFrame f).slotOf (pair hi lo) = .none := slotOf_absent law.rising none
      simp [ownClearFault, lower, upper, absent]
    · exact ⟨_, clears _ small (ownClearFault_overrun (s := s.openFrame f) (slotOf_some law held number) held ⟨lower, upper⟩),
        finish_followUp ((s.openFrame f).putTrain j { x with overrun := false }) quiet _⟩
  case field =>
    rintro rfl zero rfl quiet
    exact ⟨_, clears _ (.inr ⟨rfl, zero⟩) (ownClearFault_field _ _), finish_followUp { s.openFrame f with
      fs := { s.fs with fieldFault := s.fs.fieldFault && decide (s.fs.chain = .fault) } } quiet _⟩

end Sys2Proof.Machine
end

section
/-! PROOFS. SCAN_COMPLETION over a table of input bits that is not in its canonical form (R33). -/
namespace Sys2Proof.Machine

/-- In SETUP, a stray mark on the one section, whose detector bit 0 has two rows: the first, which every read finds, is set
and counting; the second is clear. -/
def twiceHeldBit : State :=
  { pm := { plan := { sections := ⟨[(1, ⟨1, 0, .plain, 1, [], [], 0⟩)]⟩ } },
    fs := { inputs := ⟨[(0, { count := 1 }), (0, { value := false })]⟩ },
    tr := { stray := ⟨[(1, true)]⟩ } }

/-- A good scan in which every input bit is set. -/
def allSet : List Bool := List.replicate 8 true ++ CheckPattern.a.bits

theorem allSet_brings_nothing_new :
    ∀ n, n < twiceHeldBit.fs.inLen → allSet.getD n false = (Tab.getD {} twiceHeldBit.fs.inputs n).value := by
  show ∀ n, n < 8 → _
  decide

/-- The count of bit 0 returns to 0, so that its first row is at rest and leaves the table; the second is read from then on,
and TR takes the section as one that became clear. -/
theorem twiceHeldBit_loses_stray_mark : (twiceHeldBit.completeScan allSet).stray 1 = false := by decide

/-- Refutes O57: the clause of a scan that brings nothing new has no premise on the table of input bits, and where that
table holds two rows for one bit, as no table in canonical form does, such a scan clears a stray mark. -/
theorem not_scanCompletion : ¬Obligations.ScanCompletion := by
  rintro ⟨completion, -⟩
  obtain ⟨t, ran, -, -, -, -, -, -, -, -, -, unchanged⟩ :=
    completion allSet [] twiceHeldBit true [true, false, true, false, false, true, false, true] rfl (by decide)
  obtain ⟨follows, -⟩ := unchanged ⟨rfl, .inr rfl⟩ (by decide) (.inr (.inr allSet_brings_nothing_new))
  have scanned : t = twiceHeldBit.completeScan allSet := (Host.Outcome.next.inj ran).symm
  have kept : t.stray 1 = true := by
    unfold State.stray
    rw [follows.tr]
    rfl
  rw [scanned, twiceHeldBit_loses_stray_mark] at kept
  contradiction

end Sys2Proof.Machine
end
section
/-! PROOFS. LAYOUT_TICK over a table of keep-alives that is not in its canonical form (R54). -/
namespace Sys2Proof.Machine

/-- A train of cab 1 that stands on its own reserved section and may run at its requested grade of 5. -/
def entitledTrain : Train :=
  { number := 1, cls := .express, length := 1, owner := .cab 1 1, span := [1], dir := .east, sense := .forward,
    state := .active, auto := false, overrun := false, requested := 5, granted := 0, route := some 1, dwell := none }

/-- A working layout with that train alone, and two rows for cab 1 in the table of keep-alives: the first, with two ticks to
go, is the one that is read. -/
def twiceCountedCab : State :=
  { pm := { plan := {
      sections := ⟨[(1, ⟨100, 0, .plain, 63, [], [], 0⟩)]⟩,
      routes := ⟨[(1, ⟨.main, 1, 0, [1], [], [], [], none⟩)]⟩ } },
    tr := {
      trains := ⟨[(1, entitledTrain)]⟩,
      handles := ⟨[(1, { h1 := 1 })]⟩,
      keepAlive := ⟨[(1, .counting 2), (1, .counting 1)]⟩ },
    iu := { routes := ⟨[(1, ⟨1, some 1, 1, .occupied, [.reserved], 0, none⟩)]⟩ },
    mc := { mode := .run } }

theorem twiceCountedCab_train {k : Nat} {x : Train} (h : twiceCountedCab.train? k = some x) : k = 1 ∧ x = entitledTrain := by
  exact Prod.mk.inj (List.mem_singleton.1 (rowsGet_mem [(1, entitledTrain)] k x h))

theorem twiceCountedCab_route {k : Nat} {r : ActiveRoute} (h : twiceCountedCab.route? k = some r) : r.state = .occupied := by
  cases List.mem_singleton.1 (rowsGet_mem twiceCountedCab.iu.routes.rows k r h)
  rfl

theorem twiceCountedCab_keepAlive {c n : Nat} (h : twiceCountedCab.keepAliveOf c = .counting n) : n = 2 := by
  by_cases e : c = 1
  · subst e
    exact (KeepAlive.counting.inj h).symm
  · have rest : twiceCountedCab.keepAliveOf c = .absent := by
      simp [State.keepAliveOf, twiceCountedCab, Tab.getD, rowsGet, Ne.symm e]
    rw [rest] at h
    contradiction

/-- The tick of a layout with no console line asserted, in the standard order of the blocks. -/
def twiceCountedCab.ticked : State := ({ twiceCountedCab with order := [] } : State).tick ⟨false, false, false⟩

theorem twiceCountedCab_target : twiceCountedCab.targetOf 1 entitledTrain = 5 := by decide

/-- Each of the two rows has its tick, so the cab expires with its train still to be raised. -/
theorem twiceCountedCab_stands : (twiceCountedCab.ticked.train? 1).map Train.granted = some 0 := by decide

/-- Refutes O59: the clause of the rising grades has no premise on the table of keep-alives, and where that table holds two
rows for one cab, as no table in canonical form does, a cab with two ticks to go expires at the first, and its train's grade
does not rise. -/
theorem not_layoutTick : ¬Obligations.LayoutTick := by
  rintro ⟨tick, -⟩
  obtain ⟨t, ran, -, -, -, -, -, -, -, -, -, idle⟩ :=
    tick ⟨false, false, false⟩ [] twiceCountedCab ConsoleLine.sample fun _ _ => rfl
  obtain ⟨-, -, -, -, -, -, -, rising⟩ := idle rfl (.inr ⟨rfl, rfl, rfl⟩) rfl rfl (by decide) nofun
    (fun k x n h d => by obtain ⟨rfl, rfl⟩ := twiceCountedCab_train h; contradiction)
  obtain ⟨grades, -⟩ := rising (by decide) (fun p n h => nomatch h) nofun
    (fun c n h => by rw [twiceCountedCab_keepAlive h]; decide)
    (fun k r h => by rw [twiceCountedCab_route h]; decide)
  have ticked : t = twiceCountedCab.ticked := (Host.Outcome.next.inj ran).symm
  have raised := grades 1 entitledTrain rfl
  rw [ticked, twiceCountedCab_stands, twiceCountedCab_target] at raised
  contradiction

end Sys2Proof.Machine
end

section
/-! PROOFS. What the blocks other than the Speed Supervisor do leaves its records, its urgent list and its port as they are
(R114, R124). -/
namespace Sys2Proof.Machine

theorem ss_foldl {α : Type} {f : State → α → State} (h : ∀ s x, (f s x).ss = s.ss) (l : List α) (s : State) :
    (l.foldl f s).ss = s.ss :=
  foldl_keeps State.ss h l s

theorem ss_ite {c : Prop} [Decidable c] {s t u : State} (ht : t.ss = s.ss) (hu : u.ss = s.ss) :
    (if c then t else u).ss = s.ss := by
  split
  · exact ht
  · exact hu

@[simp] theorem updTrain_ss (s : State) (k : Nat) (g : Train → Train) : (s.updTrain k g).ss = s.ss := by
  unfold State.updTrain
  split <;> rfl

/-! ### The Interlocking Unit -/

@[simp] theorem command_ss (s : State) (p : Nat) (q : Pos) : (s.command p q).ss = s.ss := by
  unfold State.command
  dsimp only
  repeat' split
  all_goals simp

@[simp] theorem endPulse_ss (s : State) (p : Nat) : (s.endPulse p).ss = s.ss := by
  unfold State.endPulse
  dsimp only
  repeat' split
  all_goals simp

@[simp] theorem clearRoute_ss (s : State) (k : Nat) : (s.clearRoute k).ss = s.ss := by
  unfold State.clearRoute
  dsimp only
  repeat' split
  all_goals simp

@[simp] theorem throwEnded_ss (s : State) (p : Nat) : (s.throwEnded p).ss = s.ss := by
  unfold State.throwEnded
  dsimp only
  repeat' split
  all_goals simp

@[simp] theorem unlock_ss (s : State) (p : Nat) : (s.unlock p).ss = s.ss := rfl

@[simp] theorem clearMarks_ss (s : State) (k : Nat) : (s.clearMarks k).ss = s.ss :=
  ss_foldl (fun s x => State.putMark_ss s x .free) _ s

@[simp] theorem retireRoute_ss (s : State) (k : Nat) (c : Cause) (d : Nat) : (s.retireRoute k c d).ss = s.ss := by
  unfold State.retireRoute
  split
  · rfl
  · dsimp only
    split <;> simp [State.forgetRoute, ss_foldl unlock_ss]

@[simp] theorem releaseMark_ss (s : State) (k x : Nat) : (s.releaseMark k x).ss = s.ss := by
  have unlocks : ∀ (l : List (Nat × Pos)) (u : State), (l.foldl (fun s x => s.unlock x.1) u).ss = u.ss :=
    ss_foldl fun s x => unlock_ss s x.1
  unfold State.releaseMark
  repeat' split
  all_goals simp [unlocks]

@[simp] theorem retireIfReleased_ss (s : State) (k : Nat) : (s.retireIfReleased k).ss = s.ss := by
  unfold State.retireIfReleased
  repeat' split
  all_goals simp

@[simp] theorem releaseEntered_ss (s : State) (x : Nat) : (s.releaseEntered x).ss = s.ss := by
  unfold State.releaseEntered
  repeat' split
  all_goals simp

@[simp] theorem approachTest_ss (s : State) : s.approachTest.ss = s.ss := by
  refine ss_foldl (fun s k => ?_) _ s
  repeat' split
  all_goals simp

@[simp] theorem sectionLeft_ss (s : State) (x : Nat) : (s.sectionLeft x).ss = s.ss := by simp [State.sectionLeft]

@[simp] theorem strayCleared_ss (s : State) (x : Nat) : (s.strayCleared x).ss = s.ss := by simp [State.strayCleared]

@[simp] theorem failThrow_ss (s : State) (p : Nat) : (s.failThrow p).ss = s.ss := by
  unfold State.failThrow
  dsimp only
  split <;> simp

@[simp] theorem sectionOccupied_ss (s : State) (x : Nat) : (s.sectionOccupied x).ss = s.ss :=
  ss_foldl (fun s (r : Nat × PointRec) => ss_ite (failThrow_ss s r.1) rfl) _ s

@[simp] theorem detection_ss (s : State) (p : Nat) : (s.detection p).ss = s.ss := by
  unfold State.detection
  dsimp only
  repeat' split
  all_goals simp

theorem activate_ss (s : State) (d : RouteRec) (k : Nat) (a : RouteAsk) : (s.activate d k a).ss = s.ss := by
  have marks : ∀ (m : Mark) (l : List Nat) (u : State), (l.foldl (fun s x => s.putMark x m) u).ss = u.ss :=
    fun m => ss_foldl fun s x => State.putMark_ss s x m
  have locks : ∀ (l : List (Nat × Pos)) (u : State), (l.foldl State.lock u).ss = u.ss := ss_foldl fun _ _ => rfl
  have moves : ∀ (l : List (Nat × Pos)) (u : State), (l.foldl (fun s x => s.command x.1 x.2) u).ss = u.ss :=
    ss_foldl fun s x => command_ss s x.1 x.2
  unfold State.activate
  dsimp only
  split <;> simp [marks, locks, moves]

@[simp] theorem activateChecked_ss (s : State) (a : RouteAsk) : (s.activateChecked a).1.ss = s.ss := by
  unfold State.activateChecked
  split
  · exact activate_ss _ _ _ _
  · rfl

@[simp] theorem askRoute_ss (s : State) (a : RouteAsk) : (s.askRoute a).1.ss = s.ss := by
  unfold State.askRoute State.offer
  dsimp only
  repeat' split
  all_goals simp

@[simp] theorem retryScan_ss (s : State) : s.retryScan.ss = s.ss := by
  have loop : ∀ (n : Nat) (u : List Nat) (s : State), (retryLoop n u s).ss = s.ss := by
    intro n
    induction n with
    | zero => exact fun _ _ => rfl
    | succ n ih =>
      intro u s
      unfold retryLoop
      dsimp only
      repeat' split
      all_goals simp [ih, State.grantEntry]
  exact loop _ _ s

@[simp] theorem releaseReserved_ss (s : State) (k : Nat) (keep : Option Nat) : (s.releaseReserved k keep).ss = s.ss := by
  unfold State.releaseReserved
  repeat' split
  all_goals simp [ss_foldl fun s x => releaseMark_ss s k x]

@[simp] theorem cancelParts_ss (s : State) (n : Nat) (drops : Bool) (slot : Option Nat) :
    (s.cancelParts n drops slot).1.ss = s.ss := by
  have active : ∀ (s : State) (k : Nat), (s.cancelActive k).1.ss = s.ss := fun s k => by
    unfold State.cancelActive
    repeat' split
    all_goals simp
  unfold State.cancelParts
  dsimp only
  split
  · rw [active]
    exact ss_ite rfl rfl
  · exact ss_ite rfl rfl

@[simp] theorem reverseRoutes_ss (s : State) (k : Nat) : (s.reverseRoutes k).ss = s.ss := by
  refine ss_foldl (fun s j => ?_) _ s
  repeat' split
  all_goals simp

@[simp] theorem approachExpired_ss (s : State) (k : Nat) : (s.approachExpired k).ss = s.ss := by
  unfold State.approachExpired
  repeat' split
  all_goals simp

@[simp] theorem headEntry_ss (s : State) (k x : Nat) (how : Reserved) : (s.headEntry k x how).ss = s.ss := by
  unfold State.headEntry
  repeat' split
  all_goals simp

@[simp] theorem interlockingTick_ss (s : State) : s.interlockingTick.ss = s.ss := by
  have pulse : ∀ (s : State) (p : Nat), (s.pulseTick p).ss = s.ss := fun s p => by
    unfold State.pulseTick
    repeat' split
    all_goals simp
  have throw : ∀ (s : State) (p : Nat), (s.throwTick p).ss = s.ss := fun s p => by
    unfold State.throwTick
    repeat' split
    all_goals simp
  have approach : ∀ (s : State) (k : Nat), (s.approachTick k).ss = s.ss := fun s k => by
    unfold State.approachTick
    repeat' split
    all_goals simp
  unfold State.interlockingTick
  dsimp only
  rw [approachTest_ss, ss_foldl approach]
  exact ss_foldl (fun s p => (throw _ p).trans (pulse s p)) _ s

/-! ### The Turntable Controller -/

@[simp] theorem driveTable_ss (s : State) (a b c : Bool) : (s.driveTable a b c).ss = s.ss := ss_ite rfl rfl

@[simp] theorem driveTurning_ss (s : State) (d : Turning) : (s.driveTurning d).ss = s.ss := driveTable_ss _ _ _ _

@[simp] theorem testSpan_ss (s : State) (k : Nat) : (s.testSpan k).ss = s.ss := by
  unfold State.testSpan State.loseTrain
  repeat' split
  all_goals simp

@[simp] theorem handBack_ss (s : State) (e : TurnReq) : (s.handBack e).ss = s.ss := by
  unfold State.handBack
  repeat' split
  all_goals simp

@[simp] theorem removeTurn_ss (s : State) (i : Nat) : (s.removeTurn i).ss = s.ss := rfl

@[simp] theorem handTurnEnd_ss (s : State) (e : TurnReq) (c : Bool) : (s.handTurnEnd e c).ss = s.ss := rfl

@[simp] theorem endRequest_ss (s : State) (i : Nat) (e : TurnReq) : (s.endRequest i e).ss = s.ss := by
  simp [State.endRequest]

@[simp] theorem becomeLocked_ss (s : State) : s.becomeLocked.ss = s.ss := rfl

@[simp] theorem faultTable_ss (s : State) (n : Nat) : (s.faultTable n).ss = s.ss := by
  unfold State.faultTable
  dsimp only
  split <;> simp

@[simp] theorem grantTurn_ss (s : State) (i : Nat) (e : TurnReq) : (s.grantTurn i e).ss = s.ss := by
  have opened : (s.openGrant i e).ss = s.ss := rfl
  have started : ∀ (u : State) (m : Move), (u.startMove i e m).ss = u.ss := fun u m => by
    unfold State.startMove
    dsimp only
    split <;> simp
  unfold State.grantTurn State.serveTurn
  repeat' split
  all_goals simp [opened, started]

@[simp] theorem arbitrate_ss (s : State) : s.arbitrate.ss = s.ss := by
  have loop : ∀ (n : Nat) (s : State), (arbitrateLoop n s).ss = s.ss := by
    intro n
    induction n with
    | zero => exact fun _ => rfl
    | succ n ih =>
      intro s
      unfold arbitrateLoop
      repeat' split
      all_goals simp [ih]
  exact loop _ s

@[simp] theorem askTurn_ss (s : State) (a : TurnAsk) : (s.askTurn a).1.ss = s.ss := by
  unfold State.askTurn
  split
  · rfl
  · exact arbitrate_ss _

@[simp] theorem dropTurn_ss (s : State) (i : Nat) : (s.dropTurn i).ss = s.ss :=
  (State.wantArbitrate_ss _).trans (ss_ite rfl rfl)

@[simp] theorem askHome_ss (s : State) (n : Nat) : (s.askHome n).1.ss = s.ss := by
  unfold State.askHome
  dsimp only
  repeat' split
  all_goals simp [State.seek]

@[simp] theorem sensors_ss (s : State) (i h c d : Bool) : (s.sensors i h c d).ss = s.ss := by
  have arrives : ∀ s : State, (s.arrival i h).ss = s.ss := fun s => by
    unfold State.arrival State.engage State.countIndex State.stepIndex
    dsimp only
    repeat' split
    all_goals simp
  have confirmed : ∀ s : State, s.lockConfirmed.ss = s.ss := fun s => by
    unfold State.lockConfirmed
    repeat' split
    all_goals simp
  have dropped : ∀ s : State, s.lockDropped.ss = s.ss := fun s => by
    unfold State.lockDropped State.seek
    repeat' split
    all_goals simp
  simp [State.sensors, apply_ite State.ss, arrives, confirmed, dropped]

@[simp] theorem tableTimeout_ss (s : State) : s.tableTimeout.ss = s.ss := by
  unfold State.tableTimeout
  split <;> simp

@[simp] theorem tableTick_ss (s : State) : s.tableTick.ss = s.ss := by
  unfold State.tableTick
  repeat' split
  all_goals simp

@[simp] theorem tableStops_ss (s : State) : s.tableStops.ss = s.ss := by
  unfold State.tableStops
  split <;> simp

@[simp] theorem tableResumes_ss (s : State) : s.tableResumes.ss = s.ss := by
  unfold State.tableResumes
  dsimp only
  repeat' split
  all_goals simp

/-! ### The Automatic Working Unit -/

@[simp] theorem requestGrade_ss (s : State) (k g : Nat) : (s.requestGrade k g).ss = s.ss := updTrain_ss _ _ _

@[simp] theorem triggerRoute_ss (s : State) (k r : Nat) : (s.triggerRoute k r).ss = s.ss := by
  unfold State.triggerRoute
  split <;> simp

@[simp] theorem putDwell_ss (s : State) (k : Nat) (d : Option (Nat × DwellRec)) : (s.putDwell k d).ss = s.ss :=
  updTrain_ss _ _ _

@[simp] theorem startDwell_ss (s : State) (k n r : Nat) : (s.startDwell k n r).ss = s.ss := by
  unfold State.startDwell
  split <;> simp

@[simp] theorem endDwell_ss (s : State) (k : Nat) : (s.endDwell k).ss = s.ss := by
  unfold State.endDwell
  split <;> simp

@[simp] theorem startCooldown_ss (s : State) (p : Nat) : (s.startCooldown p).ss = s.ss := ss_ite rfl rfl

@[simp] theorem cancelClearedOf_ss (s : State) (k n : Nat) : (s.cancelClearedOf k n).ss = s.ss := by
  refine ss_foldl (fun s j => ?_) _ s
  repeat' split
  all_goals simp

@[simp] theorem withdrawWaiting_ss (s : State) (n : Nat) : (s.withdrawWaiting n).ss = s.ss := by
  unfold State.withdrawWaiting
  repeat' split
  all_goals simp

@[simp] theorem endDemo_ss (s : State) (why : DemoEnd) : (s.endDemo why).ss = s.ss := by
  unfold State.endDemo
  dsimp only
  repeat' split
  all_goals simp

@[simp] theorem attemptStart_ss (s : State) : s.attemptStart.ss = s.ss := by
  have asked : ∀ d : DemoRec, (s.demoRequest d).1.ss = s.ss := fun d => by
    unfold State.demoRequest
    split <;> simp
  have started : ∀ (u : State) (v : Visitor) (d : DemoRec) (k : Nat), (u.startDemo v d k).ss = u.ss := fun u v d k => by
    unfold State.startDemo
    dsimp only
    split <;> simp
  unfold State.attemptStart
  dsimp only
  repeat' split
  all_goals simp [started, asked]

@[simp] theorem press_ss (s : State) (p b : Nat) (r : ButtonRec) : (s.press p b r).ss = s.ss :=
  ss_ite rfl (ss_ite rfl (ss_ite rfl rfl))

@[simp] theorem emptyVisitors_ss (s : State) : s.emptyVisitors.ss = s.ss := rfl

@[simp] theorem iuTakes_ss (s : State) : s.iuTakes.ss = s.ss := ss_ite (retryScan_ss _) rfl

@[simp] theorem tcTakes_ss (s : State) : s.tcTakes.ss = s.ss := arbitrate_ss _

@[simp] theorem awuTakes_ss (s : State) : s.awuTakes.ss = s.ss := by
  have ended : ∀ (u : State) (e : TurnEnd), (u.turnEnded e).ss = u.ss := fun u e => ss_ite (endDemo_ss u _) rfl
  unfold State.awuTakes
  split
  · exact ended _ _
  · exact attemptStart_ss _

@[simp] theorem handOn_ss (s : State) : s.handOn.ss = s.ss := by
  have loop : ∀ (n : Nat) (s : State), (settle n s).ss = s.ss := by
    intro n
    induction n with
    | zero => exact fun _ => rfl
    | succ n ih =>
      intro s
      unfold settle
      repeat' split
      all_goals simp [ih]
  exact loop _ s

@[simp] theorem scanNow_ss (s : State) : s.scanNow.ss = s.ss := ss_ite (iuTakes_ss s) rfl

end Sys2Proof.Machine
end

section
/-! PROOFS. The laws of the train register that every part of an event keeps: the register, owners and handles, spans and the
urgent list (R42, R43, R124), for the updates and for the end of an event. -/
namespace Sys2Proof.Machine

/-- What a part of an event keeps of the laws of the train register. -/
structure Upholds (s t : State) : Prop where
  register : RegisterLaw s → RegisterLaw t
  handles : RegisterLaw s → HandleLaw s → HandleLaw t
  spans : RegisterLaw s → SpanLaw s → SpanLaw t
  urgent : RegisterLaw s → UrgentLaw s → UrgentLaw t

theorem Upholds.refl (s : State) : Upholds s s := ⟨id, fun _ => id, fun _ => id, fun _ => id⟩

theorem Upholds.trans {s t u : State} (h : Upholds s t) (k : Upholds t u) : Upholds s u where
  register := fun r => k.register (h.register r)
  handles := fun r l => k.handles (h.register r) (h.handles r l)
  spans := fun r l => k.spans (h.register r) (h.spans r l)
  urgent := fun r l => k.urgent (h.register r) (h.urgent r l)

theorem Upholds.foldl {α : Type} {f : State → α → State} (h : ∀ s x, Upholds s (f s x)) (l : List α) (s : State) :
    Upholds s (l.foldl f s) := by
  induction l generalizing s with
  | nil => exact .refl s
  | cons x l ih => exact (h s x).trans (ih _)

theorem Upholds.ite {s t u : State} {c : Prop} [Decidable c] (h : Upholds s t) (k : Upholds s u) :
    Upholds s (if c then t else u) := by
  split
  · exact h
  · exact k

theorem Upholds.fst_ite {s : State} {x y : State × Answer} {c : Prop} [Decidable c] (h : Upholds s x.1) (k : Upholds s y.1) :
    Upholds s (if c then x else y).1 := by
  split
  · exact h
  · exact k

/-! ### Laws that read only some fields -/

/-- A law of spans asks only which train has which span. -/
theorem SpanLaw.of_spans {s t : State} (h : SpanLaw s)
    (spans : ∀ k, (t.train? k).map Train.span = (s.train? k).map Train.span) : SpanLaw t := by
  have back : ∀ {k x}, t.train? k = some x → ∃ y, s.train? k = some y ∧ y.span = x.span := fun {k x} e => by
    have := spans k
    rw [e] at this
    exact Option.map_eq_some_iff.1 this.symm
  refine ⟨fun k x e => ?_, fun j k x y sec ex ey hx hy => ?_⟩
  · obtain ⟨y, hy, same⟩ := back e
    exact same ▸ h.span k y hy
  · obtain ⟨x', hx', sx⟩ := back ex
    obtain ⟨y', hy', sy⟩ := back ey
    exact h.apart j k x' y' sec hx' hy' (sx ▸ hx) (sy ▸ hy)

theorem Inner.spans {s t : State} (h : Inner s t) (k : Nat) : (t.train? k).map Train.span = (s.train? k).map Train.span := by
  have same := congrArg (Option.map fun i : Nat × TrainClass × Nat × Owner × List Nat × Dir × Sense × Bool × Bool =>
    i.2.2.2.2.1) (h.identity k)
  simpa [Option.map_map, Function.comp_def, Train.identity] using same

/-- The law of the urgent list asks only what the Speed Supervisor holds and which slots have a train. -/
theorem UrgentLaw.of_ss {s t : State} (h : UrgentLaw s) (records : t.ss.trains = s.ss.trains)
    (urgent : t.ss.urgent = s.ss.urgent) (known : ∀ k, s.train? k ≠ none → t.train? k ≠ none) : UrgentLaw t :=
  ⟨records ▸ h.records, urgent ▸ h.once, fun k hk => known k (h.known k (urgent ▸ hk))⟩

theorem Within.present {s t : State} (h : Within s t) (k : Nat) : s.train? k ≠ none ↔ t.train? k ≠ none := by
  have same := h.who k
  cases e : s.train? k <;> cases e' : t.train? k <;> simp_all

/-- An operation that leaves numbers, owners, handles and spans alone and the Speed Supervisor too. -/
theorem Within.upholds {s t : State} (h : Within s t) (ss : t.ss = s.ss) (spans : RegisterLaw s → SpanLaw s → SpanLaw t) :
    Upholds s t where
  register := fun r => (h.register r).1
  handles := fun r => (h.register r).2
  spans := spans
  urgent := fun _ u => u.of_ss (by rw [ss]) (by rw [ss]) fun k => (h.present k).1

theorem Inner.upholds {s t : State} (h : Inner s t) (ss : t.ss = s.ss) : Upholds s t :=
  h.toWithin.upholds ss fun _ l => l.of_spans h.spans

theorem Rail.upholds {s t : State} (h : Rail s t) (ss : t.ss = s.ss) : Upholds s t := h.toInner.upholds ss

/-- An update of other fields than the trains, the handles and the Speed Supervisor's. -/
theorem Upholds.of_fields {s t : State} (trains : t.tr.trains = s.tr.trains) (handles : t.tr.handles = s.tr.handles)
    (ss : t.ss = s.ss) (setup : t.mc.mode = .setup → s.mc.mode = .setup) : Upholds s t where
  register := fun r =>
    r.of_who (by rw [trains]; exact r.rising) (fun k => by simp only [State.train?, trains]) setup
  handles := fun _ l => l.of_who handles fun k => by simp only [State.train?, trains]
  spans := fun _ l => l.of_spans fun k => by simp only [State.train?, trains]
  urgent := fun _ u => u.of_ss (by rw [ss]) (by rw [ss]) fun k => by simp only [State.train?, trains]; exact id

/-- A train's record rewritten with its number, its owner and its span kept. -/
theorem putTrain_upholds (s : State) (k : Nat) (x y : Train) (h : s.train? k = some y)
    (e : x.number = y.number ∧ x.owner = y.owner ∧ x.span = y.span) : Upholds s (s.putTrain k x) := by
  refine (putTrain_calm s k x y h ⟨e.1, e.2.1⟩).toWithin.upholds rfl fun _ l => l.of_spans fun j => ?_
  rw [putTrain_train?]
  split
  · next eq => rw [eq, h]; simp [e.2.2]
  · rfl

theorem updTrain_upholds (s : State) (k : Nat) (g : Train → Train)
    (h : ∀ x, (g x).number = x.number ∧ (g x).owner = x.owner ∧ (g x).span = x.span) : Upholds s (s.updTrain k g) := by
  unfold State.updTrain
  split
  · exact .refl s
  · next y e => exact putTrain_upholds s k _ y e (h y)

/-! ### The Speed Supervisor (R120 to R125) -/

/-- A train of the register joins the urgent list. -/
theorem UrgentLaw.joined {s : State} (u : UrgentLaw s) (k : Nat) (h : s.train? k ≠ none) : UrgentLaw (s.joinUrgent k) := by
  unfold State.joinUrgent
  split
  · exact u
  · next new =>
    have new : k ∉ s.ss.urgent := by simpa using new
    refine ⟨u.records, ?_, fun j hj => ?_⟩
    · exact List.nodup_append.2 ⟨u.once, List.nodup_singleton k, fun a ha b hb e => new (List.mem_singleton.1 hb ▸ e ▸ ha)⟩
    · rcases List.mem_append.1 hj with hj | hj
      · exact u.known j hj
      · exact List.mem_singleton.1 hj ▸ h

theorem joinUrgent_upholds (s : State) (k : Nat) (h : s.train? k ≠ none) : Upholds s (s.joinUrgent k) :=
  have rail := joinUrgent_rail s k
  ⟨fun r => (rail.register r).1, fun r => (rail.register r).2, fun _ l => l.of_spans rail.spans, fun _ u => u.joined k h⟩

theorem putSpeed_upholds (s : State) (k : Nat) (r : SpeedRec) : Upholds s (s.putSpeed k r) := by
  have rail := putSpeed_rail s k r
  exact ⟨fun r => (rail.register r).1, fun r => (rail.register r).2, fun _ l => l.of_spans rail.spans,
    fun _ u => ⟨Tab.put_wf _ _ _ u.records, u.once, u.known⟩⟩

theorem grant_upholds (s : State) (k g : Nat) (x : Train) (h : s.train? k = some x) : Upholds s (s.grant k x g) := by
  have base : Upholds s ((s.putTrain k { x with granted := g }).joinUrgent k) :=
    (putTrain_upholds s k { x with granted := g } x h ⟨rfl, rfl, rfl⟩).trans
      (joinUrgent_upholds _ k (by simp [putTrain_train?]))
  exact Upholds.ite (base.trans ((wantArbitrate_rail _).upholds rfl)) base

theorem recompute_upholds (s : State) (k : Nat) : Upholds s (s.recompute k) := by
  unfold State.recompute
  split
  · exact .refl s
  · next x h => exact Upholds.ite ((putSpeed_upholds s k _).trans (grant_upholds _ k _ x h)) (putSpeed_upholds s k _)

theorem recomputeAll_upholds (s : State) : Upholds s s.recomputeAll := Upholds.foldl recompute_upholds _ s

theorem rampAll_upholds (s : State) : Upholds s s.rampAll := by
  refine Upholds.foldl (fun s k => ?_) _ s
  unfold State.ramp
  split
  · exact .refl s
  · next x h => exact Upholds.ite ((putSpeed_upholds s k _).trans (grant_upholds _ k _ x h)) (.refl s)

/-- The port takes its next order from the urgent list. -/
theorem startOrder_upholds (s : State) (k : Nat) (b : Bool) : Upholds s (s.startOrder k b) := by
  have rail := startOrder_rail s k b
  refine ⟨fun r => (rail.register r).1, fun r => (rail.register r).2, fun _ l => l.of_spans rail.spans, fun _ u => ?_⟩
  have less : ∀ p : Nat → Bool, (s.ss.urgent.filter p).Nodup ∧ ∀ j ∈ s.ss.urgent.filter p, s.train? j ≠ none := fun p =>
    ⟨u.once.sublist List.filter_sublist, fun j hj => u.known j (List.mem_of_mem_filter hj)⟩
  unfold State.startOrder
  split
  · exact ⟨u.records, (less _).1, (less _).2⟩
  · exact ⟨u.records, (less _).1, (less _).2⟩

theorem kickPort_upholds (s : State) : Upholds s s.kickPort := by
  unfold State.kickPort
  split
  · exact .refl s
  · split
    · have rail := putSs_rail s { s.ss with broadcast := false, port := some stopAllOrder }
      exact ⟨fun r => (rail.register r).1, fun r => (rail.register r).2, fun _ l => l.of_spans rail.spans,
        fun _ u => u.of_ss rfl rfl fun _ => id⟩
    · split
      · exact startOrder_upholds _ _ _
      · split
        · exact startOrder_upholds _ _ _
        · exact .refl s

/-- R124: the joined trains are put in slot order. -/
theorem orderJoins_upholds (before : List Nat) (s : State) : Upholds s (s.orderJoins before) := by
  have rail : Rail s (s.orderJoins before) := putSs_rail s _
  refine ⟨fun r => (rail.register r).1, fun r => (rail.register r).2, fun _ l => l.of_spans rail.spans, fun _ u => ?_⟩
  have perm : (s.orderJoins before).ss.urgent.Perm s.ss.urgent :=
    ((List.perm_insertionSort _ _).append_left _).trans (List.filter_append_perm _ _)
  exact ⟨u.records, perm.nodup_iff.2 u.once, fun k hk => u.known k ((orderJoins_mem before s k).1 hk)⟩

/-! ### The end of an event -/

theorem handOn_upholds (s : State) : Upholds s s.handOn := (handOn_inner s).upholds (handOn_ss s)

theorem showAspect_ss (s : State) (k : Nat) (g : SignalRec) (a : Aspect) : (s.showAspect k g a).ss = s.ss := by
  rw [showAspect_showsOnly s k g a]

theorem stopSignals_ss (s : State) : s.stopSignals.ss = s.ss := by rw [stopSignals_showsOnly s]

theorem refreshAspects_ss (s : State) : s.refreshAspects.ss = s.ss :=
  ss_foldl (fun s (g : Nat × SignalRec) => ss_ite rfl (showAspect_ss s g.1 g.2 _)) _ s

theorem refreshLamps_ss (s : State) : s.refreshLamps.ss = s.ss :=
  ss_foldl (fun s (b : Nat × ButtonRec) => ss_ite rfl (rfl : (s.showLamp b.1 b.2 (s.lampOf b.2)).ss = s.ss)) _ s

theorem finish_upholds (s : State) (before : List Nat) : Upholds s (s.finish before) := by
  have speeds : ∀ (n : Nat) (s : State), Upholds s (settleSpeeds n s) := by
    intro n
    induction n with
    | zero => exact fun s => .refl s
    | succ n ih =>
      intro s
      have round := (handOn_upholds s).trans (recomputeAll_upholds s.handOn)
      exact Upholds.ite round (round.trans (ih _))
  have port : ∀ s : State, Upholds s (s.closePort before) := fun s =>
    (orderJoins_upholds before s).trans (kickPort_upholds _)
  exact (((speeds _ s).trans ((refreshAspects_rail _).upholds (refreshAspects_ss _))).trans
    ((refreshLamps_inner _).upholds (refreshLamps_ss _))).trans (port _)

end Sys2Proof.Machine
end

section
/-! PROOFS. Section reports, changes of mode, scans and ticks keep the laws of the train register (R42, R61 to R71, R124). -/
namespace Sys2Proof.Machine

/-! ### Spans under tracking (R64, R68, R70) -/

/-- Two states whose trains have the same spans. -/
def SameSpans (s t : State) : Prop := ∀ k, (t.train? k).map Train.span = (s.train? k).map Train.span

theorem SameSpans.trans {s t u : State} (h : SameSpans s t) (k : SameSpans t u) : SameSpans s u :=
  fun j => (k j).trans (h j)

/-- The law of spans within an appending, where the span of the train in a slot may hold a seventh section. -/
structure Overfull (slot : Nat) (s : State) : Prop where
  span : ∀ k x, s.train? k = some x → x.span ≠ [] ∧ x.span.length ≤ (if k = slot then 7 else 6) ∧ x.span.Nodup
  apart : ∀ j k x y sec, s.train? j = some x → s.train? k = some y → sec ∈ x.span → sec ∈ y.span → j = k

theorem Overfull.of_spans {slot : Nat} {s t : State} (h : Overfull slot s) (same : SameSpans s t) : Overfull slot t := by
  have back : ∀ {k x}, t.train? k = some x → ∃ y, s.train? k = some y ∧ y.span = x.span := fun {k x} e => by
    have := same k
    rw [e] at this
    exact Option.map_eq_some_iff.1 this.symm
  refine ⟨fun k x e => ?_, fun j k x y sec ex ey hx hy => ?_⟩
  · obtain ⟨y, hy, eq⟩ := back e
    exact eq ▸ h.span k y hy
  · obtain ⟨x', hx', sx⟩ := back ex
    obtain ⟨y', hy', sy⟩ := back ey
    exact h.apart j k x' y' sec hx' hy' (sx ▸ hx) (sy ▸ hy)

theorem spanOf_none {s : State} {sec k : Nat} {x : Train} (h : s.spanOf sec = none) (e : s.train? k = some x) :
    sec ∉ x.span := fun hx => by
  have row := rowsGet_mem _ _ _ e
  have := List.find?_eq_none.1 (Option.map_eq_none_iff.1 h) _ row
  simp [hx] at this

/-- A section that lies in no span is appended to one. -/
theorem SpanLaw.appended {s : State} (h : SpanLaw s) {k sec : Nat} {x y : Train} (e : s.train? k = some x)
    (span : y.span = x.span ++ [sec]) (new : s.spanOf sec = none) : Overfull k (s.putTrain k y) := by
  have mine : ∀ z ∈ y.span, z ∈ x.span ∨ z = sec := by simp [span]
  refine ⟨fun j z hz => ?_, fun i j v w z hv hw zv zw => ?_⟩
  · rw [putTrain_train?] at hz
    split at hz
    · next eq =>
      cases hz
      obtain ⟨-, few, once⟩ := h.span k x e
      refine ⟨by simp [span], by simp [span, eq]; omega, ?_⟩
      rw [span]
      exact List.nodup_append.2 ⟨once, List.nodup_singleton _, fun a ha b hb eq =>
        spanOf_none new e (List.mem_singleton.1 hb ▸ eq ▸ ha)⟩
    · next ne =>
      rw [if_neg ne]
      exact h.span j z hz
  · rw [putTrain_train?] at hv hw
    split at hv <;> split at hw
    · next ei ej => rw [ei, ej]
    · next ei _ =>
      cases hv
      rcases mine z zv with zx | rfl
      · rw [ei]; exact h.apart k j x w z e hw zx zw
      · exact absurd zw (spanOf_none new hw)
    · next _ ej =>
      cases hw
      rcases mine z zw with zx | rfl
      · rw [ej]; exact h.apart i k v x z hv e zv zx
      · exact absurd zv (spanOf_none new hv)
    · exact h.apart i j v w z hv hw zv zw

/-- A span is rewritten within itself. -/
theorem SpanLaw.rewritten {s : State} {slot : Nat} (h : Overfull slot s) {x y : Train} (e : s.train? slot = some x)
    (part : y.span ⊆ x.span) (once : y.span.Nodup) (some_left : y.span ≠ []) (few : y.span.length ≤ 6) :
    SpanLaw (s.putTrain slot y) := by
  refine ⟨fun j z hz => ?_, fun i j v w z hv hw zv zw => ?_⟩
  · rw [putTrain_train?] at hz
    split at hz
    · cases hz
      exact ⟨some_left, few, once⟩
    · next ne => simpa [ne] using h.span j z hz
  · rw [putTrain_train?] at hv hw
    split at hv <;> split at hw
    · next ei ej => rw [ei, ej]
    · next ei _ => cases hv; rw [ei]; exact h.apart slot j x w z e hw (part zv) zw
    · next _ ej => cases hw; rw [ej]; exact h.apart i slot v x z hv e zv (part zw)
    · exact h.apart i j v w z hv hw zv zw

/-- A span is trimmed to a part of itself. -/
theorem SpanLaw.trimmed {s : State} {slot : Nat} (h : Overfull slot s) {x y : Train} (e : s.train? slot = some x)
    (part : y.span.Sublist x.span) (some_left : y.span ≠ []) (few : y.span.length ≤ 6) : SpanLaw (s.putTrain slot y) :=
  SpanLaw.rewritten h e part.subset ((h.span slot x e).2.2.sublist part) some_left few

theorem SpanLaw.overfull {s : State} (h : SpanLaw s) (slot : Nat) : Overfull slot s :=
  ⟨fun k x e => by
    obtain ⟨full, few, once⟩ := h.span k x e
    exact ⟨full, by split <;> omega, once⟩, h.apart⟩

theorem Overfull.law {s : State} {slot : Nat} (h : Overfull slot s)
    (few : ∀ x, s.train? slot = some x → x.span.length ≤ 6) : SpanLaw s :=
  ⟨fun k x e => by
    obtain ⟨full, bound, once⟩ := h.span k x e
    refine ⟨full, ?_, once⟩
    split at bound
    · next eq => exact few x (eq ▸ e)
    · exact bound, h.apart⟩

/-! ### Tail movement (R68, R70) -/

theorem scanNow_inner (s : State) : Inner s s.scanNow := Inner.ite (iuTakes_inner s) (.refl s)

theorem leavesSpan_rail (s : State) (x : Nat) : Rail s (s.leavesSpan x) := Rail.ite (wantArbitrate_rail s) (.refl s)

theorem leavesSpan_ss (s : State) (x : Nat) : (s.leavesSpan x).ss = s.ss := ss_ite rfl rfl

theorem tailDeparture_inner (s : State) (x : Nat) : Inner s (s.tailDeparture x) :=
  ((leavesSpan_rail s x).trans (sectionLeft_rail _ x)).toInner.trans (scanNow_inner _)

@[simp] theorem tailDeparture_ss (s : State) (x : Nat) : (s.tailDeparture x).ss = s.ss := by
  simp [State.tailDeparture, leavesSpan_ss]

theorem trimSteps_ss (n k : Nat) (s : State) : (trimSteps n k s).ss = s.ss := by
  induction n generalizing s with
  | zero => rfl
  | succ n ih =>
    unfold trimSteps
    repeat' split
    all_goals simp [ih]

theorem trimSteps_spans (n k : Nat) (s : State) (h : SpanLaw s) : SpanLaw (trimSteps n k s) := by
  induction n generalizing s with
  | zero => exact h
  | succ n ih =>
    unfold trimSteps
    split
    · exact h
    · next t e =>
      split
      · next x y rest span =>
        split
        · exact h
        · obtain ⟨-, few, -⟩ := h.span k t e
          have cut : SpanLaw (s.putTrain k { t with span := y :: rest }) :=
            SpanLaw.trimmed (h.overfull k) e (by rw [span]; exact List.sublist_cons_self _ _) (List.cons_ne_nil _ _)
              (by rw [span] at few; simp at few ⊢; omega)
          exact ih _ (cut.of_spans (tailDeparture_inner _ x).spans)
      · exact h

theorem trim_upholds (s : State) (k : Nat) : Upholds s (s.trim k) :=
  ((trimSteps_calm 7 k s).toWithin.upholds (trimSteps_ss 7 k s) fun _ => trimSteps_spans 7 k s).trans
    ((testSpan_rail _ k).upholds (testSpan_ss _ k))

theorem dropTail_ss (s : State) (k : Nat) : (s.dropTail k).ss = s.ss := by
  unfold State.dropTail
  repeat' split
  all_goals simp [leavesSpan_ss, apply_ite State.ss]

/-- A span of seven sections drops its tail. -/
theorem dropTail_spans (s : State) (k : Nat) (h : Overfull k s) : SpanLaw (s.dropTail k) := by
  unfold State.dropTail
  split
  · next e => exact h.law fun x ex => by rw [e] at ex; contradiction
  · next t e =>
    have known : ∀ x, s.train? k = some x → x = t := fun x ex => Option.some.inj (ex.symm.trans e)
    split
    · next x rest span =>
      split
      · next short => exact h.law fun y ey => by rw [known y ey]; omega
      · next long =>
        obtain ⟨-, few, -⟩ := h.span k t e
        rw [if_pos rfl] at few
        have length : t.span.length = rest.length + 1 := by rw [span]; rfl
        have cut : SpanLaw (s.putTrain k { t with span := rest }) :=
          SpanLaw.trimmed h e (by rw [span]; exact List.sublist_cons_self _ _)
            (List.ne_nil_of_length_pos (by show 0 < rest.length; omega)) (by show rest.length ≤ 6; omega)
        dsimp only
        split
        · exact cut.of_spans (leavesSpan_rail _ x).spans
        · exact cut.of_spans (tailDeparture_inner _ x).spans
    · next nil => exact h.law fun y ey => by rw [known y ey, nil]; exact Nat.zero_le _

/-! ### Head movement (R64, R65) -/

theorem clearStray_ss (s : State) (x : Nat) : (s.clearStray x).ss = s.ss := ss_ite (strayCleared_ss _ x) rfl

theorem clearStray_spans (s : State) (x : Nat) : SameSpans s (s.clearStray x) := by
  unfold State.clearStray
  split
  · exact (strayCleared_rail (s.putStray x false) x).spans
  · exact fun _ => rfl

theorem clearStray_upholds (s : State) (x : Nat) : Upholds s (s.clearStray x) :=
  (clearStray_calm s x).toWithin.upholds (clearStray_ss s x) fun _ l => l.of_spans (clearStray_spans s x)

theorem overrun_ss (s : State) (k : Nat) (x : Train) : (s.overrun k x).ss = s.ss := by
  simp [State.overrun]

theorem updTrain_spans (s : State) (k : Nat) (g : Train → Train) (h : ∀ x, (g x).span = x.span) :
    SameSpans s (s.updTrain k g) := fun j => by
  unfold State.updTrain
  split
  · rfl
  · next y e =>
    rw [putTrain_train?]
    split
    · next eq => rw [eq, e]; simp [h]
    · rfl

theorem overrun_spans (s : State) (k : Nat) (x : Train) : SameSpans s (s.overrun k x) :=
  updTrain_spans s k _ fun _ => rfl

theorem headArrival_upholds (s : State) (k x : Nat) : Upholds s (s.headArrival k x) := by
  unfold State.headArrival
  split
  · exact .refl s
  · exact Upholds.of_fields rfl rfl rfl id

theorem headArrival_ss (s : State) (k x : Nat) : (s.headArrival k x).ss = s.ss := by
  unfold State.headArrival
  split <;> rfl

theorem append_ss (s : State) (k : Nat) (x : Train) (sec : Nat) (d : Dir) : (s.append k x sec d).ss = s.ss := by
  unfold State.append
  rw [headArrival_ss]
  split <;>
    simp [State.trim, trimSteps_ss, dropTail_ss, overrun_ss, clearStray_ss, apply_ite State.ss]

/-- R64, R70: what is appended to a span has been in none, and a seventh section drops the tail. -/
theorem append_spans (s : State) (k : Nat) (x : Train) (sec : Nat) (d : Dir) (e : s.train? k = some x)
    (new : s.spanOf sec = none) (r : RegisterLaw s) (h : SpanLaw s) : SpanLaw (s.append k x sec d) := by
  have put := putTrain_calm s k { x with span := x.span ++ [sec], dir := d } x e ⟨rfl, rfl⟩
  have grown : Overfull k (s.putTrain k { x with span := x.span ++ [sec], dir := d }) := h.appended e rfl new
  have rest : ∀ u, Within s u → Overfull k u → SpanLaw (((u.dropTail k).trim k).scanNow.headArrival k sec) :=
    fun u w o => by
      have reg := ((w.trans (dropTail_calm u k).toWithin).register r).1
      have trimmed := (trim_upholds (u.dropTail k) k).spans reg (dropTail_spans u k o)
      have reg' := (((w.trans (dropTail_calm u k).toWithin).trans (trim_calm _ k).toWithin).register r).1
      exact (((scanNow_inner _).upholds (scanNow_ss _)).trans (headArrival_upholds _ k sec)).spans reg' trimmed
  have cleared := grown.of_spans (clearStray_spans _ sec)
  have clear := put.toWithin.trans (clearStray_calm _ sec).toWithin
  have bridge : ∀ u : State, Rail u (if s.plan.isBridge sec then u.wantArbitrate else u) := fun u =>
    Rail.ite (wantArbitrate_rail u) (.refl u)
  unfold State.append
  dsimp only
  have plan : ((s.putTrain k { x with span := x.span ++ [sec], dir := d }).clearStray sec).plan = s.plan := by
    unfold State.plan
    rw [clear.pm]
  rw [plan]
  split
  · exact rest _ ((clear.trans (bridge _).toWithin).trans (headEntry_rail _ k sec _).toWithin)
      ((cleared.of_spans (bridge _).spans).of_spans (headEntry_rail _ k sec _).spans)
  · exact rest _ ((clear.trans (bridge _).toWithin).trans (overrun_calm _ k x).toWithin)
      ((cleared.of_spans (bridge _).spans).of_spans (overrun_spans _ k x))

theorem append_upholds (s : State) (k : Nat) (x : Train) (sec : Nat) (d : Dir) (e : s.train? k = some x)
    (new : s.spanOf sec = none) : Upholds s (s.append k x sec d) :=
  (append_calm s k x sec d e).toWithin.upholds (append_ss s k x sec d) (append_spans s k x sec d e new)

/-! ### Section reports (R61, R62, R72) -/

theorem trainChanged_upholds (s : State) (n : Nat) : Upholds s (s.trainChanged n) :=
  Upholds.ite ((wantArbitrate_rail s).upholds rfl) (.refl s)

theorem spanTrain_none {s : State} (r : RegisterLaw s) {sec : Nat} (h : s.spanTrain sec = none) : s.spanOf sec = none := by
  unfold State.spanTrain at h
  rw [Option.bind_eq_none_iff] at h
  by_contra some_
  obtain ⟨k, hk⟩ := Option.ne_none_iff_exists'.1 some_
  obtain ⟨row, found, rfl⟩ := Option.map_eq_some_iff.1 hk
  have held : s.train? row.1 = some row.2 := get?_of_mem _ _ _ (List.mem_of_find?_eq_some found) r.rising
  have := h _ hk
  rw [held] at this
  contradiction

/-- A part of an event that keeps the laws on every register that meets its own. -/
theorem Upholds.of_register {s t : State} (h : RegisterLaw s → Upholds s t) : Upholds s t :=
  ⟨fun r => (h r).register r, fun r => (h r).handles r, fun r => (h r).spans r, fun r => (h r).urgent r⟩

/-- R62: the decision of a section that became occupied, as `State.takeOccupied` begins with it. -/
def State.decision (s live : State) (sec : Nat) : State :=
  match s.spanTrain sec with
  | some (k, t) => if t.state = .lost then s.recover live k t sec else s
  | none =>
    match s.candidates live sec with
    | [(k, d)] =>
      match s.train? k with
      | none => s
      | some t => s.append k t sec d
    | _ => s.goStray sec

theorem takeOccupied_eq (live s : State) (sec : Nat) :
    State.takeOccupied live s sec = ((s.decision live sec).scanNow.sectionOccupied sec).scanNow := rfl

theorem decision_upholds (live s : State) (sec : Nat) : Upholds s (s.decision live sec) := by
  refine .of_register fun r => ?_
  unfold State.decision
  split
  · next k t found =>
    have e := spanTrain_train? found
    refine Upholds.ite ?_ (.refl s)
    exact Upholds.ite ((putTrain_upholds s k { t with state := .active } t e ⟨rfl, rfl, rfl⟩).trans (trainChanged_upholds _ _))
      ((notice_rail s _ _).upholds rfl)
  · next free =>
    split
    · next _ k d _ =>
      split
      · exact .refl s
      · next t e => exact append_upholds s k t sec d e (spanTrain_none r free)
    · exact Upholds.ite (.refl s) (Upholds.of_fields rfl rfl rfl id)

theorem takeOccupied_upholds (live s : State) (sec : Nat) : Upholds s (State.takeOccupied live s sec) := by
  have scan : ∀ u : State, Upholds u u.scanNow := fun u => (scanNow_inner u).upholds (scanNow_ss u)
  rw [takeOccupied_eq]
  exact (((decision_upholds live s sec).trans (scan _)).trans
    ((sectionOccupied_rail _ sec).upholds (sectionOccupied_ss _ sec))).trans (scan _)

theorem passes_upholds (live : State) (n : Nat) (l : List Nat) (s : State) : Upholds s (passes live n l s) := by
  have one : ∀ (l : List Nat) (s : State), Upholds s (onePass live l s).1 := by
    intro l
    induction l with
    | nil => exact fun s => .refl s
    | cons x l ih =>
      intro s
      unfold onePass
      split
      · exact (takeOccupied_upholds live s x).trans (ih _)
      · exact ih s
  induction n generalizing l s with
  | zero => exact Upholds.foldl (takeOccupied_upholds live) l s
  | succ n ih =>
    unfold passes
    dsimp only
    split
    · exact (one l s).trans (ih _ _)
    · exact (one l s).trans (Upholds.foldl (takeOccupied_upholds live) _ _)

theorem takeClear_upholds (s : State) (sec : Nat) : Upholds s (s.takeClear sec) := by
  have scan : ∀ u : State, Upholds u u.scanNow := fun u => (scanNow_inner u).upholds (scanNow_ss u)
  unfold State.takeClear
  split
  · exact ((clearStray_upholds s sec).trans ((sectionLeft_rail _ sec).upholds (sectionLeft_ss _ sec))).trans (scan _)
  · exact (trim_upholds s _).trans (scan _)

theorem act_inner (s : State) (k id : Nat) (a : Action) : Inner s (s.act k id a) := by
  unfold State.act
  split
  · exact (triggerRoute_rail _ _ _).toInner
  · exact startDwell_inner _ _ _ _
  · exact (requestGrade_rail _ _ _).toInner
  · split
    · exact Inner.ite (endDemo_inner _ _) (.refl s)
    · exact .refl s
  · exact (notice_rail _ _ _).toInner

theorem act_ss (s : State) (k id : Nat) (a : Action) : (s.act k id a).ss = s.ss := by
  unfold State.act
  repeat' split
  all_goals simp

theorem takeReport_upholds (s : State) (a b : List Nat) : Upholds s (s.takeReport a b) := by
  have due : ∀ (u : State) (d : Due), Upholds u { u with due := d } := fun u d => (putDue_rail u d).upholds rfl
  have track : Upholds s (s.trackReport a b) :=
    ((due s _).trans (passes_upholds s _ _ _)).trans (Upholds.foldl takeClear_upholds _ _)
  have arrivals : ∀ u : State, Upholds u u.takeArrivals := fun u =>
    (due u _).trans (Upholds.foldl (fun u (x : Arrival) =>
      ((act_inner u x.slot x.trigger x.action).upholds (act_ss _ _ _ _)).trans (handOn_upholds _)) _ _)
  exact ((track.trans (Upholds.ite (.refl _) (handOn_upholds _))).trans (arrivals _)).trans (handOn_upholds _)

/-! ### Changes of mode (R156, R159) -/

theorem modePart_upholds (old new : Mode) (s : State) (b : Block) : Upholds s (State.modePart old new s b) := by
  cases b with
  | tr =>
    exact Upholds.ite (Upholds.foldl (fun s x => Upholds.ite (t := s.putStray x true) (.of_fields rfl rfl rfl id) (.refl s)) _ _)
      (.refl s)
  | iu => exact Upholds.ite ((retryScan_rail s).upholds (retryScan_ss s)) (.refl s)
  | ss =>
    have port : ∀ b : Bool, Upholds s { s with ss := { s.ss with broadcast := b } } := fun b =>
      have rail := putSs_rail s { s.ss with broadcast := b }
      ⟨fun r => (rail.register r).1, fun r => (rail.register r).2, fun _ l => l.of_spans rail.spans,
        fun _ u => u.of_ss rfl rfl fun _ => id⟩
    exact Upholds.ite (port true) (Upholds.ite (port false) (.refl s))
  | tc =>
    exact Upholds.ite ((tableStops_rail s).upholds (tableStops_ss s))
      (Upholds.ite ((tableResumes_rail s).upholds (tableResumes_ss s)) (.refl s))
  | awu =>
    have ends := (endDemo_inner s .stopped).upholds (endDemo_ss s _)
    show Upholds s (s.modeForAwu old new)
    unfold State.modeForAwu
    split
    · exact ends
    · exact ends.trans ((emptyVisitors_inner _).upholds rfl)
    · exact Upholds.ite ((attemptStart_inner s).upholds (attemptStart_ss s)) (.refl s)
    · exact .refl s

theorem changeMode_upholds (s : State) (new : Mode) (m : Option Mode) (h : new ≠ .setup) :
    Upholds s (s.changeMode new m) := by
  have begins : Upholds s { s with mc := { s.mc with mode := new, remembered := m } } :=
    .of_fields rfl rfl rfl fun e => absurd e h
  exact (begins.trans ((notice_rail _ _ _).upholds rfl)).trans (Upholds.foldl (modePart_upholds _ _) _ _)

theorem requestStop_upholds (s : State) : Upholds s s.requestStop := by
  unfold State.requestStop
  split
  · exact changeMode_upholds _ _ _ (by decide)
  · exact changeMode_upholds _ _ _ (by decide)
  · exact .refl s
  · exact .refl s

/-! ### The scan (R25) -/

theorem deliver_upholds (changed : List Nat) (s : State) (b : Block) : Upholds s (s.deliver changed b) := by
  cases b with
  | tr => exact takeReport_upholds _ _ _
  | iu =>
    exact Upholds.foldl (fun s (r : Nat × PointRec) =>
      ((detection_rail s r.1).upholds (detection_ss s r.1)).trans (handOn_upholds _)) _ s
  | tc =>
    exact Upholds.ite ((((sensors_rail _ _ _ _ _).upholds (sensors_ss _ _ _ _ _)).trans
      ((tcTakes_inner _).upholds (tcTakes_ss _))).trans (handOn_upholds _)) (.refl s)
  | awu =>
    exact Upholds.foldl (fun s (r : Nat × ButtonRec) =>
      ((press_inner s _ _ r.2).upholds (press_ss s _ _ r.2)).trans (handOn_upholds _)) _ s
  | ss => exact .refl s

/-- The Field Scanner's fields are no part of the register's laws. -/
theorem putFs_upholds (s : State) (f : FS) : Upholds s { s with fs := f } := .of_fields rfl rfl rfl id

theorem checkScan_upholds (s : State) (good : Bool) (fdi : List Bool) : Upholds s (s.checkScan good fdi) := by
  have used : ∀ u : State, Upholds u (u.useScan fdi) := fun u =>
    (putFs_upholds u _).trans (Upholds.foldl (deliver_upholds _) _ _)
  have fault : Upholds s s.enterFault := by
    refine Upholds.trans ?_ (requestStop_upholds _)
    refine Upholds.trans ?_ ((notice_rail _ _ _).upholds rfl)
    exact putFs_upholds s _
  unfold State.checkScan
  split
  · exact used s
  · exact putFs_upholds s _
  · exact (putFs_upholds s _).trans (used _)
  · exact fault
  · exact Upholds.ite (putFs_upholds s _) (putFs_upholds s _)
  · exact putFs_upholds s _

theorem completeScan_upholds (s : State) (fdi : List Bool) : Upholds s (s.completeScan fdi) := by
  have lengths : ∀ u : State, Upholds u u.takeLengths := fun u =>
    (putFs_upholds u _).trans (Upholds.foldl (fun u (r : Nat × PointRec) =>
      Upholds.ite ((putPoint_rail u r.1 _).upholds rfl) (.refl u)) _ _)
  exact ((((putFs_upholds s _).trans (checkScan_upholds _ _ fdi)).trans (lengths _)).trans (finish_upholds _ _)).trans
    (putFs_upholds _ _)

/-! ### The tick (R156) -/

theorem requestGrade_upholds (s : State) (k g : Nat) : Upholds s (s.requestGrade k g) :=
  (requestGrade_rail s k g).upholds (requestGrade_ss s k g)

theorem putKeepAlive_upholds (s : State) (c : Nat) (k : KeepAlive) : Upholds s (s.putKeepAlive c k) :=
  .of_fields rfl rfl rfl id

theorem expireCab_upholds (s : State) (c : Nat) : Upholds s (s.expireCab c) :=
  ((Upholds.foldl (fun s k => requestGrade_upholds s k 0) _ s).trans ((notice_rail _ _ _).upholds rfl)).trans
    (putKeepAlive_upholds _ c _)

theorem registerTick_upholds (s : State) : Upholds s s.registerTick := by
  refine Upholds.foldl (fun s c => ?_) _ s
  unfold State.keepAliveTick
  split
  · exact Upholds.ite (expireCab_upholds s c) (putKeepAlive_upholds s c _)
  · exact .refl s

theorem consoleTick_upholds (s : State) (raw : ConsoleLevels) : Upholds s (s.consoleTick raw) := by
  have acts : ∀ (s : State) (c : Nat) (a b : ConsoleLine), Upholds s (s.lineActs c a b).handOn := fun s c a b => by
    refine Upholds.trans (Upholds.ite (Upholds.ite (requestStop_upholds s) ?_) (.refl s)) (handOn_upholds _)
    refine Upholds.ite ((emptyVisitors_inner s).upholds rfl) (Upholds.ite ?_ (.refl s))
    exact ((endDemo_inner s _).upholds (endDemo_ss s _)).trans ((emptyVisitors_inner _).upholds rfl)
  have lines : Upholds s { s with awu := { s.awu with
      line1 := s.awu.line1.sample raw.line1, line2 := s.awu.line2.sample raw.line2,
      line3 := s.awu.line3.sample raw.line3 } } := .of_fields rfl rfl rfl id
  exact ((lines.trans (acts _ _ _ _)).trans (acts _ _ _ _)).trans (acts _ _ _ _)

theorem awuTick_upholds (s : State) (raw : ConsoleLevels) : Upholds s (s.awuTick raw) := by
  have cooldown : ∀ (s : State) (p : Nat), Upholds s (s.cooldownTick p) := fun s p => .of_fields rfl rfl rfl id
  have dwell : ∀ (s : State) (k : Nat), Upholds s (s.dwellTick k) := fun s k => by
    unfold State.dwellTick
    split
    · exact Upholds.ite (((endDwell_inner s k).upholds (endDwell_ss s k)).trans (handOn_upholds _))
        ((putDwell_inner s k _).upholds (putDwell_ss s k _))
    · exact .refl s
  have demo : ∀ s : State, Upholds s s.demoTick := fun s => by
    unfold State.demoTick
    split
    · exact .refl s
    · exact Upholds.ite (((endDemo_inner s _).upholds (endDemo_ss s _)).trans (handOn_upholds _))
        (.of_fields rfl rfl rfl id)
  have view : ∀ (s : State) (b : Nat) (v : List BoardLine), Upholds s (s.showView b v) := fun s b v =>
    Upholds.ite (.refl s) (.of_fields rfl rfl rfl id)
  have boards : ∀ s : State, Upholds s s.refreshBoards := fun s =>
    Upholds.ite (Upholds.foldl (fun s (b : Nat × BoardRec) => view s b.1 _) _ s)
      (Upholds.ite (.refl s) (Upholds.foldl (fun s (b : Nat × BoardRec) => view s b.1 _) _ s))
  have flash : ∀ s : State, Upholds s s.flashLamps := fun s =>
    (flashLamps_rail s).upholds (ss_foldl (fun s (b : Nat × ButtonRec) => ss_ite (State.setOut_ss s _ _) rfl) _ s)
  have base := (Upholds.foldl cooldown s.awu.cooldown.keys s).trans (consoleTick_upholds _ raw)
  exact (((Upholds.ite (base.trans (Upholds.foldl dwell _ _)) base).trans (demo _)).trans (flash _)).trans (boards _)

theorem tick_upholds (s : State) (raw : ConsoleLevels) : Upholds s (s.tick raw) := by
  have part : ∀ (s : State) (b : Block), Upholds s (s.tickPart raw b) := fun s b => by
    cases b with
    | tr => exact registerTick_upholds s
    | iu => exact ((interlockingTick_rail s).upholds (interlockingTick_ss s)).trans (handOn_upholds _)
    | tc => exact ((tableTick_rail s).upholds (tableTick_ss s)).trans (handOn_upholds _)
    | awu => exact awuTick_upholds s raw
    | ss => exact (recomputeAll_upholds s).trans (rampAll_upholds _)
  have counted : Upholds s { s with mc := { s.mc with ticks := s.mc.ticks + 1 } } := .of_fields rfl rfl rfl id
  exact (counted.trans (Upholds.foldl part _ _)).trans (finish_upholds _ _)

end Sys2Proof.Machine
end

section
/-! PROOFS. The requests of the Train Register keep the laws of the register, of owners and handles, of spans and of the
urgent list (R42, R43, R45 to R53, R124). -/
namespace Sys2Proof.Machine

/-! ### Folds over the blocks -/

theorem mem_fullOrder (l : List Block) (b : Block) : b ∈ fullOrder l := by
  unfold fullOrder
  by_cases h : b ∈ l
  · exact List.mem_append_left _ (List.mem_eraseDups.2 h)
  · refine List.mem_append_right _ (List.mem_filter.2 ⟨?_, by simp [h]⟩)
    cases b <;> decide

theorem foldl_invariant {α : Type} {P : State → Prop} {f : State → α → State} (keep : ∀ s x, P s → P (f s x)) (l : List α)
    (s : State) (h : P s) : P (l.foldl f s) := by
  induction l generalizing s with
  | nil => exact h
  | cons x l ih => exact ih _ (keep s x h)

/-- What one step of a fold establishes and every step keeps holds at its end. -/
theorem foldl_establishes {α : Type} {P Q : State → Prop} {f : State → α → State} {b : α} (base : ∀ s x, Q s → Q (f s x))
    (keep : ∀ s x, Q s → P s → P (f s x)) (reach : ∀ s, Q s → P (f s b)) (l : List α) (hb : b ∈ l) (s : State) (h : Q s) :
    P (l.foldl f s) := by
  induction l generalizing s with
  | nil => contradiction
  | cons x l ih =>
    by_cases e : b ∈ l
    · exact ih e _ (base s x h)
    · obtain rfl : b = x := (List.mem_cons.1 hb).resolve_right e
      exact (foldl_invariant (P := fun s => Q s ∧ P s) (fun s x k => ⟨base s x k.1, keep s x k.1 k.2⟩) l _
        ⟨base s b h, reach s h⟩).2

/-! ### Ownership (R48, R49) -/

theorem dropHandle_fields (s : State) (o : Owner) :
    (s.dropHandle o).tr.trains = s.tr.trains ∧ (s.dropHandle o).ss = s.ss ∧ (s.dropHandle o).mc = s.mc := by
  rw [dropHandle_frame]
  exact ⟨rfl, rfl, rfl⟩

theorem updTrain_ne_none (s : State) (k j : Nat) (g : Train → Train) :
    (s.updTrain k g).train? j ≠ none ↔ s.train? j ≠ none := by
  unfold State.updTrain
  split
  · exact Iff.rfl
  · next x e =>
    rw [putTrain_train?]
    split
    · next eq => simp [eq, e]
    · exact Iff.rfl

/-- Only owners and handles change: no law of spans or of the urgent list speaks of them. -/
theorem Upholds.of_owners {s t : State} (register : RegisterLaw s → RegisterLaw t ∧ (HandleLaw s → HandleLaw t))
    (spans : SameSpans s t) (ss : t.ss = s.ss) (known : ∀ k, s.train? k ≠ none → t.train? k ≠ none) : Upholds s t where
  register := fun r => (register r).1
  handles := fun r => (register r).2
  spans := fun _ l => l.of_spans spans
  urgent := fun _ u => u.of_ss (by rw [ss]) (by rw [ss]) known

theorem giveTo_upholds (s : State) (k : Nat) (x : Train) (o : Owner) (h : s.train? k = some x) (free : ∀ c i, o ≠ .cab c i) :
    Upholds s (s.giveTo k x o) := by
  obtain ⟨trains, ss, -⟩ := dropHandle_fields s x.owner
  have same : ∀ j, (s.dropHandle x.owner).train? j = s.train? j := fun j => by simp only [State.train?, trains]
  refine .of_owners (giveTo_register s k x o h free) (fun j => ?_) ?_ fun j hj => ?_
  · rw [State.giveTo, updTrain_spans _ k (fun t => { t with owner := o }) (fun _ => rfl) j, same]
  · rw [State.giveTo, updTrain_ss, ss]
  · rw [State.giveTo, updTrain_ne_none, same]
    exact hj

theorem giveToCab_ss (s : State) (k c : Nat) : (s.giveToCab k c).ss = s.ss := by
  rw [giveToCab_frame]

theorem giveToCab_none (s : State) (k c : Nat) (h : (s.handles c).lowest = none) : s.giveToCab k c = s := by
  unfold State.giveToCab
  rw [h]

/-- R43: a train given to a cab has its owner rewritten. -/
theorem giveToCab_train? (s : State) (k c i j : Nat) (low : (s.handles c).lowest = some i) :
    (s.giveToCab k c).train? j = (s.updTrain k fun t => { t with owner := .cab c i }).train? j := by
  have restart : ∀ u : State, (u.restartKeepAlive c).train? j = u.train? j := fun u => by
    rw [restartKeepAlive_frame]; rfl
  have put : ∀ (h : Handles) (g : Train → Train), ((s.putHandles c h).updTrain k g).train? j = (s.updTrain k g).train? j :=
    fun h g => by
      unfold State.updTrain
      show State.train? (match s.train? k with | none => _ | some t => _) j = _
      cases s.train? k with
      | none => rfl
      | some t => rw [putTrain_train?, putTrain_train?]; rfl
  unfold State.giveToCab
  rw [low]
  dsimp only
  split
  · rw [restart, put]
  · rw [put]

theorem giveToCab_spans (s : State) (k c : Nat) : SameSpans s (s.giveToCab k c) := fun j => by
  cases low : (s.handles c).lowest with
  | none => rw [giveToCab_none s k c low]
  | some i =>
    rw [giveToCab_train? s k c i j low]
    exact updTrain_spans s k (fun t => { t with owner := .cab c i }) (fun _ => rfl) j

theorem giveToCab_known (s : State) (k c j : Nat) : (s.giveToCab k c).train? j ≠ none ↔ s.train? j ≠ none := by
  cases low : (s.handles c).lowest with
  | none => rw [giveToCab_none s k c low]
  | some i =>
    rw [giveToCab_train? s k c i j low]
    exact updTrain_ne_none s k j _

theorem updTrain_number (s : State) (k j : Nat) (g : Train → Train) (h : ∀ x, (g x).number = x.number) :
    ((s.updTrain k g).train? j).map Train.number = (s.train? j).map Train.number := by
  unfold State.updTrain
  split
  · rfl
  · next x e =>
    rw [putTrain_train?]
    split
    · next eq => rw [eq, e]; simp [h]
    · rfl

theorem RegisterLaw.givenToCab {s : State} (r : RegisterLaw s) (k c : Nat) : RegisterLaw (s.giveToCab k c) := by
  refine r.of_who ((giveToCab_keeps s k c).rising r.rising) (fun j => ?_) (by rw [giveToCab_frame]; exact id)
  cases low : (s.handles c).lowest with
  | none => rw [giveToCab_none s k c low]
  | some i =>
    rw [giveToCab_train? s k c i j low]
    exact updTrain_number s k j (fun t => { t with owner := .cab c i }) fun _ => rfl

theorem giveToCab_upholds (s : State) (k c : Nat) (x : Train) (h : s.train? k = some x) (free : x.owner = .nobody) :
    Upholds s (s.giveToCab k c) := by
  cases low : (s.handles c).lowest with
  | none => rw [giveToCab_none s k c low]; exact .refl s
  | some i =>
    have slot : RegisterLaw s → k ≠ 0 := fun r => by
      have := r.slots k (mem_keys_of_get? _ _ _ h)
      omega
    have open_ : RegisterLaw s → HandleLaw s → ∀ d j, (s.handles d).get j ≠ k := fun r l d j q => by
      obtain ⟨a, b⟩ := handles_get_range _ _ (by rw [q]; exact slot r)
      obtain ⟨y, hy, owner⟩ := (l.names d j k (slot r)).2 ⟨a, b, q⟩
      rw [h] at hy
      cases hy
      rw [free] at owner
      contradiction
    exact .of_owners (fun r => ⟨r.givenToCab k c, fun l =>
      (giveToCab_register s k c x h (open_ r l) (slot r) r (.inl l) i low).2⟩)
      (giveToCab_spans s k c) (giveToCab_ss s k c) fun j => (giveToCab_known s k c j).2

theorem ownAcquireTrain_upholds (s : State) (st : Nat) (a : Nat × Nat) : Upholds s (ownAcquireTrain s st a).1 := by
  unfold ownAcquireTrain
  split
  · exact .refl s
  · split
    · exact .refl s
    · split
      · exact .refl s
      · next t e =>
        split
        · exact giveTo_upholds s _ t _ e fun c i => by split <;> simp
        · split
          · next free =>
            split
            · exact .refl s
            · exact giveToCab_upholds s _ st t e free
          · split <;> exact .refl s
          · exact .refl s
          · exact .refl s

theorem ownReleaseTrain_upholds (s : State) (st ref : Nat) : Upholds s (ownReleaseTrain s st ref).1 := by
  unfold ownReleaseTrain
  split
  · exact .refl s
  · split
    · exact .refl s
    · next t e => exact (giveTo_upholds s _ t .nobody e fun c i => by simp).trans (requestGrade_upholds _ _ _)

/-! ### Driving (R50, R51) -/

theorem ownSetSpeed_upholds (s : State) (st : Nat) (a : Nat × Nat) : Upholds s (ownSetSpeed s st a).1 := by
  unfold ownSetSpeed
  split
  · exact .refl s
  · exact requestGrade_upholds s _ _

theorem putFree_upholds (s : State) (n : Nat) : Upholds s { s with freeCount := n } := .of_fields rfl rfl rfl id

/-- R51: the span turned round has the same sections. -/
theorem reverse_upholds (s : State) (k : Nat) (x : Train) (h : s.train? k = some x) : Upholds s (s.reverse k x) := by
  have put : ∀ (u : State) (y : Train), u.train? k = some x → y.number = x.number → y.owner = x.owner →
      y.span = x.span.reverse → Upholds u (u.putTrain k y) := fun u y e number owner span => by
    have calm := putTrain_calm u k y x e ⟨number, owner⟩
    refine calm.toWithin.upholds rfl fun _ l => ?_
    obtain ⟨full, few, once⟩ := l.span k x e
    exact SpanLaw.rewritten (l.overfull k) e (by rw [span]; exact List.reverse_subset.2 (List.Subset.refl _))
      (by rw [span]; exact List.nodup_reverse.2 once) (by rw [span]; simpa using full) (by rw [span]; simpa using few)
  unfold State.reverse
  dsimp only
  have turned : ∀ u : State, u.train? k = some x → Upholds u (((u.putTrain k { x with
      dir := (s.reversedDir x).1, span := x.span.reverse, sense := x.sense.flip, route := none }).reverseRoutes
      k).joinUrgent k) := fun u e => by
    refine ((put u { x with dir := (s.reversedDir x).1, span := x.span.reverse, sense := x.sense.flip, route := none }
      e rfl rfl rfl).trans ((reverseRoutes_rail _ k).upholds (reverseRoutes_ss _ k))).trans
      (joinUrgent_upholds _ k ?_)
    refine ((reverseRoutes_rail _ k).toWithin.present k).1 ?_
    simp [putTrain_train?]
  split
  · exact (putFree_upholds s _).trans (turned _ h)
  · exact turned s h

theorem ownReverseTrain_upholds (s : State) (st ref : Nat) : Upholds s (ownReverseTrain s st ref).1 := by
  unfold ownReverseTrain
  split
  · exact .refl s
  · split
    · exact .refl s
    · next t e => exact Upholds.fst_ite (.refl s) (Upholds.fst_ite (.refl s) (reverse_upholds s _ t e))

/-! ### Selectors (R52, R53) -/

theorem forSelected_upholds (s : State) (st : Nat) (sel : Nat × Nat) (act : State → Nat → State)
    (h : ∀ s k, Upholds s (act s k)) : Upholds s (s.forSelected st sel act).1 := by
  unfold State.forSelected
  split
  · exact .refl s
  · exact Upholds.foldl h _ s

theorem setTc_upholds (s : State) (x : TC) : Upholds s (s.setTc x) := .of_fields rfl rfl rfl id

theorem holdTrain_upholds (held : Bool) (s : State) (k : Nat) : Upholds s (State.holdTrain held s k) := by
  have put : ∀ t x, s.train? k = some t → Upholds s (s.toState k t x) := fun t x e =>
    (putTrain_upholds s k { t with state := x } t e ⟨rfl, rfl, rfl⟩).trans (trainChanged_upholds _ _)
  unfold State.holdTrain
  split
  · exact .refl s
  · next t e =>
    split
    · exact Upholds.ite (put t _ e) (.refl s)
    · exact Upholds.ite (.refl s) (put t _ e)
    · exact setTc_upholds s _
    · exact .refl s

theorem ownSetAuto_upholds (s : State) (st : Nat) (a : (Nat × Nat) × Nat) : Upholds s (ownSetAuto s st a).1 := by
  unfold ownSetAuto
  split
  · exact .refl s
  · exact forSelected_upholds s st _ _ fun s k => updTrain_upholds s k _ fun _ => ⟨rfl, rfl, rfl⟩

/-! ### Reading (R56 to R58) -/

theorem ownSeekTrain_upholds (s : State) (st n : Nat) : Upholds s (ownSeekTrain s st n).1 :=
  Upholds.fst_ite (.refl s) (.of_fields rfl rfl rfl id)

theorem ownReadTrainField_upholds (s : State) (st n : Nat) : Upholds s (ownReadTrainField s st n).1 :=
  Upholds.fst_ite (.refl s) (.of_fields rfl rfl rfl id)

theorem ownReadTrainRecord_upholds (s : State) (st : Nat) (u : Unit) : Upholds s (ownReadTrainRecord s st u).1 := by
  unfold ownReadTrainRecord
  dsimp only
  split <;> exact .of_fields rfl rfl rfl id

end Sys2Proof.Machine
end

section
/-! PROOFS. ENTER TRAIN and RETIRE TRAIN keep the laws of the register, of owners and handles, of spans and of the urgent list
(R42, R45, R47, R124). -/
namespace Sys2Proof.Machine

/-! ### The tests of ENTER TRAIN (R45) -/

/-- R45: the tests of ENTER TRAIN in their order, each with its reason. -/
def State.enterTests (s : State) (st : Nat) (a : EnterAsk) : List (Bool × Reason) :=
  [(decide (a.choice = 1 ∧ st ≠ 0), .notPermitted), (decide (s.mc.mode = .setup), .badMode), (!s.enterInRange a, .range),
    (!(s.chained a.span && s.facesAway ((named dirs a.dir).getD .east) a.span), .range),
    (decide (st ≠ 0 ∧ !s.plan.hasStaging a.span), .notPermitted), ((s.slotOf a.number).isSome, .conflict),
    (!a.span.all s.enterable, .conflict), ((lowestFree s.tr.trains 1 Config.trainSlots).isNone, .tableFull),
    (decide (st ≠ 0 ∧ (s.handles st).lowest.isNone), .tableFull)]

/-- R45: an ENTER TRAIN is refused by the first of its tests that fails. -/
theorem enterRefusal_eq (s : State) (st : Nat) (a : EnterAsk) :
    s.enterRefusal st a = ((s.enterTests st a).find? Prod.fst).map Prod.snd := by
  have step : ∀ (b : Bool) (r : Reason) (l : List (Bool × Reason)),
      (((b, r) :: l).find? Prod.fst).map Prod.snd = if b = true then some r else (l.find? Prod.fst).map Prod.snd :=
    fun b r l => by cases b <;> simp
  simp only [State.enterRefusal, State.enterTests, step, decide_eq_true_eq, List.find?_nil, Option.map_none]

theorem enterRefusal_eq_none {s : State} {st : Nat} {a : EnterAsk} :
    s.enterRefusal st a = none ↔ ∀ q ∈ s.enterTests st a, q.1 = false := by
  rw [enterRefusal_eq, Option.map_eq_none_iff, List.find?_eq_none]
  exact forall₂_congr fun _ _ => by rw [Bool.not_eq_true]

/-- R45 tests 3 and 6: what a request that passes carries as its span. -/
theorem enterRefusal_span {s : State} {st : Nat} {a : EnterAsk} (h : s.enterRefusal st a = none) :
    a.span ≠ [] ∧ a.span.Nodup ∧ ∀ x ∈ a.span, s.spanOf x = none := by
  have pass := enterRefusal_eq_none.1 h
  have inRange := pass (!s.enterInRange a, .range) (by simp [State.enterTests])
  have free := pass (!a.span.all s.enterable, .conflict) (by simp [State.enterTests])
  simp only [Bool.not_eq_false', State.enterInRange, Bool.and_eq_true, decide_eq_true_eq] at inRange
  obtain ⟨⟨⟨_, full⟩, _⟩, once⟩ := inRange
  refine ⟨by simpa using full, once, fun x hx => ?_⟩
  have clear := List.all_eq_true.1 (by simpa using free) x hx
  simp only [State.enterable, State.inSpan, Bool.and_eq_true, Bool.not_eq_true', Option.isSome_eq_false_iff] at clear
  obtain ⟨⟨-, clear⟩, -⟩ := clear
  exact Option.isNone_iff_eq_none.1 clear

/-! ### A completed entry (R45) -/

/-- R42: a train whose sections lie in no span enters an empty slot. -/
theorem SpanLaw.entered {s : State} (h : SpanLaw s) {k : Nat} {y : Train} (full : y.span ≠ []) (few : y.span.length ≤ 6)
    (once : y.span.Nodup) (new : ∀ sec ∈ y.span, s.spanOf sec = none) : SpanLaw (s.putTrain k y) := by
  refine ⟨fun j x hx => ?_, fun i j v w sec hv hw sv sw => ?_⟩
  · rw [putTrain_train?] at hx
    split at hx
    · cases hx; exact ⟨full, few, once⟩
    · exact h.span j x hx
  · rw [putTrain_train?] at hv hw
    split at hv <;> split at hw
    · next ei ej => rw [ei, ej]
    · cases hv; exact absurd sw (spanOf_none (new sec sv) hw)
    · cases hw; exact absurd sv (spanOf_none (new sec sw) hv)
    · exact h.apart i j v w sec hv hw sv sw

/-- R45: the train in its slot, with its owner, before the rest of an entry. -/
def State.seated (s : State) (st k : Nat) (a : EnterAsk) : State :=
  let owner := if st ≠ 0 then Owner.nobody else if a.choice = 1 then Owner.awu else Owner.supervisor
  if st ≠ 0 then (s.putTrain k (a.train owner)).giveToCab k st else s.putTrain k (a.train owner)

/-- R45, R114, R124: what an entry does once the train is in its slot. -/
def State.settleIn (s : State) (k : Nat) (span : List Nat) : State :=
  let s := span.foldl State.clearStray ((s.putSpeed k {}).joinUrgent k)
  if span.any s.plan.isBridge then s.wantArbitrate else s

theorem enter_eq (s : State) (st k : Nat) (a : EnterAsk) : s.enter st k a = (s.seated st k a).settleIn k a.span := rfl

theorem settleIn_upholds (s : State) (k : Nat) (span : List Nat) (h : s.train? k ≠ none) :
    Upholds s (s.settleIn k span) := by
  have base : Upholds s (span.foldl State.clearStray ((s.putSpeed k {}).joinUrgent k)) :=
    ((putSpeed_upholds s k {}).trans (joinUrgent_upholds _ k h)).trans (Upholds.foldl clearStray_upholds span _)
  exact Upholds.ite (base.trans ((wantArbitrate_rail _).upholds rfl)) base

/-- The train of an entry, before a cab takes it. -/
theorem seated_of_put {s : State} {st k : Nat} {a : EnterAsk} {P : State → Prop}
    (put : ∀ o, P (s.putTrain k (a.train o))) (give : ∀ u, P u → P (u.giveToCab k st)) : P (s.seated st k a) := by
  unfold State.seated
  dsimp only
  split
  · exact give _ (put _)
  · exact put _

/-- R42, R124: an entry that passes its tests keeps the law of spans and that of the urgent list. -/
theorem enter_spans_urgent {s : State} {st k : Nat} {a : EnterAsk} (r : RegisterLaw s) (pass : s.enterRefusal st a = none)
    (slot : lowestFree s.tr.trains 1 Config.trainSlots = some k) (few : a.span.length ≤ 6) :
    (SpanLaw s → SpanLaw (s.enter st k a)) ∧ (UrgentLaw s → UrgentLaw (s.enter st k a)) := by
  obtain ⟨mode, number, -, -⟩ := enterRefusal_none pass
  obtain ⟨full, once, new⟩ := enterRefusal_span pass
  obtain ⟨low, high, empty, -⟩ := lowestFree_spec _ _ _ _ slot
  have range : 1 ≤ k ∧ k ≤ 48 := ⟨low, by unfold Config.trainSlots at high; omega⟩
  have register : RegisterLaw (s.seated st k a) :=
    seated_of_put (fun o => newTrain_register s k (a.train o) empty range number mode r) fun u ru => ru.givenToCab k st
  have known : ∀ j, (s.train? j ≠ none ∨ j = k) → (s.seated st k a).train? j ≠ none := fun j hj =>
    seated_of_put (P := fun u => u.train? j ≠ none)
      (fun o => by rw [putTrain_train?]; split <;> simp_all) fun u hu => (giveToCab_known u k st j).2 hu
  have ss : (s.seated st k a).ss = s.ss :=
    seated_of_put (P := fun u => u.ss = s.ss) (fun _ => rfl) fun u hu => (giveToCab_ss u k st).trans hu
  have rest := settleIn_upholds (s.seated st k a) k a.span (known k (.inr rfl))
  rw [enter_eq]
  refine ⟨fun l => rest.spans register ?_, fun u => rest.urgent register ?_⟩
  · exact seated_of_put (fun o => l.entered full few once new) fun u lu => lu.of_spans (giveToCab_spans u k st)
  · exact u.of_ss (by rw [ss]) (by rw [ss]) fun j hj => known j (.inl hj)

/-- R45: an ENTER TRAIN that is not refused enters the train in the lowest empty slot. -/
theorem ownEnterTrain_fst (s : State) (st : Nat) (a : EnterAsk) : (ownEnterTrain s st a).1 = s ∨
    ∃ k, s.enterRefusal st a = none ∧ lowestFree s.tr.trains 1 Config.trainSlots = some k ∧
      (ownEnterTrain s st a).1 = s.enter st k a := by
  unfold ownEnterTrain
  split
  · exact .inl rfl
  · next pass =>
    obtain ⟨-, -, ⟨k, slot⟩, -⟩ := enterRefusal_none pass
    exact .inr ⟨k, pass, slot, by simp [slot]⟩

theorem ownEnterTrain_upholds (s : State) (st : Nat) (a : EnterAsk) (few : a.span.length ≤ 6) :
    Upholds s (ownEnterTrain s st a).1 := by
  have laws := ownEnterTrain_register s st a
  rcases ownEnterTrain_fst s st a with same | ⟨k, pass, slot, entered⟩
  · rw [same]; exact .refl s
  · have rest := fun r => enter_spans_urgent r pass slot few
    refine ⟨fun r => (laws r).1, fun r => (laws r).2, fun r => ?_, fun r => ?_⟩ <;> rw [entered]
    · exact (rest r).1
    · exact (rest r).2

/-! ### Retirement (R47) -/

/-- What the blocks' parts of a retirement leave alone. -/
structure Leaves (s t : State) : Prop where
  pm : t.pm = s.pm
  mc : t.mc = s.mc
  freeCount : t.freeCount = s.freeCount
  tr : t.tr = { s.tr with trains := t.tr.trains }
  rising : s.tr.trains.Wf → t.tr.trains.Wf
  identity : ∀ k, (t.train? k).map Train.identity = (s.train? k).map Train.identity

theorem Inner.leaves {s t : State} (h : Inner s t) : Leaves s t := ⟨h.pm, h.mc, h.freeCount, h.tr, h.rising, h.identity⟩

theorem Leaves.trans {s t u : State} (h : Leaves s t) (k : Leaves t u) : Leaves s u where
  pm := k.pm.trans h.pm
  mc := k.mc.trans h.mc
  freeCount := k.freeCount.trans h.freeCount
  tr := by rw [k.tr, h.tr]
  rising := fun w => k.rising (h.rising w)
  identity := fun j => (k.identity j).trans (h.identity j)

theorem Leaves.foldl {α : Type} {f : State → α → State} (h : ∀ s x, Leaves s (f s x)) (l : List α) (s : State) :
    Leaves s (l.foldl f s) := by
  induction l generalizing s with
  | nil => exact (Inner.refl s).leaves
  | cons x l ih => exact (h s x).trans (ih _)

theorem Leaves.ite {s t u : State} {c : Prop} [Decidable c] (h : Leaves s t) (k : Leaves s u) :
    Leaves s (if c then t else u) := by
  split
  · exact h
  · exact k

theorem retirePart_leaves (k n : Nat) (s : State) (b : Block) : Leaves s (State.retirePart k n s b) := by
  cases b with
  | tr => exact (Inner.refl s).leaves
  | iu =>
    exact Leaves.trans (t := { s with iu := { s.iu with
      routes := ⟨s.iu.routes.rows.map (fun r => (r.1, if r.2.train = some k then { r.2 with train := none } else r.2))⟩,
      stack := s.iu.stack.filter (fun e => !decide (e.train = some n)) } }) ⟨rfl, rfl, rfl, rfl, id, fun _ => rfl⟩
      (Leaves.foldl (fun s (e : StackEntry) => (notice_rail s _ e.route).toInner.leaves) _ _)
  | ss => exact (putSs_rail s _).toInner.leaves
  | tc => exact (dropTurnsOf_rail s n).toInner.leaves
  | awu =>
    have base : Inner s { s with awu := { s.awu with dwells := s.awu.dwells.erase k } } :=
      putAwu_fields s _ rfl rfl rfl rfl rfl
    exact Leaves.ite (base.trans (endDemo_inner _ _)).leaves base.leaves

theorem dropTurnsOf_ss (s : State) (n : Nat) : (s.dropTurnsOf n).ss = s.ss := by
  unfold State.dropTurnsOf
  split
  · rfl
  · exact dropTurn_ss s _

/-- R47: the Speed Supervisor's records change in its own part alone. -/
theorem retirePart_ss (k n : Nat) (s : State) (b : Block) :
    (State.retirePart k n s b).ss = if b = .ss then (s.retireFromSs k).ss else s.ss := by
  cases b with
  | tr => rfl
  | iu => exact ss_foldl (fun s (e : StackEntry) => State.notice_ss s _ e.route) _ _
  | ss => rfl
  | tc => exact dropTurnsOf_ss s n
  | awu => exact ss_ite (endDemo_ss _ _) rfl

/-- The Speed Supervisor's part of a retirement only takes away. -/
structure Fewer (s t : State) : Prop where
  records : s.ss.trains.Wf → t.ss.trains.Wf
  urgent : t.ss.urgent.Sublist s.ss.urgent

theorem Fewer.of_ss {s t : State} (h : t.ss = s.ss) : Fewer s t := ⟨by rw [h]; exact id, by rw [h]⟩

theorem Fewer.trans {s t u : State} (h : Fewer s t) (k : Fewer t u) : Fewer s u :=
  ⟨fun w => k.records (h.records w), k.urgent.trans h.urgent⟩

theorem retirePart_fewer (k n : Nat) (s : State) (b : Block) : Fewer s (State.retirePart k n s b) := by
  by_cases e : b = .ss
  · subst e
    exact ⟨fun w => Tab.erase_wf _ _ w, List.filter_sublist⟩
  · exact .of_ss (by rw [retirePart_ss, if_neg e])

/-- R47: after all the parts the train is on the urgent list no longer. -/
theorem retireParts_urgent (k n : Nat) (order : List Block) (s : State) :
    Fewer s ((fullOrder order).foldl (State.retirePart k n) s) ∧
      k ∉ ((fullOrder order).foldl (State.retirePart k n) s).ss.urgent := by
  refine ⟨foldl_invariant (P := Fewer s) (fun u b h => h.trans (retirePart_fewer k n u b)) _ s (.of_ss rfl), ?_⟩
  refine foldl_establishes (P := fun u => k ∉ u.ss.urgent) (Q := fun _ => True) (b := .ss) (fun _ _ _ => trivial)
    (fun u b _ h hk => h ((retirePart_fewer k n u b).urgent.subset hk)) (fun u _ => ?_) _ (mem_fullOrder order .ss) s trivial
  simp [State.retirePart, State.retireFromSs]

theorem retireRecord_ss (s : State) (k : Nat) (x : Train) : (s.retireRecord k x).ss = s.ss := by
  unfold State.retireRecord
  dsimp only
  rw [ss_foldl fun s y => ss_ite (t := s.putStray y true) rfl (sectionLeft_ss s y)]
  exact (dropHandle_fields s x.owner).2.1

/-- R47: the register's part empties the slot and leaves the other trains as they are. -/
theorem retireRecord_identity (s : State) (k : Nat) (x : Train) (w : s.tr.trains.Wf) (j : Nat) :
    ((s.retireRecord k x).train? j).map Train.identity = if j = k then none else (s.train? j).map Train.identity := by
  have spans : ∀ u : State, ((x.span.foldl (fun s y => if s.occupied y then s.putStray y true else s.sectionLeft y) u).train?
      j).map Train.identity = (u.train? j).map Train.identity := fun u => by
    generalize x.span = l
    induction l generalizing u with
    | nil => rfl
    | cons y l ih =>
      rw [List.foldl_cons, ih]
      split
      · rfl
      · exact (sectionLeft_rail u y).identity j
  unfold State.retireRecord
  dsimp only
  rw [spans]
  obtain ⟨trains, -, -⟩ := dropHandle_fields s x.owner
  show (((s.dropHandle x.owner).tr.trains.erase k).get? j).map _ = _
  rw [trains]
  by_cases e : j = k
  · subst e
    simp [Tab.get?_erase_same _ _ w]
  · rw [if_neg e, Tab.get?_erase_ne _ e]
    rfl

theorem retire_identity (s : State) (k : Nat) (x : Train) (w : s.tr.trains.Wf) (j : Nat) :
    ((s.retire k x).train? j).map Train.identity = if j = k then none else (s.train? j).map Train.identity := by
  have parts := (Leaves.foldl (retirePart_leaves k x.number) (fullOrder s.order) (s.retireRecord k x)).identity j
  have base := parts.trans (retireRecord_identity s k x w j)
  unfold State.retire
  dsimp only
  split
  · exact base
  · exact base

theorem span_of_identity {s t : State} {k : Nat} (h : (t.train? k).map Train.identity = (s.train? k).map Train.identity) :
    (t.train? k).map Train.span = (s.train? k).map Train.span := by
  have same := congrArg (Option.map fun i : Nat × TrainClass × Nat × Owner × List Nat × Dir × Sense × Bool × Bool =>
    i.2.2.2.2.1) h
  simpa [Option.map_map, Function.comp_def, Train.identity] using same

/-- Fewer trains, with the spans they had. -/
theorem SpanLaw.fewer {s t : State} (h : SpanLaw s)
    (spans : ∀ k, t.train? k = none ∨ (t.train? k).map Train.span = (s.train? k).map Train.span) : SpanLaw t := by
  have back : ∀ {k x}, t.train? k = some x → ∃ y, s.train? k = some y ∧ y.span = x.span := fun {k x} e => by
    rcases spans k with none_ | same
    · rw [none_] at e; contradiction
    · rw [e] at same
      exact Option.map_eq_some_iff.1 same.symm
  refine ⟨fun k x e => ?_, fun j k x y sec ex ey hx hy => ?_⟩
  · obtain ⟨y, hy, same⟩ := back e
    exact same ▸ h.span k y hy
  · obtain ⟨x', hx', sx⟩ := back ex
    obtain ⟨y', hy', sy⟩ := back ey
    exact h.apart j k x' y' sec hx' hy' (sx ▸ hx) (sy ▸ hy)

theorem retire_upholds (s : State) (k : Nat) (x : Train) (h : s.train? k = some x) : Upholds s (s.retire k x) := by
  refine ⟨fun r => (retire_register s k x h r).1, fun r => (retire_register s k x h r).2, fun r l => ?_, fun r u => ?_⟩
  · refine l.fewer fun j => ?_
    have id_ := retire_identity s k x r.rising j
    by_cases e : j = k
    · rw [if_pos e] at id_
      exact .inl (Option.map_eq_none_iff.1 id_)
    · rw [if_neg e] at id_
      exact .inr (span_of_identity id_)
  · obtain ⟨fewer, gone⟩ := retireParts_urgent k x.number s.order (s.retireRecord k x)
    have ss : (s.retire k x).ss = ((fullOrder s.order).foldl (State.retirePart k x.number) (s.retireRecord k x)).ss :=
      ss_ite rfl rfl
    have less : (s.retire k x).ss.urgent.Sublist s.ss.urgent := by
      rw [ss, ← retireRecord_ss s k x]
      exact fewer.urgent
    refine ⟨?_, u.once.sublist less, fun j hj none_ => ?_⟩
    · rw [ss]
      exact fewer.records (by rw [retireRecord_ss]; exact u.records)
    · have id_ := retire_identity s k x r.rising j
      have other : j ≠ k := fun e => gone (by rw [← ss]; exact e ▸ hj)
      rw [if_neg other, none_] at id_
      exact u.known j (less.subset hj) (Option.map_eq_none_iff.1 id_.symm)

theorem ownRetireTrain_upholds (s : State) (st ref : Nat) : Upholds s (ownRetireTrain s st ref).1 := by
  unfold ownRetireTrain
  split
  · exact .refl s
  · split
    · exact .refl s
    · next t e =>
      exact Upholds.fst_ite (.refl s) (Upholds.fst_ite (.refl s) (Upholds.fst_ite (.refl s) (retire_upholds s _ t e)))

end Sys2Proof.Machine
end

section
/-! PROOFS. The requests of the other blocks, the frames, the timers and every command keep the laws of the train register:
`registerAndHandleLawsKept` (R42, R43, R124). -/
namespace Sys2Proof.Machine

/-! ### Requests of the Interlocking Unit, the Turntable Controller and the Automatic Working Unit -/

theorem ownSetRoute_upholds (s : State) (st : Nat) (a : Nat × Nat × Nat × Bool) : Upholds s (ownSetRoute s st a).1 := by
  unfold ownSetRoute
  split
  · exact .refl s
  · exact (askRoute_rail _ _).upholds (askRoute_ss _ _)

theorem ownCancelRoute_upholds (s : State) (st n : Nat) : Upholds s (ownCancelRoute s st n).1 :=
  Upholds.fst_ite (.refl s) (Upholds.fst_ite (.refl s) (Upholds.fst_ite (.refl s) (Upholds.fst_ite (.refl s)
    ((cancelParts_rail _ _ _ _).upholds (cancelParts_ss _ _ _ _)))))

theorem ownPointTest_upholds (s : State) (st : Nat) (a : Nat × Nat) : Upholds s (ownPointTest s st a).1 := by
  refine Upholds.fst_ite (.refl s) (Upholds.fst_ite (.refl s) (Upholds.fst_ite (.refl s) ?_))
  split
  · exact .refl s
  · split
    · exact .refl s
    · exact Upholds.fst_ite (.refl s) (Upholds.fst_ite (.refl s) (Upholds.fst_ite (.refl s) (Upholds.fst_ite (.refl s)
        ((command_rail _ _ _).upholds (command_ss _ _ _)))))

theorem ownClearFault_upholds (s : State) (st : Nat) (a : Nat × Nat) : Upholds s (ownClearFault s st a).1 := by
  refine Upholds.fst_ite (.refl s) (Upholds.fst_ite (Upholds.fst_ite (.refl s) ?_) (Upholds.fst_ite
    (Upholds.fst_ite (.refl s) ?_) (Upholds.ite (.refl s) (putFs_upholds s _))))
  · split
    · exact .refl s
    · exact Upholds.ite (((putPoint_rail _ _ _).trans (wantScan_rail _)).upholds rfl) (.refl s)
  · split
    · exact .refl s
    · exact updTrain_upholds s _ _ fun _ => ⟨rfl, rfl, rfl⟩

theorem ownTurn_upholds (s : State) (st : Nat) (a : Nat × Nat × Nat × Bool × Nat) : Upholds s (ownTurn s st a).1 := by
  unfold ownTurn
  split
  · exact .refl s
  · split
    · exact .refl s
    · exact (askTurn_rail _ _).upholds (askTurn_ss _ _)

theorem ownWithdrawTurn_upholds (s : State) (st : Nat) (a : WithdrawAsk) : Upholds s (ownWithdrawTurn s st a).1 := by
  unfold ownWithdrawTurn
  split
  · exact .refl s
  · exact .refl s
  · split
    · exact .refl s
    · exact Upholds.fst_ite (.refl s) (Upholds.fst_ite (.refl s) ((dropTurn_rail _ _).upholds (dropTurn_ss _ _)))

theorem admitDemo_ss (s : State) (v : Visitor) : (s.admitDemo v).ss = s.ss := by
  unfold State.admitDemo
  dsimp only
  repeat' split
  all_goals simp

theorem ownStartDemo_upholds (s : State) (st n : Nat) : Upholds s (ownStartDemo s st n).1 := by
  unfold ownStartDemo
  split
  · exact .refl s
  · refine Upholds.fst_ite (.refl s) ?_
    split
    · exact .refl s
    next busy =>
    exact Upholds.fst_ite (.refl s) ((admitDemo_inner s ⟨n, 0, 0⟩ (by simpa using busy)).upholds (admitDemo_ss _ _))

theorem ownStopDemo_upholds (s : State) (st n : Nat) : Upholds s (ownStopDemo s st n).1 := by
  have drop := dropVisitors_inner s _ (List.filter_sublist (p := fun v => !decide (v.demo = n)))
  unfold ownStopDemo
  split
  · exact .refl s
  · exact Upholds.fst_ite ((endDemo_inner _ _).upholds (endDemo_ss _ _))
      (Upholds.fst_ite (Upholds.ite ((drop.trans (wantAttempt_rail _).toInner).upholds rfl) (drop.upholds rfl)) (.refl s))

/-! ### Requests of Plan Memory -/

theorem clearOuts_upholds (s : State) (l : List Nat) : Upholds s (s.clearOuts l) :=
  (clearOuts_rail s l).upholds (ss_foldl (fun s b => State.setOut_ss s b false) l s)

theorem detection_upholds (s : State) (p : Nat) : Upholds s (s.detection p) := (detection_rail s p).upholds (detection_ss s p)

theorem stopSignals_upholds (s : State) : Upholds s s.stopSignals := (stopSignals_rail s).upholds (stopSignals_ss s)

theorem planChanged_upholds (s : State) (kind key : Nat) (old new : Option Record) :
    Upholds s (s.planChanged kind key old new) := by
  have stop : Upholds s (s.stopPulse key old) := by
    unfold State.stopPulse
    split
    · exact (setOut_rail _ _ _).upholds rfl
    · exact .refl s
  unfold State.planChanged
  split
  · have reset : ∀ u k, Upholds u (u.resetPoint key k) := fun u k => (resetPoint_rail u key k).upholds rfl
    have base := (Upholds.ite (c := s.keepsPulse key old new = true) (.refl s) stop).trans (reset _ (s.keepsPulse key old new))
    dsimp only
    split
    · exact base.trans (detection_upholds _ _)
    · exact base
  · split
    · exact (showAspect_rail _ _ _ _).upholds (showAspect_ss _ _ _ _)
    · exact .of_fields rfl rfl rfl id
  · exact .of_fields rfl rfl rfl id
  · exact Upholds.ite (.of_fields rfl rfl rfl id) (.refl s)
  · exact setTc_upholds s _
  · exact .refl s

theorem putPlan_upholds (s : State) (p : Plan) : Upholds s (s.putPlan p) := .of_fields rfl rfl rfl id

theorem ownPlanWrite_upholds (s : State) (st : Nat) (a : WriteAsk) : Upholds s (ownPlanWrite s st a).1 := by
  have put : ∀ o n p kind key, Upholds s (((s.dropOutputs o n).putPlan p).planChanged kind key o n) :=
    fun o n p kind key => ((clearOuts_upholds _ _).trans (putPlan_upholds _ p)).trans (planChanged_upholds _ _ _ _ _)
  refine Upholds.fst_ite (.refl s) (Upholds.fst_ite (.refl s) (Upholds.fst_ite (.refl s) (Upholds.fst_ite (.refl s) ?_)))
  split
  · exact Upholds.fst_ite (.refl s) (put _ none _ _ _)
  · exact .refl s
  · next r _ => exact put _ (some r) _ _ _

theorem replacePlan_upholds (s : State) (p : Plan) : Upholds s (s.replacePlan p) := by
  unfold State.replacePlan
  dsimp only
  refine Upholds.trans ?_ (Upholds.foldl (fun s (r : Nat × PointRec) => detection_upholds s r.1) _ _)
  refine Upholds.trans ?_ (stopSignals_upholds _)
  refine Upholds.trans ?_ (setTc_upholds _ _)
  exact ((clearOuts_upholds s _).trans (putPlan_upholds _ p)).trans (.of_fields rfl rfl rfl id)

theorem ownPlanClear_upholds (s : State) (st : Nat) (u : Unit) : Upholds s (ownPlanClear s st u).1 :=
  Upholds.fst_ite (.refl s) (Upholds.fst_ite (.refl s) (Upholds.fst_ite (.refl s) (replacePlan_upholds _ _)))

theorem ownPlanLoad_upholds (s : State) (st : Nat) (u : Unit) : Upholds s (ownPlanLoad s st u).1 := by
  refine Upholds.fst_ite (.refl s) (Upholds.fst_ite (.refl s) (Upholds.fst_ite (.refl s) ?_))
  split
  · exact .refl s
  · exact replacePlan_upholds _ _

/-- The flags and the store of Plan Memory are no part of the register's laws. -/
theorem putPm_upholds (s : State) (x : PM) : Upholds s { s with pm := x } := .of_fields rfl rfl rfl id

theorem ownPlanCheck_upholds (s : State) (st : Nat) (u : Unit) : Upholds s (ownPlanCheck s st u).1 := by
  unfold ownPlanCheck
  split
  · exact .refl s
  · split <;> exact putPm_upholds s _

theorem ownPlanSave_upholds (s : State) (st : Nat) (u : Unit) : Upholds s (ownPlanSave s st u).1 :=
  Upholds.fst_ite (.refl s) (Upholds.fst_ite (.refl s) (Upholds.fst_ite (.refl s) (putPm_upholds s _)))

theorem saveEnds_upholds (s : State) (m : Bool) : Upholds s (s.saveEnds m) :=
  Upholds.ite (.refl s) (Upholds.ite ((putPm_upholds s _).trans ((notice_rail _ _ _).upholds rfl))
    ((putPm_upholds s _).trans ((notice_rail _ _ _).upholds rfl)))

/-! ### Requests of Mode Control -/

theorem ownGoRun_upholds (s : State) (st : Nat) (u : Unit) : Upholds s (ownGoRun s st u).1 := by
  have go := changeMode_upholds s .run none (by decide)
  unfold ownGoRun
  refine Upholds.fst_ite (.refl s) ?_
  cases s.mc.mode with
  | setup => exact Upholds.fst_ite go (.refl s)
  | run => exact .refl s
  | quiet => exact go
  | stop => exact .refl s

theorem ownGoQuiet_upholds (s : State) (st : Nat) (u : Unit) : Upholds s (ownGoQuiet s st u).1 := by
  have go := changeMode_upholds s .quiet none (by decide)
  unfold ownGoQuiet
  refine Upholds.fst_ite (.refl s) ?_
  cases s.mc.mode with
  | setup => exact .refl s
  | run => exact go
  | quiet => exact .refl s
  | stop => exact .refl s

theorem ownStopAll_upholds (s : State) (st : Nat) (u : Unit) : Upholds s (ownStopAll s st u).1 :=
  Upholds.fst_ite (.refl s) (requestStop_upholds s)

/-- A RESUME returns to the mode remembered, which the law of the modes has RUN or QUIET. -/
theorem ownResume_upholds (s : State) (st : Nat) (u : Unit) (h : ModeLaw s) : Upholds s (ownResume s st u).1 := by
  unfold ownResume
  split
  · exact .refl s
  · split
    · exact .refl s
    · next m =>
      split
      · exact .refl s
      · obtain ⟨remembered, -⟩ := h
        rcases remembered (by simpa using m) with e | e <;> rw [e]
        · exact changeMode_upholds s .run none (by decide)
        · exact changeMode_upholds s .quiet none (by decide)

/-- An empty register with empty handles and an empty urgent list meets the laws. -/
theorem Upholds.of_empty {s t : State} (trains : t.tr.trains = ⟨[]⟩) (handles : t.tr.handles = ⟨[]⟩)
    (records : t.ss.trains = ⟨[]⟩) (urgent : t.ss.urgent = []) : Upholds s t := by
  have no_train : ∀ k, t.train? k = none := fun k => by rw [State.train?, trains]; rfl
  have no_handle : ∀ c, t.handles c = {} := fun c => by rw [State.handles, handles]; rfl
  refine ⟨fun _ => ⟨?_, ?_, ?_, ?_⟩, fun _ _ => ⟨?_, ?_⟩, fun _ _ => ⟨?_, ?_⟩, fun _ _ => ⟨?_, ?_, ?_⟩⟩
  · rw [trains]; exact Tab.empty_wf
  · simp [trains, Tab.keys]
  · simp [no_train]
  · exact fun _ => by rw [trains]
  · rw [handles]; exact Tab.empty_wf
  · intro c i k hk
    have none_ : ∀ i, Handles.get {} i = 0 := fun i => by unfold Handles.get; split <;> rfl
    simp [no_train, no_handle, none_, hk.symm]
  · simp [no_train]
  · simp [no_train]
  · rw [records]; exact Tab.empty_wf
  · rw [urgent]; exact List.nodup_nil
  · simp [urgent]

theorem ownResetLayout_upholds (s : State) (st : Nat) (u : Unit) : Upholds s (ownResetLayout s st u).1 := by
  refine Upholds.fst_ite (.refl s) ?_
  show Upholds s s.resetLayout
  unfold State.resetLayout
  dsimp only
  refine Upholds.trans ?_ (Upholds.foldl (fun s (r : Nat × PointRec) => detection_upholds s r.1) _ _)
  exact (Upholds.of_empty rfl rfl rfl rfl).trans (stopSignals_upholds _)

theorem powerUp_upholds (s : State) : Upholds s s.powerUp :=
  ((Upholds.of_empty (s := s) rfl rfl rfl rfl).trans (stopSignals_upholds _)).trans (putFs_upholds _ _)

/-! ### Frames -/

/-- The link's fields, the bytes it sends and the order of hand-offs are no part of the register's laws. -/
theorem putClp_upholds (s : State) (p : CLP) : Upholds s { s with clp := p } := .of_fields rfl rfl rfl id

theorem openFrame_upholds (s : State) (f : Frame) : Upholds s (s.openFrame f) := .of_fields rfl rfl rfl id

theorem reportStation_upholds (s : State) (n : Nat) : Upholds s (s.reportStation n) :=
  Upholds.ite (.refl s) (by
    show Upholds s (s.restartKeepAlive n)
    exact Upholds.ite (.refl s) (putKeepAlive_upholds s n _))

/-- A request keeps the laws that its owner's answer and the closing of its event keep. -/
theorem takeFrame_upholds {α : Type} {s : State} {code : Nat} {f : Frame} {p : Parse α}
    {owner : State → Nat → α → State × Answer} {close : State → State}
    (own : ∀ a, decodeAll p f.params = some a → Upholds (s.openFrame f) (owner (s.openFrame f) f.station.toNat a).1)
    (c : ∀ u, Upholds u (close u)) : Upholds s (s.takeFrame code f p owner close) := by
  have base := openFrame_upholds s f
  unfold State.takeFrame State.handFrame State.answered
  dsimp only
  refine Upholds.ite base (Upholds.ite (base.trans (putClp_upholds _ _)) ?_)
  split
  · exact base.trans (putClp_upholds _ _)
  · split
    · exact base.trans (putClp_upholds _ _)
    · next a e =>
      have r := base.trans (own a e)
      exact ((Upholds.ite r (r.trans (c _))).trans (reportStation_upholds _ _)).trans (putClp_upholds _ _)

theorem takeRequest_upholds {α : Type} {s : State} {code : Nat} {f : Frame} {p : Parse α}
    {owner : State → Nat → α → State × Answer} (own : ∀ u st a, Upholds u (owner u st a).1) :
    Upholds s (s.takeRequest code f p owner) :=
  takeFrame_upholds (fun _ _ => own _ _ _) fun u => finish_upholds u _

theorem takeQuery_upholds {α : Type} {s : State} {code : Nat} {f : Frame} {p : Parse α}
    {owner : State → Nat → α → State × Answer} (own : ∀ u st a, Upholds u (owner u st a).1) :
    Upholds s (s.takeQuery code f p owner) :=
  takeFrame_upholds (fun _ _ => own _ _ _) .refl

/-- A request that only reads. -/
theorem takeQuery_upholds' {α : Type} {s : State} {code : Nat} {f : Frame} {p : Parse α}
    {owner : State → Nat → α → State × Answer} (own : ∀ u st a, (owner u st a).1 = u) :
    Upholds s (s.takeQuery code f p owner) :=
  takeQuery_upholds fun u st a => by rw [own]; exact .refl u

/-- R173: an ENTER TRAIN carries at most six span sections. -/
theorem parseEnter_yields : Yields parseEnter fun a => a.span.length ≤ 6 := by
  refine Yields.any fun number => Yields.any fun cls => Yields.any fun length => ?_
  refine (listOf_yields (P := fun _ => True) (fun _ _ _ _ => trivial) 6).bind fun span few => ?_
  obtain ⟨few, -⟩ := few
  exact Yields.any fun dir => Yields.any fun sense => Yields.any fun choice => Yields.pure few

theorem decodeAll_yields {α : Type} {p : Parse α} {P : α → Prop} (h : Yields p P) {l : List Byte} {a : α}
    (e : decodeAll p l = some a) : P a :=
  h l a [] (decodeAll_eq_some.1 e)

theorem fetchNotice_upholds (s : State) (g : FetchStage) : Upholds s (s.fetchNoticeFrame g) := by
  have out : ∀ (u : State) (l : List Byte) (p : CLP), Upholds u { u with linkOut := l, clp := p } := fun u l p =>
    .of_fields rfl rfl rfl id
  unfold State.fetchNoticeFrame
  split
  · exact Upholds.ite (out s _ s.clp) ((out s _ _).trans (out _ _ _))
  · exact out s _ _
  · exact out s _ _

/-! ### Timers -/

theorem setOrder_upholds (s : State) (order : List Block) : Upholds s { s with order := order } := .of_fields rfl rfl rfl id

/-- A timer whose last tick it is runs its event; otherwise nothing happens. -/
theorem expiry_upholds {c : Prop} [Decidable c] {s t u v : State} (hu : Upholds s u) (hv : Upholds s v)
    (h : (if c then .next u else .next v : Host.Outcome State Fault Refusal) = .next t) : Upholds s t := by
  split at h
  · cases h; exact hu
  · cases h; exact hv

/-- An event that begins with its order of hand-offs and ends with the closing of the event. -/
theorem ordered_upholds {s : State} {order : List Block} {t : State} {before : List Nat}
    (h : Upholds ({ s with order := order } : State) t) : Upholds s (t.finish before) :=
  ((setOrder_upholds s order).trans h).trans (finish_upholds t before)

theorem execKeepAliveExpiry_upholds {s t : State} {cab : Nat} {order : List Block}
    (h : execKeepAliveExpiry cab order s = .next t) : Upholds s t := by
  unfold execKeepAliveExpiry at h
  dsimp only at h
  split at h
  · exact expiry_upholds (ordered_upholds (expireCab_upholds _ cab)) (setOrder_upholds s order) h
  · cases h; exact setOrder_upholds s order

theorem execApproachTimerExpiry_upholds {s t : State} {slot : Nat} {order : List Block}
    (h : execApproachTimerExpiry slot order s = .next t) : Upholds s t := by
  unfold execApproachTimerExpiry at h
  dsimp only at h
  split at h
  · cases h; exact setOrder_upholds s order
  · exact expiry_upholds (ordered_upholds ((approachExpired_rail _ slot).upholds (approachExpired_ss _ _)))
      (setOrder_upholds s order) h

theorem execPulseExpiry_upholds {s t : State} {point : Nat} (h : execPulseExpiry point s = .next t) : Upholds s t := by
  unfold execPulseExpiry at h
  split at h
  · cases h; exact .refl s
  · exact expiry_upholds ((endPulse_rail s point).upholds (endPulse_ss s point)) (.refl s) h

theorem execThrowTimeout_upholds {s t : State} {point : Nat} {order : List Block}
    (h : execThrowTimeout point order s = .next t) : Upholds s t := by
  unfold execThrowTimeout at h
  dsimp only at h
  split at h
  · cases h; exact setOrder_upholds s order
  · exact expiry_upholds (ordered_upholds ((failThrow_rail _ point).upholds (failThrow_ss _ _))) (setOrder_upholds s order) h

theorem execTurntableTimerExpiry_upholds {s t : State} {order : List Block}
    (h : execTurntableTimerExpiry order s = .next t) : Upholds s t := by
  unfold execTurntableTimerExpiry at h
  dsimp only at h
  split at h
  · cases h; exact setOrder_upholds s order
  · exact expiry_upholds (ordered_upholds (((tableTimeout_rail _).trans (wantArbitrate_rail _)).upholds (by simp)))
      (setOrder_upholds s order) h

theorem execDemoTimeout_upholds {s t : State} {order : List Block} (h : execDemoTimeout order s = .next t) :
    Upholds s t := by
  unfold execDemoTimeout at h
  dsimp only at h
  split at h
  · cases h; exact setOrder_upholds s order
  · exact expiry_upholds (ordered_upholds ((endDemo_inner _ _).upholds (endDemo_ss _ _))) (setOrder_upholds s order) h

theorem execDwellEnd_upholds {s t : State} {slot : Nat} {order : List Block} (h : execDwellEnd slot order s = .next t) :
    Upholds s t := by
  unfold execDwellEnd at h
  dsimp only at h
  split at h
  · cases h; exact setOrder_upholds s order
  · exact expiry_upholds (ordered_upholds ((endDwell_inner _ slot).upholds (endDwell_ss _ _))) (setOrder_upholds s order) h

theorem execOrderCompletion_upholds {s t : State} (h : execOrderCompletion s = .next t) : Upholds s t := by
  unfold execOrderCompletion at h
  split at h
  · cases h; exact .refl s
  · cases h
    have idle : Upholds s { s with ss := { s.ss with port := none } } :=
      have rail := putSs_rail s { s.ss with port := none }
      ⟨fun r => (rail.register r).1, fun r => (rail.register r).2, fun _ l => l.of_spans rail.spans,
        fun _ u => u.of_ss rfl rfl fun _ => id⟩
    exact idle.trans (kickPort_upholds _)

theorem execUnknownRequest_upholds {s t : State} {code : Byte} {f : Frame} (h : execUnknownRequest code f s = .next t) :
    Upholds s t := by
  have base := openFrame_upholds s f
  unfold execUnknownRequest at h
  split at h
  · cases h
  · cases h
    exact Upholds.ite base (Upholds.ite (base.trans (putClp_upholds _ _)) (base.trans (putClp_upholds _ _)))

/-! ### Every command -/

/-- R42, R43, R124: every command keeps the laws of the train register. -/
theorem exec_upholds {c : Instr} {s t : State} (modes : ModeLaw s) (h : exec c s = .next t) : Upholds s t := by
  cases c with
  | powerUp => cases h; exact powerUp_upholds s
  | resetPin => cases h; exact powerUp_upholds s
  | planClear f => cases h; exact takeRequest_upholds ownPlanClear_upholds
  | planWrite f => cases h; exact takeRequest_upholds ownPlanWrite_upholds
  | planRead f => cases h; exact takeQuery_upholds' ownPlanRead_fst
  | planCheck f => cases h; exact takeQuery_upholds ownPlanCheck_upholds
  | planSave f => cases h; exact takeQuery_upholds ownPlanSave_upholds
  | saveEnd matched => cases h; exact saveEnds_upholds s matched
  | planLoad f => cases h; exact takeRequest_upholds ownPlanLoad_upholds
  | goRun f => cases h; exact takeRequest_upholds ownGoRun_upholds
  | goQuiet f => cases h; exact takeRequest_upholds ownGoQuiet_upholds
  | stopAll f => cases h; exact takeRequest_upholds ownStopAll_upholds
  | resume f =>
    cases h
    exact takeFrame_upholds (fun a _ => ownResume_upholds _ _ a ((openFrame_keeps s f).modes modes)) fun u => finish_upholds u _
  | resetLayout f => cases h; exact takeRequest_upholds ownResetLayout_upholds
  | enterTrain f =>
    cases h
    exact takeFrame_upholds (fun a e => ownEnterTrain_upholds _ _ a (decodeAll_yields parseEnter_yields e))
      fun u => finish_upholds u _
  | retireTrain f => cases h; exact takeRequest_upholds ownRetireTrain_upholds
  | acquireTrain f => cases h; exact takeQuery_upholds ownAcquireTrain_upholds
  | releaseTrain f => cases h; exact takeRequest_upholds ownReleaseTrain_upholds
  | setSpeed f => cases h; exact takeRequest_upholds ownSetSpeed_upholds
  | reverseTrain f => cases h; exact takeRequest_upholds ownReverseTrain_upholds
  | hold f => cases h; exact takeRequest_upholds fun u st a => forSelected_upholds u st a _ (holdTrain_upholds true)
  | unhold f => cases h; exact takeRequest_upholds fun u st a => forSelected_upholds u st a _ (holdTrain_upholds false)
  | setAuto f => cases h; exact takeQuery_upholds ownSetAuto_upholds
  | keepAlive f => cases h; exact takeQuery_upholds' fun _ _ _ => rfl
  | seekTrain f => cases h; exact takeQuery_upholds ownSeekTrain_upholds
  | readTrainField f => cases h; exact takeQuery_upholds ownReadTrainField_upholds
  | readTrainRecord f => cases h; exact takeQuery_upholds ownReadTrainRecord_upholds
  | keepAliveExpiry cab order => exact execKeepAliveExpiry_upholds h
  | setRoute f => cases h; exact takeRequest_upholds ownSetRoute_upholds
  | cancelRoute f => cases h; exact takeRequest_upholds ownCancelRoute_upholds
  | approachTimerExpiry slot order => exact execApproachTimerExpiry_upholds h
  | pointTest f => cases h; exact takeRequest_upholds ownPointTest_upholds
  | readRoute f => cases h; exact takeQuery_upholds' ownReadRoute_fst
  | readSection f => cases h; exact takeQuery_upholds' ownReadSection_fst
  | readPoint f => cases h; exact takeQuery_upholds' ownReadPoint_fst
  | readSignal f => cases h; exact takeQuery_upholds' ownReadSignal_fst
  | clearFault f => cases h; exact takeRequest_upholds ownClearFault_upholds
  | pulseExpiry point => exact execPulseExpiry_upholds h
  | throwTimeout point order => exact execThrowTimeout_upholds h
  | homeTurntable f =>
    cases h
    exact takeRequest_upholds fun u st _ => (askHome_rail u st).upholds (askHome_ss u st)
  | turn f => cases h; exact takeRequest_upholds ownTurn_upholds
  | withdrawTurn f => cases h; exact takeRequest_upholds ownWithdrawTurn_upholds
  | readTurntable f => cases h; exact takeQuery_upholds' fun _ _ _ => rfl
  | turntableTimerExpiry order => exact execTurntableTimerExpiry_upholds h
  | startDemo f => cases h; exact takeRequest_upholds ownStartDemo_upholds
  | stopDemo f => cases h; exact takeRequest_upholds ownStopDemo_upholds
  | readBoard f => cases h; exact takeQuery_upholds' ownReadBoard_fst
  | readPanel f => cases h; exact takeQuery_upholds' ownReadPanel_fst
  | demoTimeout order => exact execDemoTimeout_upholds h
  | dwellEnd slot order => exact execDwellEnd_upholds h
  | cooldownExpiry panel =>
    exact expiry_upholds (u := s.cooldownTick panel) (.of_fields rfl rfl rfl id) (.refl s) h
  | clearStatus f =>
    cases h
    exact takeQuery_upholds fun u st a => Upholds.fst_ite (.refl u) (putClp_upholds u _)
  | setNoticeMask f =>
    cases h
    exact takeQuery_upholds fun u st a =>
      Upholds.fst_ite (.refl u) (Upholds.fst_ite (.refl u) (putClp_upholds u _))
  | identify f => cases h; exact takeQuery_upholds' fun _ _ _ => rfl
  | fetchReply n => cases h; exact Upholds.ite (.of_fields rfl rfl rfl id) (.of_fields rfl rfl rfl id)
  | fetchNotice g => cases h; exact fetchNotice_upholds s g
  | layoutTick raw order => cases h; exact (setOrder_upholds s order).trans (tick_upholds _ raw)
  | scanCompletion fdi order => cases h; exact (setOrder_upholds s order).trans (completeScan_upholds _ fdi)
  | orderCompletion => exact execOrderCompletion_upholds h
  | unknownRequest code f => exact execUnknownRequest_upholds h

/-- Settles O8. -/
theorem registerAndHandleLawsKept : Obligations.RegisterAndHandleLawsKept := by
  intro s t modes register h
  have upholds : Upholds s t := by
    unfold step at h
    split at h
    · cases h; exact .refl s
    · next c rest _ =>
      have begins : Upholds s { s with pending := rest } := .of_fields rfl rfl rfl id
      exact begins.trans (exec_upholds modes h)
  exact ⟨upholds.register register, upholds.handles register, upholds.spans register, upholds.urgent register⟩

end Sys2Proof.Machine
end

section
/-! PROOFS. Reading the register: SEEK TRAIN, READ TRAIN FIELD and READ TRAIN RECORD (R56 to R58). -/
namespace Sys2Proof.Machine

/-! ### Parameters and numbers (R173) -/

theorem decode_u8 (b : Byte) : decodeAll u8 [b] = some b.toNat := rfl

theorem decode_u16 (hi lo : Byte) : decodeAll u16 [hi, lo] = some (pair hi lo) := rfl

/-- R173: a number of two bytes is sent as those bytes. -/
theorem two_pair (hi lo : Byte) : two (pair hi lo) = [hi, lo] := by
  have h := hi.isLt
  have l := lo.isLt
  simp only [two, pair, List.cons.injEq, and_true]
  constructor
  · rw [show (hi.toNat * 256 + lo.toNat) / 256 = hi.toNat by omega, BitVec.ofNat_toNat, BitVec.setWidth_eq]
  · apply BitVec.eq_of_toNat_eq
    rw [BitVec.toNat_ofNat]
    omega

/-! ### SEEK TRAIN (R56) -/

/-- R56: where the cursor goes, and what is answered, for a number that may be sought. -/
theorem ownSeekTrain_found (s : State) (st n : Nat) (h : 1 ≤ n ∧ n ≤ 9999) : ownSeekTrain s st n =
    ({ s with tr := { s.tr with cursor := (s.slotOf n).getD 0, vacated := false, repeatField := none } },
      .done (one ((s.slotOf n).getD 0) ++ two (if (s.slotOf n).isSome then n else 0))) := by
  unfold ownSeekTrain
  rw [if_neg (by simp; omega)]

theorem ownSeekTrain_refused (s : State) (st n : Nat) (h : n = 0 ∨ 9999 < n) :
    ownSeekTrain s st n = (s, .refused .range []) := by
  unfold ownSeekTrain
  rw [if_pos (by simp; omega)]

/-- Settles O21. -/
theorem seekTrain : Obligations.SeekTrain := by
  intro f st s hi lo register carries listening
  have answers : ∀ {w r}, ownSeekTrain (s.openFrame f) st (pair hi lo) = (w, r) →
      exec (.seekTrain f) s = .next (w.answeredWith f 0x3A r) := fun own =>
    congrArg Host.Outcome.next (takeQuery_answers carries listening (decode_u16 hi lo) own)
  refine ⟨fun out => answers (ownSeekTrain_refused _ st _ out), fun low high => ⟨fun slot x train number => ?_, fun absent => ?_⟩⟩
  · have found : (s.openFrame f).slotOf (pair hi lo) = some slot := slotOf_some register train number
    refine answers ((ownSeekTrain_found _ st _ ⟨low, high⟩).trans ?_)
    rw [found, Option.isSome_some, if_pos rfl, two_pair]
    rfl
  · have missing : (s.openFrame f).slotOf (pair hi lo) = none := slotOf_absent register.rising absent
    refine answers ((ownSeekTrain_found _ st _ ⟨low, high⟩).trans ?_)
    rw [missing, Option.isSome_none, if_neg Bool.false_ne_true]
    rfl

/-! ### READ TRAIN FIELD (R57) -/

/-- R57: the first slot behind the cursor that has a train. -/
theorem keys_find_next {s : State} (w : s.tr.trains.Wf) {slot c : Nat} {x : Train} (h : s.train? slot = some x) (behind : c < slot)
    (between : ∀ k, c < k → k < slot → s.train? k = none) :
    s.tr.trains.keys.find? (fun k => decide (c < k)) = some slot := by
  have mem : slot ∈ s.tr.trains.keys := mem_keys_of_get? _ _ _ h
  obtain ⟨l, r, split⟩ := List.append_of_mem mem
  rw [List.find?_eq_some_iff_append]
  refine ⟨by simpa using behind, l, r, split, fun k hk => ?_⟩
  have below : k < slot := by
    have rising : (l ++ slot :: r).Pairwise (· < ·) := split ▸ w
    exact (List.pairwise_append.1 rising).2.2 k hk slot (List.mem_cons_self ..)
  obtain ⟨y, hy⟩ := get?_of_mem_keys s.tr.trains k (by rw [split]; exact List.mem_append_left _ hk)
  by_contra after
  have := between k (by simpa using after) below
  rw [State.train?, hy] at this
  contradiction

theorem keys_find_none {s : State} {c : Nat} (h : ∀ k, c < k → s.train? k = none) :
    s.tr.trains.keys.find? (fun k => decide (c < k)) = none := by
  rw [List.find?_eq_none]
  intro k hk after
  obtain ⟨y, hy⟩ := get?_of_mem_keys s.tr.trains k hk
  have := h k (by simpa using after)
  rw [State.train?, hy] at this
  contradiction

theorem advances_iff (s : State) (f : Nat) :
    s.advances f = true ↔ s.tr.repeatField = some f ∨ s.tr.cursor = 0 ∨ s.tr.vacated = true := by
  simp [State.advances, or_assoc]

theorem readSlot_advancing {s : State} {f : Nat} (h : s.advances f = true) :
    s.readSlot f = s.tr.trains.keys.find? (fun k => decide (s.tr.cursor < k)) := if_pos h

theorem readSlot_staying {s : State} {f : Nat} (h : ¬s.advances f = true) : s.readSlot f = some s.tr.cursor := if_neg h

theorem ownReadTrainField_refused (s : State) (st f : Nat) (h : 13 < f) :
    ownReadTrainField s st f = (s, .refused .range []) := if_pos h

theorem ownReadTrainField_found {s : State} {f k : Nat} {x : Train} (st : Nat) (h : f ≤ 13) (slot : s.readSlot f = some k)
    (train : s.train? k = some x) : ownReadTrainField s st f =
      ({ s with tr := { s.tr with cursor := k, vacated := false, repeatField := some f } },
        .done (one k ++ two x.number ++ x.field f)) := by
  unfold ownReadTrainField
  rw [if_neg (by omega), slot]
  simp only [Option.bind_some, train]
  rfl

theorem ownReadTrainField_end {s : State} {f : Nat} (st : Nat) (h : f ≤ 13) (slot : s.readSlot f = none) :
    ownReadTrainField s st f =
      ({ s with tr := { s.tr with cursor := 0, vacated := false, repeatField := some f } }, .done [0#8, 0#8, 0#8]) := by
  unfold ownReadTrainField
  rw [if_neg (by omega), slot]
  rfl

/-! The named values as they are sent (R173). -/

theorem one_code_class (c : TrainClass) : one (code trainClasses c) = [match c with
    | .express => 0#8 | .stopping => 1#8 | .goods => 2#8 | .shunting => 3#8 | .lightEngine => 4#8 | .demo => 5#8] := by
  cases c <;> rfl

theorem one_code_dir (d : Dir) : one (code dirs d) = [match d with | .east => 0#8 | .west => 1#8] := by
  cases d <;> rfl

theorem one_code_sense (x : Sense) : one (code senses x) = [match x with | .forward => 0#8 | .backward => 1#8] := by
  cases x <;> rfl

theorem one_code_state (x : TrainState) :
    one x.code = [match x with | .active => 0#8 | .held => 1#8 | .turning => 2#8 | .lost => 3#8] := by
  cases x <;> rfl

theorem flatMap_one (l : List Nat) : l.flatMap one = l.map byte := by
  induction l with
  | nil => rfl
  | cons x l ih => rw [List.flatMap_cons, ih]; rfl

/-- R174: the span bytes of a span of at most six sections. -/
theorem spanBytes_short (l : List Nat) (h : l.length ≤ 6) : spanBytes l = l.map byte ++ List.replicate (6 - l.length) 0#8 := by
  rw [spanBytes, flatMap_one, List.take_append, List.take_of_length_le (by simpa using h), List.length_map,
    List.take_replicate, Nat.min_eq_left (by omega)]

theorem one_flags (a o : Bool) : one ((if a then 1 else 0) + (if o then 2 else 0)) =
    [(if a then 1#8 else 0#8) + (if o then 2#8 else 0#8)] := by
  cases a <;> cases o <;> rfl

/-! ### READ TRAIN RECORD (R58, R174) -/

theorem ownReadTrainRecord_found {s : State} {x : Train} (st : Nat) (u : Unit) (c : s.tr.cursor ≠ 0) (v : s.tr.vacated = false)
    (h : s.train? s.tr.cursor = some x) : ownReadTrainRecord s st u =
      ({ s with tr := { s.tr with repeatField := none } }, .done (x.readOut s.tr.cursor)) := by
  unfold ownReadTrainRecord
  rw [if_neg (by simp [c, v]), h]

theorem ownReadTrainRecord_end {s : State} (st : Nat) (u : Unit) (h : s.tr.cursor = 0 ∨ s.tr.vacated = true) :
    ownReadTrainRecord s st u = ({ s with tr := { s.tr with repeatField := none } }, .done [0#8]) := by
  unfold ownReadTrainRecord
  rw [if_pos h]

/-- Settles O22. -/
theorem registerReads : Obligations.RegisterReads := by
  refine ⟨fun f st s b rising carries listening => ?_, fun f st s carries listening => ?_⟩
  · have answers : ∀ {w r}, ownReadTrainField (s.openFrame f) st b.toNat = (w, r) →
        exec (.readTrainField f) s = .next (w.answeredWith f 0x3B r) := fun own =>
      congrArg Host.Outcome.next (takeQuery_answers carries listening (decode_u8 b) own)
    refine ⟨fun out => answers (ownReadTrainField_refused _ st _ out), fun field => ⟨fun slot x value train moved stated => ?_,
      fun advancing last => ?_⟩⟩
    · have found : s.readSlot b.toNat = some slot := by
        rcases moved with ⟨advancing, behind, between⟩ | ⟨fresh, set, kept, here⟩
        · rw [readSlot_advancing ((advances_iff s _).2 advancing)]
          exact keys_find_next rising train behind between
        · rw [readSlot_staying, here]
          simp [advances_iff, fresh, set, kept]
      have sent : value = x.field b.toNat := by
        revert stated
        generalize b.toNat = n at field
        intro stated
        interval_cases n
        · exact stated
        · exact stated.trans (one_code_class x.cls).symm
        · exact stated
        · rw [stated]
          show _ = x.owner.bytes
          cases x.owner <;> rfl
        · rw [stated]
          exact congrArg (byte x.span.length :: ·) (flatMap_one x.span).symm
        · exact stated.trans (one_code_dir x.dir).symm
        · exact stated.trans (one_code_sense x.sense).symm
        · exact stated.trans (one_code_state x.state).symm
        all_goals exact stated
      rw [sent]
      exact answers (ownReadTrainField_found (s := s.openFrame f) st field found train)
    · have ended : s.readSlot b.toNat = none := by
        rw [readSlot_advancing ((advances_iff s _).2 advancing)]
        exact keys_find_none last
      exact answers (ownReadTrainField_end (s := s.openFrame f) st field ended)
  · have answers : ∀ {w r}, ownReadTrainRecord (s.openFrame f) st () = (w, r) →
        exec (.readTrainRecord f) s = .next (w.answeredWith f 0x3C r) := fun own =>
      congrArg Host.Outcome.next (takeQuery_answers carries listening decodeAll_noParams own)
    refine ⟨fun x owner set kept train short stated => ?_, fun ended => answers (ownReadTrainRecord_end _ _ ended)⟩
    have owned : owner = x.owner.bytes := by
      cases e : x.owner <;> rw [e] at stated <;> exact stated
    rw [owned, answers (ownReadTrainRecord_found (s := s.openFrame f) st () set kept train)]
    congr 3
    simp only [Train.readOut, one_code_class, one_code_dir, one_code_sense, one_code_state, one_flags, spanBytes_short _ short,
      List.append_assoc, List.cons_append, List.nil_append, opt2]
    rfl

end Sys2Proof.Machine
end

section
/-! PROOFS. A reference that names no train is refused before anything else is tested (R44). -/
namespace Sys2Proof.Machine

/-! ### Parameters (R173) -/

theorem decode_setSpeed (hi lo g : Byte) : decodeAll parseSetSpeed [hi, lo, g] = some (pair hi lo, g.toNat) := rfl

theorem flag_bit (b : Byte) (l : List Byte) (h : b = 0#8 ∨ b = 1#8) : flag (b :: l) = some (decide (b = 1#8), l) := by
  rcases h with rfl | rfl <;> rfl

theorem decode_setRoute (a b hi lo level stack : Byte) (h : stack = 0#8 ∨ stack = 1#8) :
    decodeAll parseSetRoute [a, b, hi, lo, level, stack] =
      some (pair a b, pair hi lo, level.toNat, decide (stack = 1#8)) := by
  rw [decodeAll_eq_some, parseSetRoute]
  simp only [parse_bind, u16_cons, u8_cons, Option.bind_some, flag_bit _ _ h]
  rfl

theorem decode_turn (road e level follow hi lo : Byte) (h : follow = 0#8 ∨ follow = 1#8) :
    decodeAll parseTurn [road, e, level, follow, hi, lo] =
      some (road.toNat, e.toNat, level.toNat, decide (follow = 1#8), pair hi lo) := by
  rw [decodeAll_eq_some, parseTurn]
  simp only [parse_bind, u16_cons, u8_cons, Option.bind_some, flag_bit _ _ h]
  rfl

theorem decode_withdrawTrain (hi lo : Byte) : decodeAll parseWithdraw [0#8, hi, lo] = some (.train (pair hi lo)) := rfl

/-! ### What refuses a reference -/

theorem numberFor_error {s : State} {st ref : Nat} {r : Reason} (cab : st ≠ 0) (train : ref ≠ 0)
    (h : s.resolveRef st ref = .error r) : s.numberFor st ref = .error r := by
  unfold State.numberFor
  rw [if_neg train, if_neg cab, h]

/-- Settles O24. -/
theorem referencesResolve : Obligations.ReferencesResolve := by
  intro f st s hi lo r rising listening bad
  have refused : (s.openFrame f).resolveRef st (pair hi lo) = .error r := bad.refuses rising
  refine ⟨fun c => ?_, fun c => ?_, fun g c => ?_, fun c => ?_, fun cab train => ?_⟩
  · refine congrArg Host.Outcome.next (takeRequest_refuses c listening (decode_u16 hi lo) ?_)
    rw [ownRetireTrain, refused]
  · refine congrArg Host.Outcome.next (takeRequest_refuses c listening (decode_u16 hi lo) ?_)
    rw [ownReleaseTrain, refused]
  · refine congrArg Host.Outcome.next (takeRequest_refuses c listening (decode_setSpeed hi lo g) ?_)
    rw [ownSetSpeed, refused]
  · refine congrArg Host.Outcome.next (takeRequest_refuses c listening (decode_u16 hi lo) ?_)
    rw [ownReverseTrain, refused]
  have number := numberFor_error cab train refused
  refine ⟨fun a b level stack bit c => ?_, fun road e level follow bit c => ?_, fun c => ?_⟩
  · refine congrArg Host.Outcome.next (takeRequest_refuses c listening (decode_setRoute a b hi lo level stack bit) ?_)
    rw [ownSetRoute, number]
  · refine congrArg Host.Outcome.next (takeRequest_refuses c listening (decode_turn road e level follow hi lo bit) ?_)
    rw [ownTurn, number]
  · refine congrArg Host.Outcome.next (takeRequest_refuses c listening (decode_withdrawTrain hi lo) ?_)
    rw [ownWithdrawTurn, State.findTurn, number]

end Sys2Proof.Machine
end

section
/-! PROOFS. ACQUIRE TRAIN by its table of owners (R48). -/
namespace Sys2Proof.Machine

/-! ### Handles and keep-alives (R43, R54) -/

theorem lowest_eq_some {h : Handles} {i : Nat} (low : 1 ≤ i) (high : i ≤ 3) (empty : h.get i = 0)
    (below : ∀ j, 1 ≤ j → j < i → h.get j ≠ 0) : h.lowest = some i := by
  unfold Handles.lowest
  obtain rfl | rfl | rfl : i = 1 ∨ i = 2 ∨ i = 3 := by omega
  · exact if_pos empty
  · exact (if_neg (below 1 (by omega) (by omega))).trans (if_pos empty)
  · exact ((if_neg (below 1 (by omega) (by omega))).trans (if_neg (below 2 (by omega) (by omega)))).trans (if_pos empty)

theorem lowest_eq_none {h : Handles} : h.lowest = none ↔ h.h1 ≠ 0 ∧ h.h2 ≠ 0 ∧ h.h3 ≠ 0 := by
  unfold Handles.lowest
  split_ifs <;> simp_all

theorem set_ne_empty {h : Handles} {i k : Nat} (low : 1 ≤ i) (high : i ≤ 3) (z : k ≠ 0) : h.set i k ≠ {} := fun e => by
  have got : (h.set i k).get i = k := by simp [handles_get_set, low, high]
  rw [e] at got
  exact z (by rw [← got]; unfold Handles.get; split <;> rfl)

/-- R43, R54: what a train's leaving of its owner does to handles and keep-alives. -/
theorem dropHandle_freed (s : State) (o : Owner) (handles : s.tr.handles.Wf) (keepAlive : s.tr.keepAlive.Wf) :
    HandleFreed s o (s.dropHandle o).tr.handles (s.dropHandle o).tr.keepAlive := by
  cases o with
  | cab c h =>
    have put := fun j => handles_put s c j ((s.handles c).set h 0) handles
    have own : (s.putHandles c ((s.handles c).set h 0)).handles c = (s.handles c).set h 0 := by rw [put, if_pos rfl]
    simp only [State.dropHandle, own]
    split
    · next empty =>
      refine ⟨put, fun j => ?_⟩
      by_cases e : j = c
      · subst e
        rw [if_pos ⟨rfl, empty⟩]
        exact Tab.getD_putD_same _ _ _ _ keepAlive
      · rw [if_neg (fun k => e k.1)]
        exact Tab.getD_putD_ne _ _ _ e
    · next left => exact ⟨put, fun j => by rw [if_neg (fun k => left k.2)]; rfl⟩
  | nobody => exact ⟨rfl, rfl⟩
  | supervisor => exact ⟨rfl, rfl⟩
  | awu => exact ⟨rfl, rfl⟩

theorem updTrain_some {s : State} {k : Nat} {x : Train} (h : s.train? k = some x) (g : Train → Train) :
    s.updTrain k g = s.putTrain k (g x) := by
  unfold State.updTrain
  rw [h]

/-- R48: a train's owner rewritten, its handle given up. -/
theorem giveTo_eq {s : State} {k : Nat} {x : Train} (h : s.train? k = some x) (o : Owner) : s.giveTo k x o =
    { s with tr := { s.tr with
      trains := s.tr.trains.put k { x with owner := o }, handles := (s.dropHandle x.owner).tr.handles,
      keepAlive := (s.dropHandle x.owner).tr.keepAlive } } := by
  obtain ⟨trains, -, -⟩ := dropHandle_fields s x.owner
  have same : (s.dropHandle x.owner).train? k = some x := by rw [State.train?, trains]; exact h
  rw [State.giveTo, updTrain_some same, dropHandle_frame]
  rfl

/-- R43, R54: what giving a train to a cab writes. -/
theorem giveToCab_tables {s : State} {k c i : Nat} {x : Train} (h : s.train? k = some x)
    (low : (s.handles c).lowest = some i) :
    (s.giveToCab k c).tr.trains = s.tr.trains.put k { x with owner := .cab c i } ∧
      (s.giveToCab k c).tr.handles = Tab.putD {} s.tr.handles c ((s.handles c).set i k) ∧
      (s.tr.keepAlive.Wf → (s.giveToCab k c).tr.keepAlive.Wf) ∧
      ∀ j, j ≠ c → (s.giveToCab k c).keepAliveOf j = s.keepAliveOf j := by
  have given : (s.putHandles c ((s.handles c).set i k)).updTrain k (fun t => { t with owner := .cab c i }) =
      (s.putHandles c ((s.handles c).set i k)).putTrain k { x with owner := .cab c i } :=
    updTrain_some (s := s.putHandles c ((s.handles c).set i k)) h _
  unfold State.giveToCab
  rw [low]
  dsimp only
  rw [given]
  split
  · unfold State.restartKeepAlive
    split
    · exact ⟨rfl, rfl, id, fun _ _ => rfl⟩
    · exact ⟨rfl, rfl, putD_wf _ _ _ _, fun j e => Tab.getD_putD_ne _ _ _ e⟩
  · exact ⟨rfl, rfl, id, fun _ _ => rfl⟩

/-- R54: a cab that holds a train has its countdown restarted by the report of its request. -/
theorem reportStation_restarts {s : State} {c : Nat} (cab : c ≠ 0) (holds : s.handles c ≠ {}) :
    s.reportStation c = s.putKeepAlive c (.counting (s.keepAliveTime c)) := by
  rw [State.reportStation, if_neg cab, State.restartKeepAlive, if_neg holds]

/-! ### The request (R48) -/

theorem decode_acquire (hi lo choice : Byte) :
    decodeAll parseAcquire [hi, lo, choice] = some (pair hi lo, choice.toNat) := rfl

theorem ownAcquireTrain_range (s : State) (st n c : Nat) (h : n = 0 ∨ 9999 < n ∨ (c ≠ 255 ∧ (st ≠ 0 ∨ 1 < c))) :
    ownAcquireTrain s st (n, c) = (s, .refused .range []) := by
  unfold ownAcquireTrain
  rw [if_pos]
  simp only [Bool.not_eq_true', Bool.and_eq_false_iff, decide_eq_false_iff_not, Bool.or_eq_false_iff]
  omega

/-- R48: a request whose number and owner choice are in range. -/
structure Acquirable (st n c : Nat) : Prop where
  number : 1 ≤ n ∧ n ≤ 9999
  choice : c = 255 ∨ (st = 0 ∧ c ≤ 1)

theorem Acquirable.passes {st n c : Nat} (h : Acquirable st n c) : ¬(!(decide (1 ≤ n ∧ n ≤ 9999) &&
    (decide (c = 255) || (decide (st = 0) && decide (c ≤ 1))))) = true := by
  obtain ⟨number, choice⟩ := h
  simp
  omega

theorem ownAcquireTrain_missing {s : State} {st n c : Nat} (h : Acquirable st n c) (missing : s.slotOf n = none) :
    ownAcquireTrain s st (n, c) = (s, .refused .noSuch []) := by
  unfold ownAcquireTrain
  rw [if_neg h.passes]
  simp only [missing]

theorem ownAcquireTrain_supervisor {s : State} {n c k : Nat} {x : Train} (h : Acquirable 0 n c) (slot : s.slotOf n = some k)
    (train : s.train? k = some x) :
    ownAcquireTrain s 0 (n, c) = (s.giveTo k x (if c = 1 then .awu else .supervisor), .done []) := by
  unfold ownAcquireTrain
  rw [if_neg h.passes]
  simp only [slot, train, if_pos]

/-- R48: what a cab's request comes to, by the train's owner. -/
theorem ownAcquireTrain_cab {s : State} {st n c k : Nat} {x : Train} (h : Acquirable st n c) (slot : s.slotOf n = some k)
    (train : s.train? k = some x) (cab : st ≠ 0) : ownAcquireTrain s st (n, c) = match x.owner with
      | .nobody => match (s.handles st).lowest with
        | none => (s, .refused .tableFull [])
        | some i => (s.giveToCab k st, .done (one i))
      | .cab d i => if d = st then (s, .done (one i)) else (s, .refused .notOwner [])
      | .supervisor => (s, .refused .notOwner [])
      | .awu => (s, .refused .notOwner []) := by
  unfold ownAcquireTrain
  rw [if_neg h.passes]
  simp only [slot, train, if_neg cab] <;> rfl

/-- Settles O23. -/
theorem acquireTrain : Obligations.AcquireTrain := by
  intro f st s hi lo choice register handles keepAlive carries listening
  have answers : ∀ {w r}, ownAcquireTrain (s.openFrame f) st (pair hi lo, choice.toNat) = (w, r) →
      exec (.acquireTrain f) s = .next (w.answeredWith f 0x32 r) := fun own =>
    congrArg Host.Outcome.next (takeQuery_answers carries listening (decode_acquire hi lo choice) own)
  have sent : choice = 255#8 ↔ choice.toNat = 255 := ⟨fun e => by rw [e]; rfl, fun e => BitVec.eq_of_toNat_eq e⟩
  refine ⟨fun out => answers (ownAcquireTrain_range _ _ _ _ (by rwa [ne_eq, sent] at out)), fun low high chosen => ?_⟩
  have passes : Acquirable st (pair hi lo) choice.toNat := ⟨⟨low, high⟩, by rwa [sent] at chosen⟩
  refine ⟨fun missing => answers (ownAcquireTrain_missing passes (slotOf_absent register.rising missing)), ?_⟩
  intro slot x train number
  have found : (s.openFrame f).slotOf (pair hi lo) = some slot := slotOf_some register train number
  refine ⟨fun supervisor => ?_, fun cab => ?_⟩
  · subst supervisor
    refine ⟨_, _, dropHandle_freed (s.openFrame f) x.owner handles keepAlive,
      answers ((ownAcquireTrain_supervisor passes found train).trans ?_)⟩
    have one_ : choice.toNat = 1 ↔ choice = 1#8 := ⟨fun e => BitVec.eq_of_toNat_eq e, fun e => by rw [e]; rfl⟩
    rw [giveTo_eq (s := s.openFrame f) train]
    simp only [one_]
    rfl
  · have own := ownAcquireTrain_cab passes found train cab
    refine ⟨fun other => answers ?_, fun h mine => answers ?_, fun free h1 h2 h3 => answers ?_, fun h free low high empty below => ?_⟩
    · rw [own]
      rcases other with e | e | ⟨c, h, e, ne⟩
      · rw [e]
      · rw [e]
      · rw [e]; exact if_neg ne
    · rw [own, mine]
      exact if_pos rfl
    · have full : ((s.openFrame f).handles st).lowest = none := lowest_eq_none.2 ⟨h1, h2, h3⟩
      rw [own, free]
      simp only [full]
    · have lowest : ((s.openFrame f).handles st).lowest = some h := lowest_eq_some low high empty below
      obtain ⟨trains, given, formed, others⟩ := giveToCab_tables (s := s.openFrame f) train lowest
      have z : slot ≠ 0 := by
        have := register.slots slot (mem_keys_of_get? _ _ _ train)
        omega
      have table : ∀ c, ((s.openFrame f).giveToCab slot st).handles c =
          if c = st then (s.handles st).set h slot else s.handles c := fun c => by
        rw [State.handles, given]
        exact handles_put s st c _ handles
      have holds : ((s.openFrame f).giveToCab slot st).handles st ≠ {} := by
        rw [table, if_pos rfl]
        exact set_ne_empty low high z
      have restarts : ((s.openFrame f).giveToCab slot st).reportStation st =
          ((s.openFrame f).giveToCab slot st).putKeepAlive st (.counting ((s.plan.station st).keepAlive * 10)) := by
        rw [reportStation_restarts cab holds]
        refine congrArg (fun n => ((s.openFrame f).giveToCab slot st).putKeepAlive st (.counting n)) ?_
        rw [giveToCab_frame]
        rfl
      refine ⟨((s.openFrame f).giveToCab slot st).tr.handles,
        (((s.openFrame f).giveToCab slot st).reportStation st).tr.keepAlive, table, fun c => ?_, ?_⟩
      · rw [restarts]
        by_cases e : c = st
        · subst e
          rw [if_pos rfl]
          exact Tab.getD_putD_same _ _ _ _ (formed keepAlive)
        · rw [if_neg e]
          exact (Tab.getD_putD_ne _ _ _ e).trans (others c e)
      · have done : ownAcquireTrain (s.openFrame f) st (pair hi lo, choice.toNat) =
            ((s.openFrame f).giveToCab slot st, .done (one h)) := by
          rw [own, free]
          simp only [lowest]
        rw [answers done, State.answeredWith, carries.sender, restarts,
          show s.tr.trains.put slot { x with owner := .cab st h } = _ from trains.symm]
        conv_lhs => rw [giveToCab_frame]
        rfl

end Sys2Proof.Machine
end

section
/-! PROOFS. Requests that rewrite the records of several trains at once: HOLD, UNHOLD and SET AUTO (R52, R53), and the expiry
of a cab's keep-alive (R54, R55). -/
namespace Sys2Proof.Machine

/-! ### Tables rewritten in place -/

theorem mem_rows_keys {α : Type} {l : List (Nat × α)} {k : Nat} {x : α} (h : rowsGet l k = some x) : k ∈ l.map Prod.fst :=
  List.mem_map_of_mem (f := Prod.fst) (rowsGet_mem l k x h)

/-- Two tables in their canonical form that read alike are the same. -/
theorem Tab.eq_of_get? {α : Type} {a b : Tab α} (ha : a.Wf) (hb : b.Wf) (h : ∀ k, a.get? k = b.get? k) : a = b := by
  obtain ⟨l⟩ := a
  obtain ⟨m⟩ := b
  congr 1
  replace h : ∀ k, rowsGet l k = rowsGet m k := h
  replace ha : (l.map Prod.fst).Pairwise (· < ·) := ha
  replace hb : (m.map Prod.fst).Pairwise (· < ·) := hb
  induction l generalizing m with
  | nil =>
    cases m with
    | nil => rfl
    | cons r m => exact absurd (h r.1) (by simp [rowsGet])
  | cons r l ih =>
    cases m with
    | nil => exact absurd (h r.1) (by simp [rowsGet])
    | cons q m =>
      obtain ⟨i, x⟩ := r
      obtain ⟨j, y⟩ := q
      simp only [List.map_cons, List.pairwise_cons] at ha hb
      have first : i = j := by
        have left : j = i ∨ i ∈ m.map Prod.fst := by
          have e := h i
          by_cases eq : j = i
          · exact .inl eq
          · exact .inr (mem_rows_keys (x := x) (by simpa [rowsGet, eq] using e.symm))
        have right : i = j ∨ j ∈ l.map Prod.fst := by
          have e := h j
          by_cases eq : i = j
          · exact .inl eq
          · exact .inr (mem_rows_keys (x := y) (by simpa [rowsGet, eq] using e))
        rcases left with e | e
        · exact e.symm
        · rcases right with e' | e'
          · exact e'
          · have := ha.1 j e'
            have := hb.1 i e
            omega
      subst first
      have value : x = y := by simpa [rowsGet] using h i
      subst value
      refine congrArg ((i, x) :: ·) (ih m (fun k => ?_) ha.2 hb.2)
      by_cases eq : k = i
      · subst eq
        have below : ∀ n : List (Nat × α), (∀ a ∈ n.map Prod.fst, k < a) → rowsGet n k = none := fun n hn =>
          rowsGet_none_of_lt n k fun r hr => hn r.1 (List.mem_map_of_mem (f := Prod.fst) hr)
        rw [below l ha.1, below m hb.1]
      · simpa [rowsGet, Ne.symm eq] using h k

theorem rowsGet_mapKeyed {α β : Type} (f : Nat → α → β) (l : List (Nat × α)) (k : Nat) :
    rowsGet (l.map (fun r => (r.1, f r.1 r.2))) k = (rowsGet l k).map (f k) := by
  induction l with
  | nil => rfl
  | cons r l ih =>
    simp only [List.map_cons, rowsGet]
    split
    · next e => rw [e]; rfl
    · exact ih

theorem mapKeyed_wf {α β : Type} (f : Nat → α → β) (t : Tab α) (w : t.Wf) :
    (⟨t.rows.map (fun r => (r.1, f r.1 r.2))⟩ : Tab β).Wf := by
  simp only [Tab.Wf, Tab.keys, List.map_map] at w ⊢
  exact w

/-- A table that reads as another does, but for a function of key and value, is that table rewritten. -/
theorem Tab.eq_mapKeyed {α β : Type} {a : Tab α} {b : Tab β} (f : Nat → α → β) (ha : a.Wf) (hb : b.Wf)
    (h : ∀ k, b.get? k = (a.get? k).map (f k)) : b = ⟨a.rows.map (fun r => (r.1, f r.1 r.2))⟩ :=
  Tab.eq_of_get? hb (mapKeyed_wf f a ha) fun k => by rw [h]; exact (rowsGet_mapKeyed f a.rows k).symm

theorem mem_keys_iff {α : Type} (t : Tab α) (k : Nat) : k ∈ t.keys ↔ t.get? k ≠ none :=
  ⟨fun h => by obtain ⟨x, e⟩ := get?_of_mem_keys t k h; simp [e],
    fun h => by obtain ⟨x, e⟩ := Option.ne_none_iff_exists'.1 h; exact mem_keys_of_get? _ _ _ e⟩

/-- A rewriting of the keys that `p` picks, read at any key. -/
theorem map_picked {α : Type} (t : Tab α) (p : Nat → Bool) (g : α → α) (k : Nat) :
    (if k ∈ t.keys.filter p then (t.get? k).map g else t.get? k) =
      (t.get? k).map (fun x => if p k = true then g x else x) := by
  cases e : t.get? k with
  | none => simp
  | some x =>
    have mem : k ∈ t.keys := (mem_keys_iff t k).2 (by simp [e])
    by_cases hp : p k = true <;> simp [mem, hp]

/-! ### Train records rewritten one after another -/

theorem updTrain_train? (s : State) (k j : Nat) (g : Train → Train) :
    (s.updTrain k g).train? j = if j = k then (s.train? j).map g else s.train? j := by
  unfold State.updTrain
  split
  · next e =>
    split
    · next eq => rw [eq, e]; rfl
    · rfl
  · next x e =>
    rw [putTrain_train?]
    split
    · next eq => rw [eq, e]; rfl
    · rfl

theorem updTrain_wf (s : State) (k : Nat) (g : Train → Train) (w : s.tr.trains.Wf) : (s.updTrain k g).tr.trains.Wf :=
  (updTrain_keeps s k g).rising w

theorem foldl_updTrain (g : Train → Train) (twice : ∀ x, g (g x) = g x) (l : List Nat) (s : State) :
    l.foldl (fun s k => s.updTrain k g) s =
        { s with tr := { s.tr with trains := (l.foldl (fun s k => s.updTrain k g) s).tr.trains } } ∧
      (s.tr.trains.Wf → (l.foldl (fun s k => s.updTrain k g) s).tr.trains.Wf) ∧
      ∀ j, (l.foldl (fun s k => s.updTrain k g) s).train? j = if j ∈ l then (s.train? j).map g else s.train? j := by
  induction l generalizing s with
  | nil => exact ⟨rfl, id, fun j => by simp⟩
  | cons k l ih =>
    obtain ⟨frame, rising, trains⟩ := ih (s.updTrain k g)
    refine ⟨?_, fun w => rising (updTrain_wf s k g w), fun j => ?_⟩
    · rw [List.foldl_cons, frame]
      dsimp only
      rw [updTrain_frame s k g]
    · rw [List.foldl_cons, trains, updTrain_train?]
      by_cases e : j = k <;> by_cases m : j ∈ l <;> simp [e, m, Option.map_map, Function.comp_def, twice]

/-- R52: the trains that `p` picks, each rewritten in turn, are the register rewritten in place. -/
theorem foldl_updTrain_picked {s : State} (w : s.tr.trains.Wf) (p : Nat → Bool) (g : Train → Train)
    (twice : ∀ x, g (g x) = g x) : (s.tr.trains.keys.filter p).foldl (fun s k => s.updTrain k g) s =
      { s with tr := { s.tr with trains :=
        ⟨s.tr.trains.rows.map (fun r => (r.1, if p r.1 = true then g r.2 else r.2))⟩ } } := by
  obtain ⟨frame, rising, trains⟩ := foldl_updTrain g twice (s.tr.trains.keys.filter p) s
  rw [frame, Tab.eq_mapKeyed (fun k x => if p k = true then g x else x) w (rising w) fun k =>
    (trains k).trans (map_picked s.tr.trains p g k)]

/-! ### SET AUTO (R52, R53) -/

theorem decode_selector (form hi lo : Byte) : decodeAll selector [form, hi, lo] = some (form.toNat, pair hi lo) := rfl

theorem decode_setAuto (form hi lo v : Byte) :
    decodeAll parseSetAuto [form, hi, lo, v] = some ((form.toNat, pair hi lo), v.toNat) := rfl

theorem forSelected_error {s : State} {st : Nat} {sel : Nat × Nat} {act : State → Nat → State} {r : Reason}
    (h : s.selected st sel = .error r) : s.forSelected st sel act = (s, .refused r []) := by
  unfold State.forSelected
  rw [h]

theorem forSelected_ok {s : State} {st : Nat} {sel : Nat × Nat} {act : State → Nat → State} {l : List Nat}
    (h : s.selected st sel = .ok l) : s.forSelected st sel act = (l.foldl act s, .done []) := by
  unfold State.forSelected
  rw [h]

theorem ownSetAuto_error {s : State} {st : Nat} {sel : Nat × Nat} {v : Nat} {r : Reason} (h : s.selected st sel = .error r) :
    ownSetAuto s st (sel, v) = (s, .refused r []) := by
  unfold ownSetAuto
  rw [h]
  exact forSelected_error h

theorem ownSetAuto_value {s : State} {st : Nat} {sel : Nat × Nat} {v : Nat} {l : List Nat} (h : s.selected st sel = .ok l)
    (out : 1 < v) : ownSetAuto s st (sel, v) = (s, .refused .range []) := by
  have none_ : named [true, false] v = none := List.getElem?_eq_none (by simp; omega)
  unfold ownSetAuto
  rw [h, none_]

theorem ownSetAuto_done {s : State} {st : Nat} {sel : Nat × Nat} {v : Nat} {l : List Nat} (h : s.selected st sel = .ok l)
    (value : v ≤ 1) : ownSetAuto s st (sel, v) =
      (l.foldl (fun s k => s.updTrain k fun t => { t with auto := decide (v = 0) }) s, .done []) := by
  unfold ownSetAuto
  rw [h]
  obtain rfl | rfl : v = 0 ∨ v = 1 := by omega
  · exact forSelected_ok h
  · exact forSelected_ok h

/-! ### HOLD and UNHOLD (R52, R53) -/

/-- R53: what HOLD, or UNHOLD, makes of a train. -/
def Train.heldAs (held : Bool) (x : Train) : Train :=
  if held then if x.state = .active then { x with state := .held } else x
  else if x.state = .held then { x with state := .active } else x

theorem heldAs_twice (held : Bool) (x : Train) : (x.heldAs held).heldAs held = x.heldAs held := by
  unfold Train.heldAs
  cases held <;> simp only [Bool.false_eq_true, if_false, if_true] <;> split_ifs <;> simp_all

theorem heldAs_turning (held : Bool) (x : Train) : (x.heldAs held).state = .turning ↔ x.state = .turning := by
  unfold Train.heldAs
  cases held <;> simp only [Bool.false_eq_true, if_false, if_true] <;> split_ifs <;> simp_all

/-- R53: a train of the register is TURNING. -/
def State.turningAt (s : State) (k : Nat) : Bool := decide ((s.train? k).map Train.state = some .turning)

/-- R52, R53: what holding the trains of some slots, or releasing them, leaves. -/
structure HoldsTo (held : Bool) (l : List Nat) (s t : State) : Prop where
  frame : t = { s with
    tr := { s.tr with trains := t.tr.trains }, tc := { s.tc with returnHeld := t.tc.returnHeld },
    due := { s.due with arbitrate := t.due.arbitrate } }
  rising : s.tr.trains.Wf → t.tr.trains.Wf
  trains : ∀ j, t.train? j = if j ∈ l then (s.train? j).map (Train.heldAs held) else s.train? j
  returns : t.tc.returnHeld = if l.any s.turningAt then some held else s.tc.returnHeld
  waits : s.tc.queue = [] → t.due.arbitrate = s.due.arbitrate

theorem trainChanged_eq (s : State) (n : Nat) : s.trainChanged n =
    { s with due := { s.due with arbitrate := (s.trainChanged n).due.arbitrate } } := by
  unfold State.trainChanged
  split <;> rfl

theorem trainChanged_waits (s : State) (n : Nat) (h : s.tc.queue = []) : s.trainChanged n = s := by
  unfold State.trainChanged
  rw [if_neg (by simp [h])]

theorem toState_eq (s : State) (k : Nat) (t : Train) (x : TrainState) : s.toState k t x =
    { s.putTrain k { t with state := x } with due := { s.due with arbitrate := (s.toState k t x).due.arbitrate } } :=
  trainChanged_eq (s.putTrain k { t with state := x }) t.number

theorem toState_waits (s : State) (k : Nat) (t : Train) (x : TrainState) (h : s.tc.queue = []) :
    s.toState k t x = s.putTrain k { t with state := x } :=
  trainChanged_waits (s.putTrain k { t with state := x }) t.number h

theorem holdTrain_holdsTo (held : Bool) (s : State) (k : Nat) : HoldsTo held [k] s (State.holdTrain held s k) := by
  have same : ∀ f : Train → Train, (∀ x, s.train? k = some x → f x = x) → ∀ j,
      s.train? j = if j ∈ [k] then (s.train? j).map f else s.train? j := fun f h j => by
    simp only [List.mem_singleton]
    split
    · next e =>
      subst e
      cases t : s.train? j with
      | none => rfl
      | some x => rw [Option.map_some, h x t]
    · rfl
  have put : ∀ t x, s.train? k = some t → t.state ≠ .turning → t.heldAs held = { t with state := x } →
      HoldsTo held [k] s (s.toState k t x) := fun t x e moving as_ => by
    have calm : ([k].any s.turningAt) = false := by simp [State.turningAt, e, moving]
    have tr : (s.toState k t x).tr = (s.putTrain k { t with state := x }).tr := by rw [toState_eq]
    have tc : (s.toState k t x).tc = s.tc := by rw [toState_eq]; rfl
    refine ⟨?_, fun w => by rw [tr]; exact Tab.put_wf _ _ _ w, fun j => ?_, by rw [tc, calm]; rfl, fun q => ?_⟩
    · rw [tr, tc]
      exact toState_eq s k t x
    · rw [State.train?, tr]
      refine (putTrain_train? s k j _).trans ?_
      simp only [List.mem_singleton]
      split
      · next eq => rw [eq, e, Option.map_some, as_]
      · rfl
    · rw [toState_waits s k t x q]
      rfl
  have stays : ∀ t, s.train? k = some t → t.state ≠ .turning → t.heldAs held = t → HoldsTo held [k] s s :=
    fun t e moving as_ => by
      have calm : ([k].any s.turningAt) = false := by simp [State.turningAt, e, moving]
      exact ⟨rfl, id, same _ fun x hx => by rw [e] at hx; cases hx; exact as_, by rw [calm]; rfl, fun _ => rfl⟩
  unfold State.holdTrain
  split
  · next e =>
    exact ⟨rfl, id, same _ fun x hx => by rw [e] at hx; contradiction, by simp [State.turningAt, e], fun _ => rfl⟩
  · next t e =>
    split
    · next st =>
      split
      · next h => exact put t .held e (by simp [st]) (by simp [Train.heldAs, h, st])
      · next h => exact stays t e (by simp [st]) (by simp [Train.heldAs, h, st])
    · next st =>
      split
      · next h => exact stays t e (by simp [st]) (by simp [Train.heldAs, h, st])
      · next h => exact put t .active e (by simp [st]) (by simp [Train.heldAs, h, st])
    · next st =>
      refine ⟨rfl, id, same _ fun x hx => ?_, ?_, fun _ => rfl⟩
      · rw [e] at hx
        cases hx
        simp [Train.heldAs, st]
      · rw [if_pos (by simp [State.turningAt, e, st])]
        rfl
    · next st => exact stays t e (by simp [st]) (by simp [Train.heldAs, st])

theorem HoldsTo.cons {held : Bool} {k : Nat} {l : List Nat} {s t u : State} (h : HoldsTo held [k] s t)
    (r : HoldsTo held l t u) : HoldsTo held (k :: l) s u := by
  have turning : ∀ j, t.turningAt j = s.turningAt j := fun j => by
    unfold State.turningAt
    rw [h.trains]
    split
    · cases s.train? j with
      | none => rfl
      | some x => simp [heldAs_turning]
    · rfl
  have queue : t.tc.queue = s.tc.queue := by rw [h.frame]
  refine ⟨?_, fun w => r.rising (h.rising w), fun j => ?_, ?_, fun q => (r.waits (queue.trans q)).trans (h.waits q)⟩
  · rw [r.frame]
    dsimp only
    rw [h.frame]
  · rw [r.trains, h.trains]
    by_cases e : j = k <;> by_cases m : j ∈ l <;> simp [e, m, Option.map_map, Function.comp_def, heldAs_twice]
  · rw [r.returns, h.returns, List.any_cons, List.any_cons, List.any_nil, Bool.or_false, show t.turningAt = s.turningAt from
      funext turning]
    cases s.turningAt k <;> cases l.any s.turningAt <;> rfl

/-- R52: the trains of some slots held, or released, in turn. -/
theorem foldl_holdsTo (held : Bool) (l : List Nat) (s : State) : HoldsTo held l s (l.foldl (State.holdTrain held) s) := by
  induction l generalizing s with
  | nil => exact ⟨rfl, id, fun j => by simp, rfl, fun _ => rfl⟩
  | cons k l ih => exact (holdTrain_holdsTo held s k).cons (ih _)

/-- A train among those picked is TURNING. -/
theorem any_turning_picked {s : State} (w : s.tr.trains.Wf) (p : Nat → Bool) :
    (s.tr.trains.keys.filter p).any s.turningAt = s.tr.trains.rows.any (fun r => p r.1 && decide (r.2.state = .turning)) := by
  rw [List.any_filter, Tab.keys, List.any_map]
  rw [Bool.eq_iff_iff, List.any_eq_true, List.any_eq_true]
  refine exists_congr fun r => and_congr_right fun hr => ?_
  have train : s.train? r.1 = some r.2 := get?_of_mem s.tr.trains r.1 r.2 hr w
  simp [State.turningAt, train]

/-- What a HOLD or UNHOLD of the trains that `p` picks writes. -/
def State.heldWhere (s : State) (held : Bool) (p : Nat → Bool) : State :=
  { s with
    tr := { s.tr with trains := ⟨s.tr.trains.rows.map (fun r => (r.1, if p r.1 = true then r.2.heldAs held else r.2))⟩ },
    tc := { s.tc with returnHeld :=
      if s.tr.trains.rows.any (fun r => p r.1 && decide (r.2.state = .turning)) then some held else s.tc.returnHeld } }

/-- R52, R53: HOLD and UNHOLD write the states of the trains picked, and what ends the event may still change follows. -/
theorem hold_followUp {s : State} (r : RegisterLaw s) (q : s.Quiet) (held : Bool) (p : Nat → Bool) (before : List Nat) :
    FollowUp (s.heldWhere held p) (((s.tr.trains.keys.filter p).foldl (State.holdTrain held) s).finish before) := by
  have h := foldl_holdsTo held (s.tr.trains.keys.filter p) s
  generalize (s.tr.trains.keys.filter p).foldl (State.holdTrain held) s = t at h
  have trains : t.tr.trains = (s.heldWhere held p).tr.trains :=
    Tab.eq_mapKeyed (fun (k : Nat) (x : Train) => if p k = true then x.heldAs held else x) r.rising (h.rising r.rising) fun k =>
      (h.trains k).trans (map_picked s.tr.trains p _ k)
  have returns : t.tc.returnHeld = (s.heldWhere held p).tc.returnHeld := by
    rw [h.returns, any_turning_picked r.rising]
    rfl
  have eq : t = { s.heldWhere held p with due := { s.due with arbitrate := t.due.arbitrate } } := by
    conv_lhs => rw [h.frame, trains, returns]
    rfl
  have settled : t.Settled := by
    obtain ⟨due, waiting⟩ := q
    obtain ⟨scan, attempt, ends, arbitrate⟩ := settled_due due
    have same : t.due = { s.due with arbitrate := t.due.arbitrate } := congrArg State.due h.frame
    have idle : s.turnIdle → t.turnIdle := by
      rw [h.frame]
      exact id
    refine ⟨by rw [same]; simp [ends], by rw [same]; exact fun x => absurd ends x, by rw [same]; simp [scan],
      by rw [same]; simp [attempt], waiting.imp idle fun empty => ⟨(h.waits empty).trans arbitrate, ?_⟩⟩
    rw [h.frame]
    exact empty
  refine FollowUp.trans ?_ (settled.finish before)
  rw [eq]
  exact putDue_followUp _ _

theorem heldWhere_held (s : State) (p : Nat → Bool) : s.heldWhere true p = { s with
    tr := { s.tr with trains := ⟨s.tr.trains.rows.map (fun r =>
      (r.1, if p r.1 = true ∧ r.2.state = .active then { r.2 with state := .held } else r.2))⟩ },
    tc := { s.tc with returnHeld :=
      if s.tr.trains.rows.any (fun r => p r.1 && decide (r.2.state = .turning)) then some true else s.tc.returnHeld } } := by
  simp only [State.heldWhere, Train.heldAs, ite_and, if_true]

theorem heldWhere_released (s : State) (p : Nat → Bool) : s.heldWhere false p = { s with
    tr := { s.tr with trains := ⟨s.tr.trains.rows.map (fun r =>
      (r.1, if p r.1 = true ∧ r.2.state = .held then { r.2 with state := .active } else r.2))⟩ },
    tc := { s.tc with returnHeld :=
      if s.tr.trains.rows.any (fun r => p r.1 && decide (r.2.state = .turning)) then some false else s.tc.returnHeld } } := by
  simp only [State.heldWhere, Train.heldAs, ite_and, Bool.false_eq_true, if_false]

/-- Settles O27. -/
theorem selectorRequests : Obligations.SelectorRequests := by
  refine ⟨fun f st s form hi lo p r q listening sel => ?_, fun f st s form hi lo v r listening c p sel => ?_,
    fun f st s form hi lo reason w listening bad => ?_⟩
  · have picked : (s.openFrame f).selected st (form.toNat, pair hi lo) = .ok (s.tr.trains.keys.filter p) := sel.selected r
    refine ⟨fun c => ⟨_, congrArg Host.Outcome.next
      (takeRequest_done c listening (decode_selector form hi lo) (forSelected_ok picked)), ?_⟩, fun c => ⟨_,
      congrArg Host.Outcome.next (takeRequest_done c listening (decode_selector form hi lo) (forSelected_ok picked)), ?_⟩⟩
    · have follows := hold_followUp (s := s.openFrame f) (r.of_who r.rising (fun _ => rfl) id) q true p s.ss.urgent
      rw [heldWhere_held] at follows
      exact follows
    · have follows := hold_followUp (s := s.openFrame f) (r.of_who r.rising (fun _ => rfl) id) q false p s.ss.urgent
      rw [heldWhere_released] at follows
      exact follows
  · have picked : (s.openFrame f).selected st (form.toNat, pair hi lo) = .ok (s.tr.trains.keys.filter p) := sel.selected r
    have answers : ∀ {w a}, ownSetAuto (s.openFrame f) st ((form.toNat, pair hi lo), v.toNat) = (w, a) →
        exec (.setAuto f) s = .next (w.answeredWith f 0x38 a) := fun own =>
      congrArg Host.Outcome.next (takeQuery_answers c listening (decode_setAuto form hi lo v) own)
    refine ⟨fun out => answers (ownSetAuto_value picked out), fun value => answers ((ownSetAuto_done picked value).trans ?_)⟩
    have zero : v.toNat = 0 ↔ v = 0#8 := ⟨fun e => BitVec.eq_of_toNat_eq e, fun e => by rw [e]; rfl⟩
    have eq := foldl_updTrain_picked (s := s.openFrame f) r.rising p (fun t => { t with auto := decide (v.toNat = 0) })
      fun _ => rfl
    rw [show s.tr.trains.keys = (s.openFrame f).tr.trains.keys from rfl, eq]
    simp only [zero]
    rfl
  · have refused : (s.openFrame f).selected st (form.toNat, pair hi lo) = .error reason := bad.refuses w
    refine ⟨fun c => ?_, fun c => ?_, fun v c => ?_⟩
    · exact congrArg Host.Outcome.next
        (takeRequest_refuses c listening (decode_selector form hi lo) (forSelected_error refused))
    · exact congrArg Host.Outcome.next
        (takeRequest_refuses c listening (decode_selector form hi lo) (forSelected_error refused))
    · exact congrArg Host.Outcome.next
        (takeQuery_answers c listening (decode_setAuto form hi lo v) (ownSetAuto_error refused))

/-! ### Keep-alives (R54, R55) -/

/-- R55: the expiry of a cab's keep-alive, in one piece. -/
theorem expireCab_eq {s : State} (w : s.tr.trains.Wf) (cab : Nat) : s.expireCab cab = { s with
    clp := s.clp.record .cabExpired cab 0,
    tr := { s.tr with
      keepAlive := Tab.putD .absent s.tr.keepAlive cab .expired,
      trains := ⟨s.tr.trains.rows.map (fun r =>
        (r.1, if r.1 = (s.handles cab).h1 ∨ r.1 = (s.handles cab).h2 ∨ r.1 = (s.handles cab).h3 then
          { r.2 with requested := 0 } else r.2))⟩ } } := by
  have stopped := foldl_updTrain_picked w (fun k => decide (k = (s.handles cab).h1 ∨ k = (s.handles cab).h2 ∨
    k = (s.handles cab).h3)) (fun t => { t with requested := 0 }) fun _ => rfl
  unfold State.expireCab
  dsimp only
  rw [show State.requestGrade = fun s k g => s.updTrain k (fun t => { t with requested := g }) from rfl]
  dsimp only
  rw [stopped]
  simp only [decide_eq_true_eq]
  rfl

theorem counting_of_keepAlive {s : State} {cab n : Nat} (order : List Block) (h : s.keepAliveOf cab = .counting n) :
    execKeepAliveExpiry cab order s = if n ≤ 1 then
      .next ((({ s with order := order } : State).expireCab cab).finish s.ss.urgent) else .next { s with order := order } := by
  unfold execKeepAliveExpiry
  dsimp only
  rw [show ({ s with order := order } : State).keepAliveOf cab = .counting n from h]

/-- Settles O28. -/
theorem keepAlive : Obligations.KeepAlive := by
  refine ⟨fun f st s c listening => ?_, fun w f code a => ⟨fun idle => ?_, fun cab holds formed => ?_⟩,
    fun s cab order q r formed => ⟨fun waits => ?_, fun n counting last => ?_⟩⟩
  · exact congrArg Host.Outcome.next (takeQuery_answers c listening decodeAll_noParams rfl)
  · have quiet : w.reportStation f.station.toNat = w := by
      unfold State.reportStation State.restartKeepAlive
      rcases idle with e | e
      · rw [if_pos (by rw [e]; rfl)]
      · rw [if_pos e, ite_self]
    rw [State.answeredWith, quiet]
  · have station : f.station.toNat ≠ 0 := fun e => cab (BitVec.eq_of_toNat_eq e)
    refine ⟨_, by rw [State.answeredWith, reportStation_restarts station holds]; rfl, fun c => ?_⟩
    by_cases e : c = f.station.toNat
    · rw [if_pos e, e]
      exact Tab.getD_putD_same _ _ _ _ formed
    · rw [if_neg e]
      exact Tab.getD_putD_ne _ _ _ e
  · show execKeepAliveExpiry cab order s = _
    rcases waits with e | e | ⟨n, e, more⟩
    · unfold execKeepAliveExpiry
      dsimp only
      rw [show ({ s with order := order } : State).keepAliveOf cab = .absent from e]
    · unfold execKeepAliveExpiry
      dsimp only
      rw [show ({ s with order := order } : State).keepAliveOf cab = .expired from e]
    · rw [counting_of_keepAlive order e, if_neg (by omega)]
  · refine ⟨Tab.putD .absent s.tr.keepAlive cab .expired, _,
      (counting_of_keepAlive order counting).trans (if_pos last), fun c => ?_, ?_⟩
    · by_cases e : c = cab
      · rw [if_pos e, e]
        exact Tab.getD_putD_same _ _ _ _ formed
      · rw [if_neg e]
        exact Tab.getD_putD_ne _ _ _ e
    · rw [expireCab_eq (s := { s with order := order }) r.rising cab]
      refine finish_followUp _ ?_ _
      exact q

end Sys2Proof.Machine
end

section
/-! PROOFS. When an emergency cause holds for a train, as the manual says it (R60, R119). -/
namespace Sys2Proof.Machine

/-- R3: an entry applies as its condition point stands. -/
theorem applies_iff (s : State) (e : Succ) : e.applies s.look = true ↔ s.lies e := by
  unfold Succ.applies State.lies State.look
  cases c : e.cond with
  | none => simp
  | some x =>
    obtain ⟨p, q⟩ := x
    cases h : (s.point p).state <;> cases q <;> simp_all

/-- R60: merging the entries that name one section loses no section. -/
theorem mergeTargets_targets (l : List Succ) (x : Nat) :
    (∃ e ∈ mergeTargets l, e.target = x) ↔ ∃ e ∈ l, e.target = x := by
  have key : ∀ (l acc : List Succ), (∃ e ∈ l.foldl (fun acc e =>
      if acc.any (fun y => decide (y.target = e.target)) then acc else acc ++ [e]) acc, e.target = x) ↔
      (∃ e ∈ acc, e.target = x) ∨ ∃ e ∈ l, e.target = x := by
    intro l
    induction l with
    | nil => simp
    | cons a l ih =>
      intro acc
      rw [List.foldl_cons, ih]
      split
      · next dup =>
        obtain ⟨y, hy, same⟩ := List.any_eq_true.1 dup
        have same : y.target = a.target := by simpa using same
        constructor
        · rintro (h | ⟨e, he, eq⟩)
          · exact .inl h
          · exact .inr ⟨e, List.mem_cons_of_mem _ he, eq⟩
        · rintro (h | ⟨e, he, eq⟩)
          · exact .inl h
          · rcases List.mem_cons.1 he with rfl | he
            · exact .inl ⟨y, hy, same.trans eq⟩
            · exact .inr ⟨e, he, eq⟩
      · simp only [List.mem_append, List.mem_cons, List.not_mem_nil, or_false, or_and_right, exists_or, exists_eq_left, or_assoc]
  rw [mergeTargets, key]
  simp only [List.not_mem_nil, false_and, exists_false, false_or, List.mem_append, List.mem_filter]
  refine exists_congr fun e => and_congr_left fun _ => ?_
  cases e.onNormal <;> simp

/-- R60: a section is a next section of a train when an entry that applies names it. -/
theorem leadsTo_some (s : State) (x : Train) (sec : Nat) : (∃ d, s.leadsTo x sec d) ↔
    x.state ≠ .lost ∧ ∃ e ∈ s.plan.joins s.align x.head x.dir, e.target = sec ∧ s.lies e := by
  constructor
  · rintro ⟨d, present, e, he, target, lies, -⟩
    exact ⟨present, e, he, target, lies⟩
  · rintro ⟨present, e, he, target, lies⟩
    by_cases normal : ∃ e' ∈ s.plan.joins s.align x.head x.dir, e'.target = sec ∧ s.lies e' ∧ ∃ p, e'.cond = some (p, .normal)
    · obtain ⟨e', he', target', lies', cond⟩ := normal
      exact ⟨_, present, e', he', target', lies', rfl, fun _ => cond⟩
    · exact ⟨_, present, e, he, target, lies, rfl, fun h => absurd h normal⟩

theorem nextSections_any (s : State) (x : Train) (p : Nat → Bool) :
    (s.nextSections x).any (fun n => p n.1) = true ↔ ∃ sec d, s.leadsTo x sec d ∧ p sec = true := by
  have named : ∀ sec, (∃ e ∈ mergeTargets (s.plan.successors s.look s.align x.head x.dir), e.target = sec) ↔
      ∃ e ∈ s.plan.joins s.align x.head x.dir, e.target = sec ∧ s.lies e := fun sec => by
    rw [mergeTargets_targets, Plan.successors]
    refine exists_congr fun e => ?_
    rw [List.mem_filter, applies_iff]
    tauto
  have next : (∃ sec d, s.leadsTo x sec d ∧ p sec = true) ↔ x.state ≠ .lost ∧
      ∃ e ∈ mergeTargets (s.plan.successors s.look s.align x.head x.dir), p e.target = true := by
    simp only [exists_and_right, leadsTo_some, ← named]
    constructor
    · rintro ⟨sec, ⟨present, e, he, rfl⟩, hp⟩
      exact ⟨present, e, he, hp⟩
    · rintro ⟨present, e, he, hp⟩
      exact ⟨e.target, ⟨present, e, he, rfl⟩, hp⟩
  rw [next, State.nextSections]
  split
  · next lost => simp [lost]
  · next present => simp [present]

/-- R119: what blocks a section for a train, given the law of spans. -/
theorem blocked_iff {s : State} (w : s.tr.trains.Wf) (l : SpanLaw s) {k : Nat} {x : Train} (h : s.train? k = some x) (sec : Nat) :
    s.blocked k sec = true ↔ s.stray sec = true ∨ (∃ j y, s.train? j = some y ∧ sec ∈ y.span ∧ j ≠ k) ∨
      (s.occupied sec = true ∧ sec ∉ x.span) := by
  unfold State.blocked
  rw [Bool.or_eq_true]
  refine or_congr_right ?_
  cases e : s.spanOf sec with
  | none =>
    have alone : ∀ j y, s.train? j = some y → sec ∉ y.span := fun j y hy => spanOf_none e hy
    simp only [alone k x h, not_false_eq_true, and_true]
    refine ⟨.inr, ?_⟩
    rintro (⟨j, y, hy, mem, -⟩ | o)
    · exact absurd mem (alone j y hy)
    · exact o
  | some j =>
    obtain ⟨row, found, rfl⟩ := Option.map_eq_some_iff.1 e
    have train : s.train? row.1 = some row.2 := get?_of_mem _ _ _ (List.mem_of_find?_eq_some found) w
    have mem : sec ∈ row.2.span := by simpa using List.find?_some found
    simp only [Bool.not_eq_true', decide_eq_false_iff_not]
    constructor
    · exact fun other => .inl ⟨row.1, row.2, train, mem, other⟩
    · rintro (⟨i, y, hy, mem', other⟩ | ⟨-, out⟩) same
      · exact other ((l.apart i row.1 y row.2 sec hy train mem' mem).trans same)
      · rw [same, h] at train
        cases train
        exact out mem

/-- R119: an emergency cause holds just where the manual says so. -/
theorem emergencyCause_iff {s : State} (w : s.tr.trains.Wf) (l : SpanLaw s) {k : Nat} {x : Train} (h : s.train? k = some x) :
    s.emergencyCause k x = true ↔ s.endangered k x := by
  unfold State.emergencyCause State.endangered
  simp only [Bool.or_eq_true, Bool.not_eq_true', decide_eq_true_eq, nextSections_any, blocked_iff w l h, or_assoc]

theorem emergencyCause_congr {s t : State} (h : SameRun s t) : t.emergencyCause = s.emergencyCause := by
  funext k x
  simp only [State.emergencyCause, State.working, h.mode, h.chain, h.next, State.blocked, h.stray, State.stray, h.spans,
    h.occupied]

end Sys2Proof.Machine
end

section
/-! PROOFS. What the end of an event does with speeds where its hand-offs find nothing to do: which grades fall, which trains
are marked, which join the urgent list, and what the port starts (R119 to R124). -/
namespace Sys2Proof.Machine

/-! ### Hand-offs that find nothing to do -/

theorem settle_one (s : State) : settle 1 s =
    if s.due.scan then s.iuTakes else if s.due.forAwu && (!s.due.arbitrate || s.awuFirst) then s.awuTakes
    else if s.due.arbitrate then s.tcTakes else s := rfl

/-- Where hand-offs find nothing to do, one of them changes what is left to hand on, and nothing else. -/
theorem State.Settled.takes {s : State} (h : s.Settled) :
    (s.due.scan = true → ∃ d, s.iuTakes = { s with due := d }) ∧
      (s.due.forAwu = true → ∃ d, s.awuTakes = { s with due := d }) ∧
      (s.due.arbitrate = true → ∃ d, s.tcTakes = { s with due := d }) := by
  refine ⟨fun scan => ?_, fun awu => ?_, fun arbitrate => ?_⟩
  · refine ⟨{ s.due with scan := false }, ?_⟩
    unfold State.iuTakes
    rcases h.scan scan with w | w
    · have still : ({ s with due := { s.due with scan := false } } : State).working = false := w
      simp [still]
    · have empty : ({ s with due := { s.due with scan := false } } : State).iu.stack = [] := w
      simp [retryScan_idle _ empty]
  · rcases ends : s.due.turnEnds with _ | ⟨e, rest⟩
    · refine ⟨{ s.due with attempt := false }, ?_⟩
      unfold State.awuTakes
      rw [ends]
      exact attemptStart_idle _ (h.attempt (by simpa [Due.forAwu, ends] using awu))
    · refine ⟨{ s.due with turnEnds := rest, attempt := true }, ?_⟩
      unfold State.awuTakes
      rw [ends]
      simp [State.turnEnded, h.ends e (by simp [ends]), State.wantAttempt]
  · refine ⟨{ s.due with arbitrate := false }, arbitrate_idle _ ?_⟩
    rcases h.turn with w | ⟨w, -⟩
    · exact w
    · rw [w] at arbitrate
      contradiction

theorem State.Settled.settle_due (n : Nat) {s : State} (h : s.Settled) : ∃ d, Machine.settle n s = { s with due := d } := by
  induction n generalizing s with
  | zero => exact ⟨s.due, rfl⟩
  | succ n ih =>
    obtain ⟨scan, awu, arbitrate⟩ := h.takes
    have rest : ∀ u : State, (∃ d, u = { s with due := d }) → u.Settled → ∃ d, Machine.settle n u = { s with due := d } := by
      rintro u ⟨d, rfl⟩ settled
      obtain ⟨d', e⟩ := ih settled
      exact ⟨d', e⟩
    have next := (State.Settled.settle 1 s h).2
    rw [settle_one] at next
    unfold Machine.settle
    split
    · next c =>
      rw [if_pos c] at next
      exact rest _ (scan c) next
    · next c =>
      rw [if_neg c] at next
      split
      · next c' =>
        rw [if_pos c'] at next
        exact rest _ (awu (Bool.and_eq_true_iff.1 c').1) next
      · next c' =>
        rw [if_neg c'] at next
        split
        · next c'' =>
          rw [if_pos c''] at next
          exact rest _ (arbitrate c'') next
        · exact ⟨s.due, rfl⟩

/-! ### Grades that fall (R119 to R121, R124) -/

/-- R121: the granted grade of the train in a slot is lower in `t`. -/
def State.fallen (s t : State) (k : Nat) : Prop :=
  ∃ x y, s.train? k = some x ∧ t.train? k = some y ∧ y.granted < x.granted

/-- What recomputations do: grades fall, trains whose grade falls to 0 with an emergency cause are marked, and those whose
grade falls join the urgent list. -/
structure Falls (s t : State) : Prop where
  follow : FollowUp s t
  run : SameRun s t
  marks : ∀ k x y, s.train? k = some x → t.train? k = some y → ((t.speed k).emergency = true ↔
    (s.speed k).emergency = true ∨ (y.granted < x.granted ∧ y.granted = 0 ∧ s.emergencyCause k x = true))
  port : t.ss.port = s.ss.port ∧ t.ss.broadcast = s.ss.broadcast ∧ t.ss.refresh = s.ss.refresh
  urgent : ∃ joined, t.ss.urgent = s.ss.urgent ++ joined ∧ joined.Nodup ∧
    ∀ k, k ∈ joined ↔ k ∉ s.ss.urgent ∧ s.fallen t k

/-- What leaves the register, the Speed Supervisor and what targets are computed from alone. -/
theorem Falls.of_same {s t : State} (follow : FollowUp s t) (tr : t.tr = s.tr) (ss : t.ss = s.ss) : Falls s t where
  follow := follow
  run := { follow.sameTrack' tr with
    chain := by rw [follow.fs], align := follow.align, marks := by rw [follow.iu],
    trains := fun j => by simp only [State.train?, tr] }
  marks := fun k x y hx hy => by
    rw [State.train?, tr] at hy
    cases (hx.symm.trans hy : some x = some y)
    simp [State.speed, ss]
  port := by rw [ss]; exact ⟨rfl, rfl, rfl⟩
  urgent := ⟨[], by simp [ss], List.nodup_nil, fun k => by simp [State.fallen, State.train?, tr]; intro _ x hx y hy; rw [hx] at hy; cases hy; omega⟩

theorem emergencyCause_granted (s : State) (k g : Nat) (x : Train) :
    s.emergencyCause k { x with granted := g } = s.emergencyCause k x := rfl

theorem Falls.trans {s t u : State} (h : Falls s t) (f : Falls t u) : Falls s u where
  follow := h.follow.trans f.follow
  run := h.run.trans f.run
  marks := fun k x z hx hz => by
    obtain ⟨g, low, hy⟩ := h.follow.present k x hx
    obtain ⟨g', low', hz'⟩ := f.follow.present k _ hy
    rw [hz] at hz'
    cases hz'
    rw [f.marks k _ _ hy hz, h.marks k _ _ hx hy, emergencyCause_congr h.run, emergencyCause_granted]
    have low' : g' ≤ g := low'
    constructor
    · rintro ((marked | ⟨fell, zero, cause⟩) | ⟨fell, zero, cause⟩)
      · exact .inl marked
      · exact .inr ⟨by dsimp only at *; omega, by dsimp only at *; omega, cause⟩
      · exact .inr ⟨by dsimp only at *; omega, zero, cause⟩
    · rintro (marked | ⟨fell, zero, cause⟩)
      · exact .inl (.inl marked)
      · by_cases e : g = 0
        · exact .inl (.inr ⟨by dsimp only at *; omega, e, cause⟩)
        · exact .inr ⟨by dsimp only at *; omega, zero, cause⟩
  port := by
    obtain ⟨a, b, c⟩ := h.port
    obtain ⟨a', b', c'⟩ := f.port
    exact ⟨a'.trans a, b'.trans b, c'.trans c⟩
  urgent := by
    obtain ⟨j, eq, once, joins⟩ := h.urgent
    obtain ⟨j', eq', once', joins'⟩ := f.urgent
    have fell : ∀ k, s.fallen u k ↔ s.fallen t k ∨ t.fallen u k := fun k => by
      constructor
      · rintro ⟨x, z, hx, hz, less⟩
        obtain ⟨g, low, hy⟩ := h.follow.present k x hx
        by_cases e : g < x.granted
        · exact .inl ⟨x, _, hx, hy, e⟩
        · exact .inr ⟨_, z, hy, hz, by dsimp only; omega⟩
      · rintro (⟨x, y, hx, hy, less⟩ | ⟨y, z, hy, hz, less⟩)
        · obtain ⟨g, low, hz⟩ := f.follow.present k y hy
          exact ⟨x, _, hx, hz, by dsimp only; omega⟩
        · rcases h.run.cases k with ⟨-, none_⟩ | ⟨x, g, hx, hy'⟩
          · rw [none_] at hy; contradiction
          · obtain ⟨g', low, hy''⟩ := h.follow.present k x hx
            rw [hy] at hy''
            cases hy''
            exact ⟨x, z, hx, hz, by dsimp only at *; omega⟩
    refine ⟨j ++ j', by rw [eq', eq, List.append_assoc], ?_, fun k => ?_⟩
    · refine List.nodup_append.2 ⟨once, once', fun a ha b hb e => ?_⟩
      obtain ⟨out, -⟩ := (joins' b).1 hb
      exact out (by rw [eq]; exact List.mem_append_right _ (e ▸ ha))
    · rw [List.mem_append, joins, joins', fell, eq, List.mem_append, joins]
      tauto

theorem Falls.refl (s : State) : Falls s s := .of_same (.refl s) rfl rfl

theorem putSpeed_speed (s : State) (k j : Nat) (r : SpeedRec) :
    (s.putSpeed k r).speed j = if j = k then r else s.speed j := by
  unfold State.speed State.putSpeed Tab.getD
  split
  · next e =>
    subst e
    exact congrArg (Option.getD · {}) (Tab.get?_put_same s.ss.trains j r)
  · next e => exact congrArg (Option.getD · {}) (Tab.get?_put_ne s.ss.trains r e)

/-- R121, R124: what writing a changed grade does with the register and the Speed Supervisor. -/
theorem grant_parts (s : State) (k g : Nat) (x : Train) :
    (s.grant k x g).tr = (s.putTrain k { x with granted := g }).tr ∧
      (s.grant k x g).ss = (s.joinUrgent k).ss := by
  unfold State.grant State.joinUrgent
  dsimp only
  constructor
  · split <;> split <;> rfl
  · show State.ss (if _ then _ else _) = _
    split <;> split <;> simp_all

theorem joinUrgent_speed (s : State) (k j : Nat) : (s.joinUrgent k).speed j = s.speed j := by
  unfold State.joinUrgent
  split <;> rfl

theorem joinUrgent_fields (s : State) (k : Nat) : (s.joinUrgent k).ss.port = s.ss.port ∧
    (s.joinUrgent k).ss.broadcast = s.ss.broadcast ∧ (s.joinUrgent k).ss.refresh = s.ss.refresh := by
  unfold State.joinUrgent
  split <;> exact ⟨rfl, rfl, rfl⟩

/-- R124: a train joins the urgent list at its tail, unless it is on it. -/
theorem joinUrgent_urgent (s : State) (k : Nat) :
    (s.joinUrgent k).ss.urgent = s.ss.urgent ++ if k ∈ s.ss.urgent then [] else [k] := by
  unfold State.joinUrgent
  by_cases h : k ∈ s.ss.urgent <;> simp [h]

/-- R119, R120: a recomputation that brings a grade down. -/
theorem recompute_of_fall {s : State} {k : Nat} {x : Train} (e : s.train? k = some x) (fall : s.targetOf k x < x.granted) :
    s.recompute k = (s.putSpeed k ⟨s.targetOf k x, (s.speed k).emergency ||
      (decide (s.targetOf k x = 0) && s.emergencyCause k x)⟩).grant k x (s.targetOf k x) := by
  rw [State.recompute, e]
  simp [fall]

/-- R119: a recomputation that brings no grade down. -/
theorem recompute_of_stay {s : State} {k : Nat} {x : Train} (e : s.train? k = some x) (stay : ¬s.targetOf k x < x.granted) :
    s.recompute k = s.putSpeed k ⟨s.targetOf k x, (s.speed k).emergency⟩ := by
  rw [State.recompute, e]
  simp [stay]

/-- R119 to R121, R124: one recomputation. -/
theorem recompute_falls (s : State) (k : Nat) (w : s.tr.trains.Wf) : Falls s (s.recompute k) := by
  obtain ⟨-, run, others, -⟩ := recompute_below s k w
  have follow := recompute_followUp s k
  cases e : s.train? k with
  | none =>
    have same : s.recompute k = s := by rw [State.recompute, e]
    rw [same]
    exact .refl s
  | some x =>
    by_cases fall : s.targetOf k x < x.granted
    · have eq := recompute_of_fall e fall
      obtain ⟨m, mark⟩ : ∃ m, m = ((s.speed k).emergency || (decide (s.targetOf k x = 0) && s.emergencyCause k x)) := ⟨_, rfl⟩
      rw [← mark] at eq
      generalize s.recompute k = t at *
      obtain ⟨tr, ss⟩ := grant_parts (s.putSpeed k ⟨s.targetOf k x, m⟩) k (s.targetOf k x) x
      rw [← eq] at tr ss
      have here : t.train? k = some { x with granted := s.targetOf k x } := by
        rw [State.train?, tr]
        exact Tab.get?_put_same _ _ _
      have fallen : ∀ j, s.fallen t j ↔ j = k := fun j => by
        refine ⟨fun ⟨z, y, hz, hy, less⟩ => ?_, fun same => by subst same; exact ⟨x, _, e, here, fall⟩⟩
        by_contra other
        rw [others j other, hz] at hy
        cases hy
        omega
      have speed : ∀ j, t.speed j = if j = k then ⟨s.targetOf k x, m⟩ else s.speed j := fun j => by
        rw [← putSpeed_speed, ← joinUrgent_speed (s.putSpeed k ⟨s.targetOf k x, m⟩) k]
        exact congrArg (fun ss : SS => Tab.getD {} ss.trains j) ss
      refine ⟨follow, run, fun j z y hz hy => ?_, by rw [ss]; exact joinUrgent_fields _ k, _, by rw [ss]; exact joinUrgent_urgent _ k,
        by split <;> simp, fun j => ?_⟩
      · rw [speed]
        by_cases same : j = k
        · subst same
          rw [e] at hz
          rw [here] at hy
          cases hz
          cases hy
          simp [fall, mark]
        · rw [others j same, hz] at hy
          cases hy
          simp [same]
      · rw [fallen]
        by_cases on : k ∈ s.ss.urgent
        · rw [if_pos (show k ∈ (s.putSpeed k ⟨s.targetOf k x, m⟩).ss.urgent from on)]
          simp only [List.not_mem_nil, false_iff, not_and]
          rintro out rfl
          exact out on
        · rw [if_neg (show k ∉ (s.putSpeed k ⟨s.targetOf k x, m⟩).ss.urgent from on), List.mem_singleton]
          exact ⟨fun same => ⟨by rw [same]; exact on, same⟩, fun ⟨_, same⟩ => same⟩
    · have eq := recompute_of_stay e fall
      generalize s.recompute k = t at *
      have same : ∀ j, t.train? j = s.train? j := fun j => by rw [eq]; rfl
      refine ⟨follow, run, fun j z y hz hy => ?_, by rw [eq]; exact ⟨rfl, rfl, rfl⟩, [], by rw [eq]; exact (List.append_nil _).symm,
        List.nodup_nil, fun j => ?_⟩
      · rw [same, hz] at hy
        cases hy
        rw [eq, putSpeed_speed]
        split
        · next here => subst here; simp
        · simp
      · simp only [List.not_mem_nil, State.fallen, same, false_iff, not_and]
        rintro - ⟨z, y, hz, hy, less⟩
        rw [hz] at hy
        cases hy
        omega

theorem recomputeAll_falls (s : State) (w : s.tr.trains.Wf) : Falls s s.recomputeAll := by
  unfold State.recomputeAll
  generalize s.tr.trains.keys = l
  induction l generalizing s with
  | nil => exact .refl s
  | cons k l ih => exact (recompute_falls s k w).trans (ih _ ((recompute_below s k w).1))

theorem settleSpeeds_falls (n : Nat) {s : State} (w : s.tr.trains.Wf) (h : s.Settled) : Falls s (settleSpeeds n s) := by
  induction n generalizing s with
  | zero => exact .refl s
  | succ n ih =>
    obtain ⟨d, handed⟩ := h.settle_due Config.handoffBound
    have settled := (h.settle Config.handoffBound s).2
    have wf : s.handOn.tr.trains.Wf := (handOn_inner s).rising w
    have hands : Falls s s.handOn := by
      rw [State.handOn, handed]
      exact .of_same (putDue_followUp s d) rfl rfl
    have round := hands.trans (recomputeAll_falls s.handOn wf)
    unfold settleSpeeds
    dsimp only
    split
    · exact round
    · exact round.trans (ih (recomputeAll_below s.handOn wf).1 (State.Settled.recomputeAll _ settled))

/-- What the end of such an event does before the port. -/
theorem shown_falls {s : State} (w : s.tr.trains.Wf) (h : s.Settled) :
    Falls s ((settleSpeeds Config.handoffBound s).refreshAspects.refreshLamps) := by
  have aspects : ∀ u : State, u.refreshAspects.tr = u.tr := fun u =>
    foldl_keeps (fun v => v.tr) (fun v g => by dsimp only; split; exacts [rfl, (showAspect_signals _ _ _ _).2]) _ u
  exact ((settleSpeeds_falls _ w h).trans (.of_same (refreshAspects_followUp _) (aspects _) (refreshAspects_ss _))).trans
    (.of_same (refreshLamps_followUp _) (refreshLamps_frame _).2 (refreshLamps_ss _))

end Sys2Proof.Machine
end

section
/-! PROOFS. What the Speed Supervisor does at the end of a quiet event: `finish_speedFollowUp` (R120, R123, R124). -/
namespace Sys2Proof.Machine

/-! ### The port (R123) -/

theorem kickPort_busy {s : State} (h : s.ss.port ≠ none) : s.kickPort = s := by
  obtain ⟨o, e⟩ := Option.ne_none_iff_exists'.1 h
  rw [State.kickPort, e]

theorem kickPort_broadcast {s : State} (h : s.ss.port = none) (b : s.ss.broadcast = true) :
    s.kickPort = { s with ss := { s.ss with broadcast := false, port := some stopAllOrder } } := by
  rw [State.kickPort, h]
  exact if_pos b

/-- R123: an idle port without a broadcast starts the order of the first train on the urgent list. -/
theorem kickPort_first {s : State} {k : Nat} {rest : List Nat} {x : Train} (h : s.ss.port = none)
    (b : s.ss.broadcast = false) (list : s.ss.urgent = k :: rest) (train : s.train? k = some x) :
    s.kickPort = { s with ss := { s.ss with
      urgent := s.ss.urgent.filter (fun j => !decide (j = k)), port := some (s.orderFor k x) } } := by
  rw [State.kickPort, h]
  simp only [b, list, State.startOrder, train, Bool.false_eq_true, if_false]

theorem kickPort_records (s : State) : s.kickPort.ss.trains = s.ss.trains := by
  unfold State.kickPort State.startOrder
  repeat' split
  all_goals rfl

theorem closePort_train? (before : List Nat) (s : State) (k : Nat) : (s.closePort before).train? k = s.train? k :=
  congrArg (fun tr : TR => tr.trains.get? k) (closePort_frame before s).2

theorem closePort_speed (before : List Nat) (s : State) (k : Nat) : (s.closePort before).speed k = s.speed k :=
  congrArg (fun trains : Tab SpeedRec => Tab.getD ({} : SpeedRec) trains k) (kickPort_records (s.orderJoins before))

/-- R124: with the list as the event found it in front, the trains that joined stand in slot order behind it. -/
theorem orderJoins_urgent {s : State} {before joined : List Nat} (list : s.ss.urgent = before ++ joined)
    (new : ∀ k ∈ joined, k ∉ before) : (s.orderJoins before).ss.urgent = before ++ joined.insertionSort (· ≤ ·) := by
  show s.ss.urgent.filter (fun k => before.contains k) ++
    (s.ss.urgent.filter (fun k => !before.contains k)).insertionSort (· ≤ ·) = _
  rw [list, List.filter_append, List.filter_append]
  have old : before.filter (fun k => before.contains k) = before := List.filter_eq_self.2 fun k h => by simpa using h
  have none_ : joined.filter (fun k => before.contains k) = [] := List.filter_eq_nil_iff.2 fun k h => by simpa using new k h
  have gone : before.filter (fun k => !before.contains k) = [] := List.filter_eq_nil_iff.2 fun k h => by simpa using h
  have all : joined.filter (fun k => !before.contains k) = joined := List.filter_eq_self.2 fun k h => by simpa using new k h
  rw [old, none_, gone, all, List.append_nil, List.nil_append]

/-! ### From the state an event finds -/

/-- What a request may have done before the end of its event, as far as the Speed Supervisor goes: grades stand, and the
trains that `joins` names have joined the urgent list. -/
structure Begins (joins : Nat → Prop) (s u : State) : Prop where
  granted : ∀ k x, s.train? k = some x → ∃ y, u.train? k = some y ∧ y.granted = x.granted
  new : ∀ k, u.train? k ≠ none → s.train? k = none → joins k
  known : ∀ k, joins k → u.train? k ≠ none
  marks : ∀ k, s.train? k ≠ none → (u.speed k).emergency = (s.speed k).emergency
  port : u.ss.port = s.ss.port ∧ u.ss.broadcast = s.ss.broadcast ∧ u.ss.refresh = s.ss.refresh
  urgent : ∃ extra, u.ss.urgent = s.ss.urgent ++ extra ∧ extra.Nodup ∧ ∀ k, k ∈ extra ↔ k ∉ s.ss.urgent ∧ joins k

/-- A train brought down since the event began is one brought down at its end, or one that has joined. -/
theorem Begins.fallen {joins : Nat → Prop} {s u v : State} (h : Begins joins s u) (k : Nat) :
    joins k ∨ u.fallen v k ↔ joins k ∨ s.fallen v k := by
  constructor
  · rintro (j | ⟨x, y, hx, hy, less⟩)
    · exact .inl j
    · cases e : s.train? k with
      | none => exact .inl (h.new k (by rw [hx]; simp) e)
      | some z =>
        obtain ⟨x', hx', same⟩ := h.granted k z e
        rw [hx] at hx'
        cases hx'
        exact .inr ⟨z, y, e, hy, by omega⟩
  · rintro (j | ⟨x, y, hx, hy, less⟩)
    · exact .inl j
    · obtain ⟨x', hx', same⟩ := h.granted k x hx
      exact .inr ⟨x', y, hx', hy, by omega⟩

/-- The trains that join the urgent list in the event: those the request names, and those whose grade falls. -/
theorem Begins.joined {joins : Nat → Prop} {s u v : State} (h : Begins joins s u) (f : Falls u v) :
    ∃ joined, v.ss.urgent = s.ss.urgent ++ joined ∧ joined.Nodup ∧
      ∀ k, k ∈ joined ↔ k ∉ s.ss.urgent ∧ (joins k ∨ s.fallen v k) := by
  obtain ⟨extra, list, once, named⟩ := h.urgent
  obtain ⟨joined, list', once', fell⟩ := f.urgent
  refine ⟨extra ++ joined, by rw [list', list, List.append_assoc], ?_, fun k => ?_⟩
  · refine List.nodup_append.2 ⟨once, once', fun a ha b hb e => ?_⟩
    obtain ⟨out, -⟩ := (fell b).1 hb
    exact out (by rw [list]; exact List.mem_append_right _ (e ▸ ha))
  · rw [List.mem_append, named, fell, ← h.fallen, list, List.mem_append, named]
    tauto

/-- R120, R123, R124: what the Speed Supervisor does at the end of an event whose hand-offs find nothing to do. -/
theorem finish_speedFollowUp {joins : Nat → Prop} {s u : State} (settled : u.Settled) (register : RegisterLaw u)
    (spans : SpanLaw u) (urgent : UrgentLaw s) (h : Begins joins s u) :
    SpeedFollowUp joins s (u.finish s.ss.urgent) := by
  have falls := shown_falls register.rising settled
  have laws := finish_upholds u s.ss.urgent
  have formed : (u.finish s.ss.urgent).tr.trains.Wf := (laws.register register).rising
  have apart : SpanLaw (u.finish s.ss.urgent) := laws.spans register spans
  rw [State.finish] at *
  generalize (settleSpeeds Config.handoffBound u).refreshAspects.refreshLamps = v at *
  have run : SameRun u (v.closePort s.ss.urgent) := by
    refine falls.run.trans { (closePort_followUp s.ss.urgent v).sameTrack' (closePort_frame _ _).2 with
      chain := by rw [(closePort_followUp s.ss.urgent v).fs]
      align := (closePort_followUp s.ss.urgent v).align
      marks := by rw [(closePort_followUp s.ss.urgent v).iu]
      trains := fun j => by rw [closePort_train?] }
  obtain ⟨joined, list, once, named⟩ := h.joined falls
  obtain ⟨port, broadcast, refresh⟩ := falls.port
  obtain ⟨port', broadcast', refresh'⟩ := h.port
  have ordered := orderJoins_urgent list fun k hk => ((named k).1 hk).1
  have perm := List.perm_insertionSort (· ≤ ·) joined
  have member : ∀ k, k ∈ joined.insertionSort (· ≤ ·) ↔ k ∉ s.ss.urgent ∧ (joins k ∨ s.fallen v k) := fun k =>
    perm.mem_iff.trans (named k)
  refine ⟨fun k x y hx hy => ?_, joined.insertionSort (· ≤ ·), ?_, fun k => ?_, ?_⟩
  · obtain ⟨x', hx', same⟩ := h.granted k x hx
    have hy' : v.train? k = some y := by rw [← closePort_train? s.ss.urgent v k]; exact hy
    obtain ⟨g, -, eq⟩ := falls.follow.present k x' hx'
    rw [hy'] at eq
    cases eq
    rw [closePort_speed, falls.marks k x' _ hx' hy', h.marks k (by simp [hx]), same, ← emergencyCause_iff formed apart hy,
      emergencyCause_congr run]
    rfl
  · have sorted := List.pairwise_insertionSort (· ≤ ·) joined
    have distinct : (joined.insertionSort (· ≤ ·)).Nodup := perm.nodup_iff.2 once
    exact sorted.imp₂ (fun a b le ne => Nat.lt_of_le_of_ne le ne) distinct
  · rw [member]
    simp only [State.fallen, closePort_train?]
  · have busy : (v.orderJoins s.ss.urgent).ss.port = s.ss.port := port.trans port'
    have stop : (v.orderJoins s.ss.urgent).ss.broadcast = s.ss.broadcast := broadcast.trans broadcast'
    have last : (v.orderJoins s.ss.urgent).ss.refresh = s.ss.refresh := refresh.trans refresh'
    refine ⟨fun working => ?_, fun idle all => ?_, fun idle none_ k rest first => ?_⟩
    · rw [State.closePort, kickPort_busy (by rw [busy]; exact working)]
      exact ⟨busy, stop, last, ordered⟩
    · rw [State.closePort, kickPort_broadcast (busy.trans idle) (stop.trans all)]
      exact ⟨rfl, rfl, last, ordered⟩
    · have present : ∃ y, v.train? k = some y := by
        rw [← Option.ne_none_iff_exists']
        have mem : k ∈ s.ss.urgent ++ joined.insertionSort (· ≤ ·) := by rw [first]; exact List.mem_cons_self ..
        rcases List.mem_append.1 mem with old | fresh
        · obtain ⟨x, hx⟩ := Option.ne_none_iff_exists'.1 (urgent.known k old)
          obtain ⟨x', hx', -⟩ := h.granted k x hx
          obtain ⟨g, -, hy⟩ := falls.follow.present k x' hx'
          rw [hy]; simp
        · rcases ((member k).1 fresh).2 with j | ⟨x, y, -, hy, -⟩
          · obtain ⟨x', hx'⟩ := Option.ne_none_iff_exists'.1 (h.known k j)
            obtain ⟨g, -, hy⟩ := falls.follow.present k x' hx'
            rw [hy]; simp
          · rw [hy]; simp
      obtain ⟨y, hy⟩ := present
      have nodup : (k :: rest).Nodup := by
        rw [← first]
        exact List.nodup_append.2 ⟨urgent.once, perm.nodup_iff.2 once, fun a ha b hb e => ((member b).1 hb).1 (e ▸ ha)⟩
      have tail : (k :: rest).filter (fun j => !decide (j = k)) = rest := by
        obtain ⟨out, -⟩ := List.nodup_cons.1 nodup
        simp only [List.filter_cons, decide_true, Bool.not_true, Bool.false_eq_true, if_false]
        exact List.filter_eq_self.2 fun j hj => by simpa using fun e : j = k => out (e ▸ hj)
      refine ⟨y, by rw [closePort_train?]; exact hy, ?_⟩
      have speed := closePort_speed s.ss.urgent v k
      rw [State.closePort] at *
      rw [kickPort_first (busy.trans idle) (stop.trans none_) (ordered.trans first) hy] at *
      refine ⟨?_, stop.trans none_, last, ?_⟩
      · rw [speed]
        rfl
      · show (v.orderJoins s.ss.urgent).ss.urgent.filter _ = rest
        rw [ordered, first, tail]

end Sys2Proof.Machine
end

section
/-! PROOFS. SET SPEED and RELEASE TRAIN (R49, R50). -/
namespace Sys2Proof.Machine

/-- A request that leaves grades and the Speed Supervisor as they are. -/
theorem Begins.of_grades {s u : State} (grades : ∀ k, (u.train? k).map Train.granted = (s.train? k).map Train.granted)
    (ss : u.ss = s.ss) : Begins (fun _ => False) s u where
  granted := fun k x hx => by
    have same := grades k
    rw [hx] at same
    exact Option.map_eq_some_iff.1 same
  new := fun k hu hs => hu (Option.map_eq_none_iff.1 ((grades k).trans (by rw [hs]; rfl)))
  known := fun _ h => h.elim
  marks := fun k _ => by rw [State.speed, ss]; rfl
  port := by rw [ss]; exact ⟨rfl, rfl, rfl⟩
  urgent := ⟨[], by rw [ss]; exact (List.append_nil _).symm, List.nodup_nil, fun k => by simp⟩

theorem putTrain_grades {s : State} {k : Nat} {x : Train} (h : s.train? k = some x) {y : Train} (e : y.granted = x.granted)
    (j : Nat) : ((s.putTrain k y).train? j).map Train.granted = (s.train? j).map Train.granted := by
  rw [putTrain_train?]
  split
  · next eq => rw [eq, h, Option.map_some, Option.map_some, e]
  · rfl

/-- What the end of an event does after a request of a quiet machine that leaves all but train records alone. -/
theorem quiet_ends {joins : Nat → Prop} {s u : State} (q : u.Quiet) (r : RegisterLaw s) (upholds : Upholds s u)
    (begins : Begins joins s u) : FollowUp u (u.finish s.ss.urgent) ∧
      (SpanLaw s → UrgentLaw s → SpeedFollowUp joins s (u.finish s.ss.urgent)) :=
  ⟨finish_followUp u q _, fun spans urgent =>
    finish_speedFollowUp q.settled (upholds.register r) (upholds.spans r spans) urgent begins⟩

theorem Tab.put_put {α : Type} (t : Tab α) (k : Nat) (x y : α) (w : t.Wf) : (t.put k x).put k y = t.put k y := by
  refine Tab.eq_of_get? (Tab.put_wf _ _ _ (Tab.put_wf _ _ _ w)) (Tab.put_wf _ _ _ w) fun j => ?_
  by_cases e : j = k
  · subst e
    rw [Tab.get?_put_same, Tab.get?_put_same]
  · rw [Tab.get?_put_ne _ _ e, Tab.get?_put_ne _ _ e, Tab.get?_put_ne _ _ e]

/-- R49: what a release writes. -/
theorem release_eq {s : State} {k : Nat} {x : Train} (h : s.train? k = some x) (w : s.tr.trains.Wf) :
    (s.giveTo k x .nobody).requestGrade k 0 = { s with tr := { s.tr with
      trains := s.tr.trains.put k { x with owner := .nobody, requested := 0 }, handles := (s.dropHandle x.owner).tr.handles,
      keepAlive := (s.dropHandle x.owner).tr.keepAlive } } := by
  have given := giveTo_eq h .nobody
  have train : (s.giveTo k x .nobody).train? k = some { x with owner := .nobody } := by
    rw [given]
    exact Tab.get?_put_same _ _ _
  rw [State.requestGrade, updTrain_some train, given]
  show { s with tr := { s.tr with trains := (s.tr.trains.put k _).put k _, handles := _, keepAlive := _ } } = _
  rw [Tab.put_put _ _ _ _ w]

theorem ownReleaseTrain_done {s : State} {st ref k : Nat} {x : Train} (found : s.resolveRef st ref = .ok k)
    (train : s.train? k = some x) :
    ownReleaseTrain s st ref = ((s.giveTo k x .nobody).requestGrade k 0, .done []) := by
  rw [ownReleaseTrain, found]
  simp only [train]

theorem ownSetSpeed_done {s : State} {st ref g k : Nat} {x : Train} (found : s.resolveRef st ref = .ok k)
    (train : s.train? k = some x) :
    ownSetSpeed s st (ref, g) = (s.putTrain k { x with requested := min g 63 }, .done []) := by
  rw [ownSetSpeed, found]
  exact congrArg (·, Answer.done []) (updTrain_some train _)

/-- Settles O25. -/
theorem setSpeedAndRelease : Obligations.SetSpeedAndRelease := by
  refine ⟨fun f st s hi lo g slot x register quiet carries listening names => ?_,
    fun f st s hi lo slot x register handles keepAlive quiet carries listening names => ?_⟩
  · have found : (s.openFrame f).resolveRef st (pair hi lo) = .ok slot := names.resolves register
    obtain ⟨train, -, -⟩ := names
    have upholds : Upholds s ((s.openFrame f).putTrain slot { x with requested := min g.toNat 63 }) :=
      (openFrame_upholds s f).trans (putTrain_upholds _ slot _ x train ⟨rfl, rfl, rfl⟩)
    have ends := quiet_ends (u := (s.openFrame f).putTrain slot { x with requested := min g.toNat 63 }) quiet register upholds
      (.of_grades (putTrain_grades (s := s.openFrame f) train rfl) rfl)
    exact ⟨_, congrArg Host.Outcome.next (takeRequest_done carries listening (decode_setSpeed hi lo g)
      (ownSetSpeed_done found train)), ends⟩
  · have found : (s.openFrame f).resolveRef st (pair hi lo) = .ok slot := names.resolves register
    obtain ⟨train, -, -⟩ := names
    have eq := release_eq (s := s.openFrame f) train register.rising
    have upholds : Upholds s (((s.openFrame f).giveTo slot x .nobody).requestGrade slot 0) :=
      ((openFrame_upholds s f).trans (giveTo_upholds _ slot x .nobody train fun c i => by simp)).trans
        (requestGrade_upholds _ slot 0)
    have done : exec (.releaseTrain f) s = .next (((((s.openFrame f).giveTo slot x .nobody).requestGrade slot 0).finish
        s.ss.urgent).answeredWith f 0x33 (.done [])) :=
      congrArg Host.Outcome.next (takeRequest_done carries listening (decode_u16 hi lo) (ownReleaseTrain_done found train))
    rw [eq] at upholds done
    have grades := putTrain_grades (s := s.openFrame f) train (y := { x with owner := .nobody, requested := 0 }) rfl
    exact ⟨_, _, _, dropHandle_freed (s.openFrame f) x.owner handles keepAlive, done,
      quiet_ends quiet register upholds (.of_grades grades rfl)⟩

end Sys2Proof.Machine
end

section
/-! PROOFS. Sections and routes given up: what that leaves alone (R99, R100, R103, R105). -/
namespace Sys2Proof.Machine

/-- What giving up sections and routes leaves alone of what the end of an event looks at: no hand-off finds anything new to do,
marks are at most freed, and a train loses at most its current route. -/
structure Relinquishes (s t : State) : Prop where
  mc : t.mc = s.mc
  tc : t.tc = s.tc
  awu : t.awu = s.awu
  stack : t.iu.stack = s.iu.stack
  ends : t.due.turnEnds = s.due.turnEnds
  formed : s.iu.marks.Wf → t.iu.marks.Wf
  marks : s.iu.marks.Wf → ∀ x, t.mark x = s.mark x ∨ t.mark x = .free
  trains : ∀ k x, s.train? k = some x → ∃ r, t.train? k = some { x with route := r } ∧ (r = x.route ∨ r = none)

theorem Relinquishes.of_fields {s t : State} (mc : t.mc = s.mc) (tc : t.tc = s.tc) (awu : t.awu = s.awu)
    (stack : t.iu.stack = s.iu.stack) (ends : t.due.turnEnds = s.due.turnEnds) (marks : t.iu.marks = s.iu.marks)
    (trains : t.tr.trains = s.tr.trains) : Relinquishes s t where
  mc := mc
  tc := tc
  awu := awu
  stack := stack
  ends := ends
  formed := by rw [marks]; exact id
  marks := fun _ x => .inl (by rw [State.mark, marks, State.mark])
  trains := fun k x h => ⟨x.route, by rw [State.train?, trains]; exact h, .inl rfl⟩

theorem Relinquishes.refl (s : State) : Relinquishes s s := .of_fields rfl rfl rfl rfl rfl rfl rfl

theorem Relinquishes.trans {s t u : State} (h : Relinquishes s t) (k : Relinquishes t u) : Relinquishes s u where
  mc := k.mc.trans h.mc
  tc := k.tc.trans h.tc
  awu := k.awu.trans h.awu
  stack := k.stack.trans h.stack
  ends := k.ends.trans h.ends
  formed := fun w => k.formed (h.formed w)
  marks := fun w x => by
    rcases k.marks (h.formed w) x with e | e
    · rw [e]
      exact h.marks w x
    · exact .inr e
  trains := fun j x hx => by
    obtain ⟨r, hy, same⟩ := h.trains j x hx
    obtain ⟨r', hz, same'⟩ := k.trains j _ hy
    refine ⟨r', hz, ?_⟩
    rcases same' with rfl | rfl
    · exact same
    · exact .inr rfl

theorem Relinquishes.foldl {α : Type} {f : State → α → State} (h : ∀ s x, Relinquishes s (f s x)) (l : List α) (s : State) :
    Relinquishes s (l.foldl f s) := by
  induction l generalizing s with
  | nil => exact .refl s
  | cons x l ih => exact (h s x).trans (ih _)

theorem Relinquishes.ite {s t u : State} {c : Prop} [Decidable c] (h : Relinquishes s t) (k : Relinquishes s u) :
    Relinquishes s (if c then t else u) := by
  split
  · exact h
  · exact k

/-- What waits stays quiet: nothing given up makes a hand-off find something to do. -/
theorem State.Still.relinquished {s t : State} (h : s.Still) (r : Relinquishes s t) : t.Settled := by
  obtain ⟨due, scan, attempt, turn⟩ := h
  have none_ : s.due.turnEnds = [] := (settled_due due).2.2.1
  refine State.Still.settled (s := { t with due := s.due }) ⟨due, ?_, ?_, ?_⟩ t.due (r.ends.trans none_)
  · exact scan.imp (fun w => by simpa [State.working, r.mc] using w) r.stack.trans
  · exact attempt.imp (fun w => by simpa [r.mc] using w)
      (Or.imp (fun w => by simpa [r.awu] using w) fun w => by simpa [r.awu] using w)
  · unfold State.turnIdle State.free State.working at *
    simpa [r.mc, r.tc] using turn

/-! ### The operations -/

theorem freeMark_relinquishes (s : State) (x : Nat) : Relinquishes s (s.putMark x .free) where
  mc := rfl
  tc := rfl
  awu := rfl
  stack := rfl
  ends := rfl
  formed := putD_wf _ _ _ _
  marks := fun w y => by
    by_cases e : y = x
    · subst e
      exact .inr (Tab.getD_putD_same _ _ _ _ w)
    · exact .inl (Tab.getD_putD_ne _ _ _ e)
  trains := fun k x h => ⟨x.route, h, .inl rfl⟩

theorem unlock_relinquishes (s : State) (p : Nat) : Relinquishes s (s.unlock p) := .of_fields rfl rfl rfl rfl rfl rfl rfl

theorem putRoute_relinquishes (s : State) (k : Nat) (r : ActiveRoute) : Relinquishes s (s.putRoute k r) :=
  .of_fields rfl rfl rfl rfl rfl rfl rfl

theorem handRelease_relinquishes (s : State) : Relinquishes s s.handRelease := .of_fields rfl rfl rfl rfl rfl rfl rfl

theorem noticeWith_relinquishes (s : State) (c : Cause) (n d : Nat) : Relinquishes s (s.noticeWith c n d) :=
  .of_fields rfl rfl rfl rfl rfl rfl rfl

theorem eraseRoute_relinquishes (s : State) (k : Nat) :
    Relinquishes s { s with iu := { s.iu with routes := s.iu.routes.erase k } } := .of_fields rfl rfl rfl rfl rfl rfl rfl

theorem forgetRoute_train? (s : State) (k j : Nat) : (s.forgetRoute k).train? j =
    (s.train? j).map fun x => if x.route = some k then { x with route := none } else x :=
  rowsGet_map (β := Train) (fun x : Train => if x.route = some k then { x with route := none } else x) s.tr.trains.rows j

theorem forgetRoute_relinquishes (s : State) (k : Nat) : Relinquishes s (s.forgetRoute k) :=
  { Relinquishes.of_fields (s := s) (t := { s.forgetRoute k with tr := s.tr }) rfl rfl rfl rfl rfl rfl rfl with
    trains := fun j x h => by
      rw [forgetRoute_train?, h]
      by_cases e : x.route = some k
      · exact ⟨none, by simp [e], .inr rfl⟩
      · exact ⟨x.route, by simp [e], .inl rfl⟩ }

theorem retireRoute_relinquishes (s : State) (k : Nat) (c : Cause) (d : Nat) : Relinquishes s (s.retireRoute k c d) := by
  unfold State.retireRoute
  split
  · exact .refl s
  · dsimp only
    refine Relinquishes.trans ?_ (handRelease_relinquishes _)
    refine Relinquishes.trans ?_ (noticeWith_relinquishes _ _ _ _)
    refine Relinquishes.trans ?_ (forgetRoute_relinquishes _ _)
    refine Relinquishes.trans ?_ (eraseRoute_relinquishes _ _)
    have marks : Relinquishes s (s.clearMarks k) := .foldl freeMark_relinquishes _ s
    split
    · exact marks
    · exact marks.trans (.foldl unlock_relinquishes _ _)

theorem releaseMark_relinquishes (s : State) (k x : Nat) : Relinquishes s (s.releaseMark k x) := by
  unfold State.releaseMark
  split
  · exact .refl s
  · split
    · exact .refl s
    · split
      · exact .refl s
      · exact (((putRoute_relinquishes s k _).trans (freeMark_relinquishes _ x)).trans
          (.foldl (fun s (y : Nat × Pos) => unlock_relinquishes s y.1) _ _)).trans (handRelease_relinquishes _)

theorem retireIfReleased_relinquishes (s : State) (k : Nat) : Relinquishes s (s.retireIfReleased k) := by
  unfold State.retireIfReleased
  split
  · exact .refl s
  · exact .ite (retireRoute_relinquishes _ _ _ _) (.refl s)

theorem releaseReserved_relinquishes (s : State) (k : Nat) (keep : Option Nat) :
    Relinquishes s (s.releaseReserved k keep) := by
  unfold State.releaseReserved
  split
  · exact .refl s
  · split
    · exact .refl s
    · exact (Relinquishes.foldl (fun s x => releaseMark_relinquishes s k x) _ s).trans (retireIfReleased_relinquishes _ k)

theorem approachTest_relinquishes (s : State) : Relinquishes s s.approachTest := by
  refine .foldl (fun s k => ?_) _ s
  split
  · exact .refl s
  · exact .ite (retireRoute_relinquishes _ _ _ _) (.refl s)

theorem reverseRoutes_relinquishes (s : State) (k : Nat) : Relinquishes s (s.reverseRoutes k) := by
  refine .foldl (fun s j => ?_) _ s
  split
  · exact .refl s
  · exact .ite (releaseReserved_relinquishes s j none) (.refl s)

end Sys2Proof.Machine
end

section
/-! PROOFS. REVERSE TRAIN (R51, R105). -/
namespace Sys2Proof.Machine

/-! ### What a reversal's routes give up (R105) -/

theorem placeOf_of_mem {x : Nat} {l : List Nat} (h : x ∈ l) : ∃ i, placeOf x l = some i := by
  induction l with
  | nil => contradiction
  | cons y t ih =>
    by_cases e : y = x
    · exact ⟨0, by rw [placeOf, if_pos e]⟩
    · obtain ⟨i, hi⟩ := ih ((List.mem_cons.1 h).resolve_left (Ne.symm e))
      exact ⟨i + 1, by rw [placeOf, if_neg e, hi, Option.map_some]⟩

theorem foldl_unlock_routes {α : Type} (p : α → Nat) (l : List α) (s : State) :
    (l.foldl (fun s x => s.unlock (p x)) s).iu.routes = s.iu.routes ∧
      (l.foldl (fun s x => s.unlock (p x)) s).iu.marks = s.iu.marks :=
  ⟨foldl_keeps (f := fun s x => s.unlock (p x)) (fun s => s.iu.routes) (fun _ _ => rfl) l s,
    foldl_keeps (f := fun s x => s.unlock (p x)) (fun s => s.iu.marks) (fun _ _ => rfl) l s⟩

/-- R99: a section of a route that is released is free, and the route keeps its id. -/
theorem releaseMark_frees {s : State} {k x : Nat} {r : ActiveRoute} {d : RouteRec} (w : s.iu.marks.Wf)
    (route : s.route? k = some r) (rec : s.routeRec r = some d) (mem : x ∈ d.sections) : (s.releaseMark k x).mark x = .free := by
  obtain ⟨i, place⟩ := placeOf_of_mem mem
  unfold State.releaseMark
  simp only [route, rec, place]
  refine Eq.trans (congrArg (fun marks : Tab Mark => Tab.getD Mark.free marks x) (foldl_unlock_routes Prod.fst _ _).2) ?_
  exact Tab.getD_putD_same _ _ _ _ w

theorem releaseMark_routes (s : State) (k x : Nat) : (s.releaseMark k x).iu.routes = s.iu.routes ∨
    ∃ r marks, s.route? k = some r ∧ (s.releaseMark k x).iu.routes = s.iu.routes.put k { r with marks := marks } := by
  unfold State.releaseMark
  split
  · exact .inl rfl
  · next r route =>
    split
    · exact .inl rfl
    · split
      · exact .inl rfl
      · next i _ => exact .inr ⟨r, r.marks.set i .released, route, (foldl_unlock_routes Prod.fst _ _).1⟩

theorem releaseMark_route?_ne (s : State) {k j : Nat} (x : Nat) (h : j ≠ k) : (s.releaseMark k x).route? j = s.route? j := by
  unfold State.route?
  rcases releaseMark_routes s k x with e | ⟨r, marks, -, e⟩
  · rw [e]
  · rw [e, Tab.get?_put_ne _ _ h]

/-- The route whose section is released keeps its id. -/
theorem releaseMark_route?_same {s : State} {k x : Nat} {r : ActiveRoute} (h : s.route? k = some r) :
    ∃ r', (s.releaseMark k x).route? k = some r' ∧ r'.route = r.route := by
  rcases releaseMark_routes s k x with e | ⟨q, marks, here, e⟩
  · exact ⟨r, by rw [State.route?, e]; exact h, rfl⟩
  · rw [h] at here
    cases here
    exact ⟨{ r with marks := marks }, by rw [State.route?, e, Tab.get?_put_same], rfl⟩

theorem retireRoute_route?_ne (s : State) {k j : Nat} (c : Cause) (n : Nat) (h : j ≠ k) :
    (s.retireRoute k c n).route? j = s.route? j := by
  unfold State.retireRoute
  split
  · rfl
  · have marks : (s.clearMarks k).iu.routes = s.iu.routes := foldl_keeps (f := fun s x => s.putMark x .free) (fun s => s.iu.routes) (fun _ _ => rfl) _ s
    refine (Tab.get?_erase_ne _ h).trans (congrArg (fun t : Tab ActiveRoute => t.get? j) ?_)
    split
    · exact marks
    · exact ((foldl_unlock_routes id _ _).1).trans marks

theorem retireIfReleased_route?_ne (s : State) {k j : Nat} (h : j ≠ k) : (s.retireIfReleased k).route? j = s.route? j := by
  unfold State.retireIfReleased
  split
  · rfl
  · split
    · exact retireRoute_route?_ne _ _ _ h
    · rfl

theorem releaseReserved_route?_ne (s : State) {k j : Nat} (keep : Option Nat) (h : j ≠ k) :
    (s.releaseReserved k keep).route? j = s.route? j := by
  unfold State.releaseReserved
  split
  · rfl
  · split
    · rfl
    · have released : ∀ (l : List Nat), (l.foldl (fun s x => s.releaseMark k x) s).route? j = s.route? j := fun l =>
        foldl_keeps (f := fun s x => s.releaseMark k x) (fun s => s.route? j) (fun s x => releaseMark_route?_ne s x h) l s
      exact (retireIfReleased_route?_ne _ h).trans (released _)

/-- R105: a RESERVED section of a route that gives up what it has reserved is free. -/
theorem releaseReserved_frees {s : State} {k i sec : Nat} {r : ActiveRoute} {d : RouteRec} (w : s.iu.marks.Wf)
    (route : s.route? k = some r) (rec : s.routeRec r = some d) (place : d.sections[i]? = some sec)
    (reserved : r.marks[i]? = some .reserved) : (s.releaseReserved k none).mark sec = .free := by
  unfold State.releaseReserved
  simp only [route, rec]
  have gone : sec ∈ ((d.sections.zip r.marks).zipIdx.filter (fun x => decide (x.1.2 = .reserved ∧ some x.2 ≠ none))).map
      (fun x => x.1.1) := by
    refine List.mem_map.2 ⟨((sec, .reserved), i), List.mem_filter.2 ⟨?_, by simp⟩, rfl⟩
    rw [List.mk_mem_zipIdx_iff_getElem?, List.getElem?_zip_eq_some]
    exact ⟨place, reserved⟩
  have still : ∀ (t : State), t.iu.marks.Wf → t.mark sec = .free → ∀ u, Relinquishes t u → u.mark sec = .free :=
    fun t formed free u h => (h.marks formed sec).elim (·.trans free) id
  have freed := foldl_establishes (f := fun s x => s.releaseMark k x) (b := sec) (P := fun t => t.mark sec = .free)
    (Q := fun t => t.iu.marks.Wf ∧ t.plan = s.plan ∧ ∃ r', t.route? k = some r' ∧ r'.route = r.route)
    (fun t x ⟨formed, plan, r', here, same⟩ => by
      refine ⟨(releaseMark_relinquishes t k x).formed formed,
        (congrArg PM.plan (releaseMark_rail t k x).pm).trans plan, ?_⟩
      obtain ⟨q, is, kept⟩ := releaseMark_route?_same (x := x) here
      exact ⟨q, is, kept.trans same⟩)
    (fun t x ⟨formed, _⟩ free => still t formed free _ (releaseMark_relinquishes t k x))
    (fun t ⟨formed, plan, r', here, same⟩ => by
      refine releaseMark_frees formed here (d := d) ?_ (List.mem_of_getElem? place)
      rw [State.routeRec, plan, same]
      exact rec)
    _ gone s ⟨w, rfl, r, route, rfl⟩
  exact still _ ((Relinquishes.foldl (fun s x => releaseMark_relinquishes s k x) _ s).formed w) freed _
    (retireIfReleased_relinquishes _ k)

/-- One step of `State.reverseRoutes`. -/
def State.reverseRoute (train : Nat) (s : State) (k : Nat) : State :=
  match s.route? k with
  | none => s
  | some r => if r.state = .occupied ∧ r.train = some train then s.releaseReserved k none else s

theorem reverseRoutes_eq (s : State) (train : Nat) :
    s.reverseRoutes train = s.iu.routes.keys.foldl (State.reverseRoute train) s := rfl

theorem reverseRoute_relinquishes (train : Nat) (s : State) (k : Nat) : Relinquishes s (s.reverseRoute train k) := by
  unfold State.reverseRoute
  split
  · exact .refl s
  · exact .ite (releaseReserved_relinquishes s k none) (.refl s)

theorem reverseRoute_route?_ne (train : Nat) (s : State) {k j : Nat} (h : j ≠ k) :
    (s.reverseRoute train k).route? j = s.route? j := by
  unfold State.reverseRoute
  split
  · rfl
  · split
    · exact releaseReserved_route?_ne s none h
    · rfl

theorem reverseRoute_plan (train : Nat) (s : State) (k : Nat) : (s.reverseRoute train k).plan = s.plan := by
  unfold State.reverseRoute
  split
  · rfl
  · split
    · exact congrArg PM.plan (releaseReserved_rail s k none).pm
    · rfl

/-- R105: the OCCUPIED routes of a train that reverses give up every section they have RESERVED. -/
theorem reverseRoutes_frees {s : State} {train k i sec : Nat} {r : ActiveRoute} {d : RouteRec} (w : s.iu.marks.Wf)
    (route : s.route? k = some r) (occupied : r.state = .occupied) (named : r.train = some train)
    (rec : s.routeRec r = some d) (place : d.sections[i]? = some sec) (reserved : r.marks[i]? = some .reserved) :
    (s.reverseRoutes train).mark sec = .free := by
  have still : ∀ (t : State) (j : Nat), t.iu.marks.Wf → t.mark sec = .free → (t.reverseRoute train j).mark sec = .free :=
    fun t j formed free => ((reverseRoute_relinquishes train t j).marks formed sec).elim (·.trans free) id
  have own : ∀ t : State, t.iu.marks.Wf → t.plan = s.plan → t.route? k = some r →
      (t.reverseRoute train k).mark sec = .free := fun t formed plan here => by
    unfold State.reverseRoute
    simp only [here, occupied, named, and_self, if_true]
    refine releaseReserved_frees formed here ?_ place reserved
    rw [State.routeRec, plan]
    exact rec
  rw [reverseRoutes_eq]
  refine foldl_establishes (b := k) (P := fun t => t.mark sec = .free)
    (Q := fun t => t.iu.marks.Wf ∧ t.plan = s.plan ∧ (t.route? k = some r ∨ t.mark sec = .free))
    (fun t j ⟨formed, plan, known⟩ => ⟨(reverseRoute_relinquishes train t j).formed formed,
      (reverseRoute_plan train t j).trans plan, ?_⟩)
    (fun t j ⟨formed, _⟩ free => still t j formed free)
    (fun t ⟨formed, plan, known⟩ => known.elim (own t formed plan) (still t k formed))
    _ (mem_keys_of_get? _ _ _ route) s ⟨w, rfl, .inl route⟩
  rcases known with here | free
  · by_cases e : k = j
    · subst e
      exact .inr (own t formed plan here)
    · exact .inl ((reverseRoute_route?_ne train t e).trans here)
  · exact .inr (still t j formed free)

theorem reverseRoutes_idle {s : State} {train : Nat}
    (h : ∀ k r, s.route? k = some r → ¬(r.state = .occupied ∧ r.train = some train)) : s.reverseRoutes train = s := by
  rw [reverseRoutes_eq]
  refine foldl_invariant (P := fun t => t = s) (fun t k e => ?_) _ s rfl
  subst e
  unfold State.reverseRoute
  split
  · rfl
  · next r route => rw [if_neg (h k r route)]

/-! ### A train turned round (R51) -/

/-- R51: a train turned round, before its routes give up anything. -/
def State.turnedRound (s : State) (k : Nat) (x : Train) : State :=
  { s.putTrain k { x with
      dir := (s.reversedDir x).1, span := x.span.reverse, sense := x.sense.flip, route := none } with
    freeCount := if (s.reversedDir x).2 then s.freeCount + 1 else s.freeCount }

theorem reverse_eq (s : State) (k : Nat) (x : Train) :
    s.reverse k x = ((s.turnedRound k x).reverseRoutes k).joinUrgent k := by
  unfold State.reverse State.turnedRound
  obtain ⟨d, free⟩ := s.reversedDir x
  cases free <;> rfl

theorem flip_eq (x : Sense) : x.flip = if x = .forward then .backward else .forward := by cases x <;> rfl

theorem opp_eq (d : Dir) : d.opp = if d = .east then .west else .east := by cases d <;> rfl

/-- R51 step 1: a train of one section looks the other way. -/
theorem reversedDir_short {s : State} {x : Train} (h : x.span.length ≤ 1) :
    (s.reversedDir x).1 = if x.dir = .east then .west else .east := by
  unfold State.reversedDir
  match e : x.span with
  | [] | [_] => exact opp_eq x.dir
  | _ :: _ :: _ => simp [e] at h

/-- R51 step 1: a longer train leads away from the section after its old tail. -/
theorem reversedDir_long {s : State} {x : Train} {tail next : Nat} {rest : List Nat} (h : x.span = tail :: next :: rest) :
    (s.plan.joinedOn s.align tail .east next = true → (s.reversedDir x).1 = .west) ∧
      (s.plan.joinedOn s.align tail .east next = false → s.plan.joinedOn s.align tail .west next = true →
        (s.reversedDir x).1 = .east) := by
  unfold State.reversedDir
  simp only [h]
  exact ⟨fun east => by simp [east], fun east west => by simp [east, west]⟩

theorem ownReverseTrain_busy {s : State} {st ref k : Nat} {x : Train} (found : s.resolveRef st ref = .ok k)
    (train : s.train? k = some x) (busy : x.state = .turning ∨ x.granted ≠ 0 ∨ x.requested ≠ 0) :
    ownReverseTrain s st ref = (s, .refused .busy []) := by
  rw [ownReverseTrain, found]
  simp only [train]
  split
  · rfl
  · next moves => rw [if_pos (busy.resolve_left moves)]

theorem ownReverseTrain_done {s : State} {st ref k : Nat} {x : Train} (found : s.resolveRef st ref = .ok k)
    (train : s.train? k = some x) (moves : x.state ≠ .turning) (granted : x.granted = 0) (requested : x.requested = 0) :
    ownReverseTrain s st ref = (s.reverse k x, .done []) := by
  rw [ownReverseTrain, found]
  simp only [train]
  rw [if_neg moves, if_neg (by simp [granted, requested])]

/-! ### A train that joins the urgent list -/

theorem joinUrgent_train? (s : State) (k j : Nat) : (s.joinUrgent k).train? j = s.train? j := by
  unfold State.joinUrgent
  split <;> rfl

theorem joinUrgent_relinquishes (s : State) (k : Nat) : Relinquishes s (s.joinUrgent k) := by
  unfold State.joinUrgent
  split
  · exact .refl s
  · exact .of_fields rfl rfl rfl rfl rfl rfl rfl

/-- A request after which one train joins the urgent list, and nothing else of the Speed Supervisor changes. -/
theorem Begins.of_joined {s v : State} {k : Nat}
    (granted : ∀ j x, s.train? j = some x → ∃ y, v.train? j = some y ∧ y.granted = x.granted)
    (new : ∀ j, v.train? j ≠ none → s.train? j = none → j = k) (known : v.train? k ≠ none) (urgent : v.ss.urgent = s.ss.urgent)
    (port : v.ss.port = s.ss.port ∧ v.ss.broadcast = s.ss.broadcast ∧ v.ss.refresh = s.ss.refresh)
    (marks : ∀ j, s.train? j ≠ none → (v.speed j).emergency = (s.speed j).emergency) :
    Begins (fun j => j = k) s (v.joinUrgent k) where
  granted := fun j x h => by rw [joinUrgent_train?]; exact granted j x h
  new := fun j h => by rw [joinUrgent_train?] at h; exact new j h
  known := fun j e => by rw [joinUrgent_train?, e]; exact known
  marks := fun j h => by rw [joinUrgent_speed]; exact marks j h
  port := by
    obtain ⟨a, b, c⟩ := joinUrgent_fields v k
    exact ⟨a.trans port.1, b.trans port.2.1, c.trans port.2.2⟩
  urgent := by
    refine ⟨if k ∈ s.ss.urgent then [] else [k], by rw [joinUrgent_urgent, urgent], by split <;> simp, fun j => ?_⟩
    split
    · next old => exact ⟨by simp, fun h => absurd (h.2 ▸ old) h.1⟩
    · next fresh => exact ⟨fun h => ⟨by simpa [List.mem_singleton.1 h] using fresh, List.mem_singleton.1 h⟩, fun h => by simp [h.2]⟩

theorem turnedRound_train? (s : State) (k j : Nat) (x : Train) : (s.turnedRound k x).train? j =
    if j = k then some { x with
      dir := (s.reversedDir x).1, span := x.span.reverse, sense := x.sense.flip, route := none } else s.train? j :=
  putTrain_train? s k j _

/-- R51, R124: after a reversal of a train whose routes reserve nothing, the train joins the urgent list. -/
theorem turnedRound_begins {s : State} {k : Nat} {x : Train} (train : s.train? k = some x) :
    Begins (fun j => j = k) s ((s.turnedRound k x).joinUrgent k) := by
  refine .of_joined (fun j y h => ?_) (fun j h none_ => ?_) (by simp [turnedRound_train?]) rfl ⟨rfl, rfl, rfl⟩ fun _ _ => rfl
  · rw [turnedRound_train?]
    split
    · next e =>
      subst e
      rw [train] at h
      cases h
      exact ⟨_, rfl, rfl⟩
    · exact ⟨y, h, rfl⟩
  · rw [turnedRound_train?] at h
    by_contra e
    rw [if_neg e] at h
    exact h none_

/-- Settles O26. -/
theorem reverseTrain : Obligations.ReverseTrain := by
  intro f st s hi lo slot x register carries listening names
  have found : (s.openFrame f).resolveRef st (pair hi lo) = .ok slot := names.resolves register
  obtain ⟨train, -, -⟩ := names
  have train' : (s.openFrame f).train? slot = some x := train
  refine ⟨fun busy => congrArg Host.Outcome.next (takeRequest_refuses carries listening (decode_u16 hi lo)
    (ownReverseTrain_busy found train' busy)), fun moves granted requested => ?_⟩
  generalize hs : s.openFrame f = s' at *
  generalize hv : s'.turnedRound slot x = v
  have done : exec (.reverseTrain f) s = .next ((((v.reverseRoutes slot).joinUrgent slot).finish
      s.ss.urgent).answeredWith f 0x35 (.done [])) := by
    subst hs hv
    rw [← reverse_eq]
    exact congrArg Host.Outcome.next (takeRequest_done carries listening (decode_u16 hi lo)
      (ownReverseTrain_done found train' moves granted requested))
  refine ⟨(s'.reversedDir x).1, _, _, done, ⟨reversedDir_short, fun tail next rest h => ?_⟩, rfl, fun quiet idle => ?_,
    fun still formed _ => ?_⟩
  · subst hs
    exact reversedDir_long h
  · have none_ : v.reverseRoutes slot = v := by
      subst hs hv
      exact reverseRoutes_idle idle
    have upholds : Upholds s (v.joinUrgent slot) := by
      have whole := (openFrame_upholds s f).trans (reverse_upholds _ slot x (hs ▸ train'))
      rw [reverse_eq, hs, hv, none_] at whole
      exact whole
    have calm : (v.joinUrgent slot).Quiet := by
      subst hs hv
      unfold State.joinUrgent
      split <;> exact quiet
    have begins : Begins (fun j => j = slot) s (v.joinUrgent slot) := by
      obtain ⟨granted, new, known, marks, port, urgent⟩ := turnedRound_begins train'
      subst hs hv
      exact ⟨granted, new, known, marks, port, urgent⟩
    rw [none_]
    obtain ⟨follow, speeds⟩ := quiet_ends calm register upholds begins
    have whole := (joinUrgent_followUp v slot).trans follow
    refine ⟨?_, speeds⟩
    rw [whole.freeCount, ← flip_eq]
    subst hv
    exact whole
  · have rail := (reverseRoutes_rail v slot)
    have identity : ∀ k, ((((v.reverseRoutes slot).joinUrgent slot).finish s.ss.urgent).train? k).map Train.identity =
        (v.train? k).map Train.identity := fun k => by
      rw [(finish_inner _ _).identity, joinUrgent_train?, rail.identity]
    have relinquished : Relinquishes v ((v.reverseRoutes slot).joinUrgent slot) :=
      (reverseRoutes_relinquishes v slot).trans (joinUrgent_relinquishes _ slot)
    have settled : ((v.reverseRoutes slot).joinUrgent slot).Settled := by
      refine State.Still.relinquished ?_ relinquished
      subst hs hv
      exact still
    refine ⟨fun k z hz other => ?_, ?_, fun k r d i sec route occupied named rec _ place reserved => ?_⟩
    · refine Option.map_eq_some_iff.1 ((identity k).trans ?_)
      rw [← hv, turnedRound_train?, if_neg other, ← hs]
      exact congrArg (Option.map Train.identity) hz
    · refine Option.map_eq_some_iff.1 ((identity slot).trans ?_)
      rw [← hv, turnedRound_train?, if_pos rfl, ← flip_eq]
      rfl
    · have marks : (((v.reverseRoutes slot).joinUrgent slot).finish s.ss.urgent).mark sec = (v.reverseRoutes slot).mark sec := by
        have follow := (joinUrgent_followUp (v.reverseRoutes slot) slot).trans (settled.finish s.ss.urgent)
        rw [State.mark, follow.iu]
        rfl
      rw [marks]
      subst hs hv
      exact reverseRoutes_frees formed route occupied named rec place reserved

end Sys2Proof.Machine
end

section
/-! PROOFS. The tests of ENTER TRAIN as the manual states them (R45). -/
namespace Sys2Proof.Machine

/-! ### Tests in their order -/

/-- Tests stated and tests computed agree one by one, each under the premise that those before it pass. -/
def Agree : List (Prop × Reason) → List (Bool × Reason) → Prop
  | [], [] => True
  | (p, r) :: l, (b, c) :: m => r = c ∧ (p ↔ b = true) ∧ (¬p → Agree l m)
  | _, _ => False

theorem Agree.first {l : List (Prop × Reason)} {m : List (Bool × Reason)} (h : Agree l m) {pre post : List (Prop × Reason)}
    {p : Prop} {r : Reason} (e : l = pre ++ (p, r) :: post) (fails : p) (passed : ∀ q ∈ pre, ¬q.1) :
    (m.find? Prod.fst).map Prod.snd = some r := by
  induction pre generalizing l m with
  | nil =>
    subst e
    match m, h with
    | (b, c) :: m, ⟨same, iff, _⟩ => simp [iff.1 fails, same]
  | cons q pre ih =>
    subst e
    obtain ⟨pass, rest⟩ := List.forall_mem_cons.1 passed
    match q, m, h with
    | (p', r'), (b, c) :: m, ⟨_, iff, next⟩ =>
      have clear : b = false := by simpa using fun set => pass (iff.2 set)
      rw [List.find?_cons_of_neg (by simp [clear])]
      exact ih (next pass) rfl rest

theorem Agree.passed {l : List (Prop × Reason)} {m : List (Bool × Reason)} (h : Agree l m) (pass : ∀ q ∈ l, ¬q.1) :
    ∀ q ∈ m, q.1 = false := by
  induction l generalizing m with
  | nil => match m, h with | [], _ => simp
  | cons q l ih =>
    obtain ⟨own, rest⟩ := List.forall_mem_cons.1 pass
    match q, m, h with
    | (p, r), (b, c) :: m, ⟨_, iff, next⟩ =>
      exact List.forall_mem_cons.2 ⟨by simpa using fun set => own (iff.2 set), ih (next own) rest⟩

/-! ### What ENTER TRAIN carries (R173) -/

theorem listOf_u8 {l : List Byte} {m : Nat} (lt : m < 256) (len : l.length ≤ m) :
    Reads (listOf m u8) (byte l.length :: l) (l.map BitVec.toNat) := by
  have := listOf_listBytes (p := u8) (enc := fun b : Byte => [b]) (f := BitVec.toNat) lt len fun _ _ _ => rfl
  rwa [show listBytes (fun b : Byte => [b]) l = byte l.length :: l by simp [listBytes, one, byte]] at this

theorem decode_enter (nh nl cls lh ll : Byte) {span : List Byte} (dir sense choice : Byte) (few : span.length ≤ 6) :
    decodeAll parseEnter ([nh, nl, cls, lh, ll, byte span.length] ++ span ++ [dir, sense, choice]) =
      some ⟨pair nh nl, cls.toNat, pair lh ll, span.map BitVec.toNat, dir.toNat, sense.toNat, choice.toNat⟩ := by
  have list := listOf_u8 (m := 6) (by decide) few [dir, sense, choice]
  rw [decodeAll_eq_some, parseEnter]
  simp only [List.cons_append, List.nil_append, parse_bind, u16_cons, u8_cons, Option.bind_some] at list ⊢
  rw [list]
  rfl

/-! ### Each test -/

theorem named_isSome {α : Type} (values : List α) (i : Nat) : (named values i).isSome = decide (i < values.length) := by
  rw [named, Bool.eq_iff_iff, Option.isSome_iff_ne_none, ne_eq, List.getElem?_eq_none_iff, decide_eq_true_eq, not_le]

/-- R45 test 3. -/
theorem enterInRange_eq_false (s : State) (a : EnterAsk) : s.enterInRange a = false ↔
    (a.number = 0 ∨ 9999 < a.number ∨ 5 < a.cls ∨ 1 < a.dir ∨ 1 < a.sense ∨ 1 < a.choice ∨ a.span = [] ∨ ¬a.span.Nodup ∨
      ∃ x ∈ a.span, x = 0 ∨ 240 < x ∨ s.plan.sections.get? x = none) := by
  have id_ : ∀ x : Nat, ¬(1 ≤ x ∧ x ≤ 240) ↔ x = 0 ∨ 240 < x := fun x => by omega
  have ids : a.span.all (fun x => decide (1 ≤ x ∧ x ≤ 240) && (s.plan.sections.get? x).isSome) = false ↔
      ∃ x ∈ a.span, x = 0 ∨ 240 < x ∨ s.plan.sections.get? x = none := by
    simp only [List.all_eq_false, Bool.and_eq_true, decide_eq_true_eq, Option.isSome_iff_ne_none, not_and_or, not_not, id_,
      or_assoc]
  have number : ¬(1 ≤ a.number ∧ a.number ≤ 9999) ↔ a.number = 0 ∨ 9999 < a.number := by omega
  unfold State.enterInRange
  simp only [Bool.and_eq_false_iff, ids, named_isSome, decide_eq_false_iff_not, Bool.not_eq_false', List.isEmpty_iff, number,
    not_le, not_lt, or_assoc]
  rw [or_comm (a := ∃ x ∈ a.span, _)]
  rfl

/-- R45 test 4: two neighbours of the span are not joined. -/
theorem chained_eq_false (s : State) (l : List Nat) : s.chained l = false ↔
    ∃ pre x y post, l = pre ++ x :: y :: post ∧ s.plan.joined s.align x y = false := by
  match l with
  | [] => simp [State.chained]
  | [x] =>
    refine ⟨fun h => by simp [State.chained] at h, ?_⟩
    rintro ⟨pre, y, z, post, e, -⟩
    have long := congrArg List.length e
    simp at long
    omega
  | x :: y :: l =>
    rw [State.chained, Bool.and_eq_false_iff, chained_eq_false s (y :: l)]
    constructor
    · rintro (apart | ⟨pre, u, v, post, e, apart⟩)
      · exact ⟨[], x, y, l, rfl, apart⟩
      · exact ⟨x :: pre, u, v, post, by rw [e, List.cons_append], apart⟩
    · rintro ⟨pre, u, v, post, e, apart⟩
      cases pre with
      | nil =>
        simp only [List.nil_append, List.cons.injEq] at e
        obtain ⟨rfl, rfl, -⟩ := e
        exact .inl apart
      | cons w pre =>
        simp only [List.cons_append, List.cons.injEq] at e
        exact .inr ⟨pre, u, v, post, e.2, apart⟩

/-- R45 test 4: the section before the head is no successor of it on the side the train does not look to. -/
theorem facesAway_eq_false (s : State) (d : Dir) (l : List Nat) : s.facesAway d l = false ↔
    ∃ pre x y, l = pre ++ [x, y] ∧ ∀ e ∈ s.plan.joins s.align y d.opp, e.target ≠ x := by
  unfold State.facesAway
  rw [← List.reverse_reverse l]
  generalize l.reverse = m
  rw [List.reverse_reverse]
  match m with
  | [] => simp
  | [y] =>
    refine ⟨fun h => by simp at h, ?_⟩
    rintro ⟨pre, x, z, e, -⟩
    have long := congrArg List.length e
    simp at long
  | y :: x :: rest =>
    have parts : (y :: x :: rest).reverse = rest.reverse ++ [x, y] := by simp
    rw [parts]
    simp only [List.any_eq_false, decide_eq_true_eq]
    refine ⟨fun h => ⟨_, x, y, rfl, h⟩, ?_⟩
    rintro ⟨pre, u, v, e, apart⟩
    obtain ⟨-, e⟩ := List.append_inj' e rfl
    simp only [List.cons.injEq, and_true] at e
    obtain ⟨rfl, rfl⟩ := e
    exact apart

theorem hasStaging_eq_false (p : Plan) (l : List Nat) : p.hasStaging l = false ↔
    ∀ x ∈ l, ∀ g, p.sections.get? x = some g → g.kind ≠ .staging := by
  simp only [Plan.hasStaging, List.any_eq_false, decide_eq_true_eq, Option.map_eq_some_iff, not_exists, not_and]

/-- R45 test 6. -/
theorem slotOf_isSome {s : State} (r : RegisterLaw s) (n : Nat) :
    (s.slotOf n).isSome = true ↔ ∃ k y, s.train? k = some y ∧ y.number = n := by
  constructor
  · intro h
    by_contra none_
    rw [slotOf_absent r.rising fun k x hx e => none_ ⟨k, x, hx, e⟩] at h
    contradiction
  · rintro ⟨k, y, hy, e⟩
    rw [slotOf_some r hy e]
    rfl

theorem enteredUnassigned_iff (s : State) (x : Nat) : s.enteredUnassigned x = true ↔
    ∃ k r, s.mark x = .route k ∧ s.route? k = some r ∧ r.train = none ∧ s.sectionMark r x = some .entered := by
  unfold State.enteredUnassigned
  split
  · next k mark =>
    cases route : s.route? k with
    | none => exact ⟨fun h => by simp at h, fun ⟨j, r, h, e, _⟩ => by rw [mark] at h; cases h; simp [route] at e⟩
    | some r =>
      simp only [Bool.and_eq_true, Option.isNone_iff_eq_none, decide_eq_true_eq]
      refine ⟨fun h => ⟨k, r, mark, route, h⟩, fun ⟨j, q, h, e, rest⟩ => ?_⟩
      rw [mark] at h
      cases h
      rw [route] at e
      cases e
      exact rest
  · next other => exact ⟨fun h => by simp at h, fun ⟨k, _, h, _⟩ => absurd h (other k)⟩

/-- R45 test 7: a section a train cannot be entered on. -/
theorem enterable_eq_false (s : State) (x : Nat) : s.enterable x = false ↔
    (s.occupied x = false ∨ s.inSpan x = true ∨
      (s.mark x ≠ .free ∧ ¬∃ k r, s.mark x = .route k ∧ s.route? k = some r ∧ r.train = none ∧
        s.sectionMark r x = some .entered)) := by
  unfold State.enterable
  rw [Bool.and_eq_false_iff, Bool.and_eq_false_iff, Bool.or_eq_false_iff, Bool.not_eq_false', decide_eq_false_iff_not,
    ← enteredUnassigned_iff, Bool.not_eq_true, or_assoc]

/-- R45 test 8: no slot is empty. -/
theorem lowestFree_eq_none {α : Type} (t : Tab α) (k n : Nat) :
    lowestFree t k n = none ↔ ∀ j, k ≤ j → j < k + n → t.get? j ≠ none := by
  induction n generalizing k with
  | zero => exact ⟨fun _ j low high => absurd high (by omega), fun _ => rfl⟩
  | succ n ih =>
    rw [lowestFree]
    split
    · next empty =>
      refine ⟨fun h => by simp at h, fun h => ?_⟩
      exact absurd (Option.isNone_iff_eq_none.1 empty) (h k (le_refl k) (by omega))
    · next full =>
      rw [ih]
      refine ⟨fun h j low high => ?_, fun h j low high => h j (by omega) (by omega)⟩
      by_cases e : j = k
      · rw [e]
        exact fun none_ => full (Option.isNone_iff_eq_none.2 none_)
      · exact h j (by omega) (by omega)

end Sys2Proof.Machine
end

section
/-! PROOFS. ENTER TRAIN (R45): the train in its slot, what the entry clears, and the obligation. -/
namespace Sys2Proof.Machine

/-! ### What an entry does once the train is in its slot -/

theorem Relinquishes.identity {s t : State} (h : Relinquishes s t) (w : Within s t) (k : Nat) :
    (t.train? k).map Train.identity = (s.train? k).map Train.identity := by
  cases e : s.train? k with
  | none => rw [not_not.1 (mt (w.present k).2 (not_not.2 e))]
  | some x =>
    obtain ⟨r, here, -⟩ := h.trains k x e
    rw [here]
    rfl

theorem clearStray_relinquishes (s : State) (x : Nat) : Relinquishes s (s.clearStray x) := by
  have put : Relinquishes s (s.putStray x false).wantScan.wantArbitrate := .of_fields rfl rfl rfl rfl rfl rfl rfl
  exact .ite (put.trans (approachTest_relinquishes _)) (.refl s)

theorem clearStray_stray (s : State) (x y : Nat) (w : s.tr.stray.Wf) :
    (s.clearStray x).tr.stray.Wf ∧ (s.clearStray x).stray y = if y = x then false else s.stray y := by
  unfold State.clearStray
  split
  · have tr := (strayCleared_rail (s.putStray x false) x).tr
    rw [State.stray, tr]
    refine ⟨putD_wf _ _ _ _ w, ?_⟩
    split
    · next e =>
      subst e
      exact Tab.getD_putD_same _ _ _ _ w
    · next e => exact Tab.getD_putD_ne _ _ _ e
  · next clear =>
    refine ⟨w, ?_⟩
    split
    · next e => rw [e]; simpa using clear
    · rfl

theorem clearStrays_stray (l : List Nat) (s : State) (y : Nat) (w : s.tr.stray.Wf) :
    (l.foldl State.clearStray s).stray y = if y ∈ l then false else s.stray y := by
  induction l generalizing s with
  | nil => rfl
  | cons x l ih =>
    obtain ⟨formed, own⟩ := clearStray_stray s x y w
    rw [List.foldl_cons, ih _ formed, own]
    by_cases later : y ∈ l <;> by_cases here : y = x <;> simp [later, here]

theorem settleIn_relinquishes (s : State) (k : Nat) (span : List Nat) : Relinquishes s (s.settleIn k span) := by
  have base : Relinquishes s (span.foldl State.clearStray ((s.putSpeed k {}).joinUrgent k)) :=
    ((Relinquishes.of_fields rfl rfl rfl rfl rfl rfl rfl : Relinquishes s (s.putSpeed k {})).trans
      (joinUrgent_relinquishes _ k)).trans (.foldl clearStray_relinquishes _ _)
  exact .ite (base.trans (.of_fields rfl rfl rfl rfl rfl rfl rfl)) base

theorem settleIn_calm (s : State) (k : Nat) (span : List Nat) : Calm s (s.settleIn k span) := by
  have base : Calm s (span.foldl State.clearStray ((s.putSpeed k {}).joinUrgent k)) :=
    ((putSpeed_rail s k {}).trans (joinUrgent_rail _ k)).calm.trans (Calm.foldl clearStray_calm _ _)
  exact Calm.ite (base.trans (wantArbitrate_calm _)) base

theorem settleIn_stray (s : State) (k : Nat) (span : List Nat) (x : Nat) (w : s.tr.stray.Wf) :
    (s.settleIn k span).stray x = if x ∈ span then false else s.stray x := by
  have joined : ((s.putSpeed k {}).joinUrgent k).tr.stray = s.tr.stray := by
    rw [(joinUrgent_rail (s.putSpeed k {}) k).tr]
    rfl
  have cleared := clearStrays_stray span ((s.putSpeed k {}).joinUrgent k) x (by rw [joined]; exact w)
  rw [show ((s.putSpeed k {}).joinUrgent k).stray x = s.stray x by rw [State.stray, joined, State.stray]] at cleared
  unfold State.settleIn
  dsimp only
  split <;> exact cleared

theorem settleIn_ss (s : State) (k : Nat) (span : List Nat) :
    (s.settleIn k span).ss = ((s.putSpeed k {}).joinUrgent k).ss := by
  have base := ss_foldl clearStray_ss span ((s.putSpeed k {}).joinUrgent k)
  exact ss_ite base base

/-! ### The train in its slot -/

/-- R45: the owner of a train at its entry. -/
def enteredOwner (st i choice : Nat) : Owner :=
  if st ≠ 0 then .cab st i else if choice = 1 then .awu else .supervisor

/-- R43, R45: what is in the register once the train is in its slot. -/
structure Seats (s : State) (st k i : Nat) (a : EnterAsk) (t : State) : Prop where
  train : ∀ j, t.train? j = if j = k then some (a.train (enteredOwner st i a.choice)) else s.train? j
  handles : ∀ j, t.handles j = if j = st ∧ st ≠ 0 then (s.handles st).set i k else s.handles j
  frame : t = { s with tr := { s.tr with trains := t.tr.trains, handles := t.tr.handles, keepAlive := t.tr.keepAlive } }

theorem seated_seats {s : State} {st k i : Nat} (a : EnterAsk) (handles : s.tr.handles.Wf)
    (low : st ≠ 0 → (s.handles st).lowest = some i) : Seats s st k i a (s.seated st k a) := by
  by_cases cab : st = 0
  · have seat : s.seated st k a = s.putTrain k (a.train (enteredOwner st i a.choice)) := by
      unfold State.seated enteredOwner
      simp only [cab, ne_eq, not_true_eq_false, if_false]
    rw [seat]
    exact ⟨fun j => putTrain_train? s k j _, fun j => by rw [if_neg (fun h => h.2 cab)]; rfl, rfl⟩
  · have seat : s.seated st k a = (s.putTrain k (a.train .nobody)).giveToCab k st := by
      unfold State.seated
      simp only [cab, ne_eq, not_false_eq_true, if_true]
    have here : (s.putTrain k (a.train .nobody)).train? k = some (a.train .nobody) := by rw [putTrain_train?, if_pos rfl]
    have lowest : ((s.putTrain k (a.train .nobody)).handles st).lowest = some i := low cab
    obtain ⟨trains, given, -⟩ := giveToCab_tables here lowest
    have owner : enteredOwner st i a.choice = .cab st i := if_pos cab
    rw [seat]
    refine ⟨fun j => ?_, fun j => ?_, ?_⟩
    · rw [State.train?, trains, owner]
      by_cases e : j = k
      · subst e
        rw [Tab.get?_put_same, if_pos rfl]
        rfl
      · rw [Tab.get?_put_ne _ _ e, if_neg e]
        exact Tab.get?_put_ne _ _ e
    · rw [State.handles, given]
      refine (handles_put (s.putTrain k (a.train .nobody)) st j _ handles).trans ?_
      simp only [cab, ne_eq, not_false_eq_true, and_true]
      rfl
    · rw [giveToCab_frame]
      rfl

/-- R45, R120, R124: an entry, as far as the Speed Supervisor goes. -/
theorem enter_begins {s : State} {st k i : Nat} {a : EnterAsk} (seats : Seats s st k i a (s.seated st k a))
    (empty : s.train? k = none) : Begins (fun j => j = k) s (s.enter st k a) := by
  rw [enter_eq]
  generalize s.seated st k a = t at *
  have ss : t.ss = s.ss := by rw [seats.frame]
  have speed : ∀ j, j ≠ k → (t.putSpeed k {}).speed j = s.speed j := fun j e => by
    rw [putSpeed_speed, if_neg e, State.speed, ss, State.speed]
  have joined : Begins (fun j => j = k) s ((t.putSpeed k {}).joinUrgent k) := by
    refine .of_joined (fun j x h => ?_) (fun j h none_ => ?_) ?_ (by rw [← ss]; rfl)
      (by rw [← ss]; exact ⟨rfl, rfl, rfl⟩) fun j h => ?_
    · refine ⟨x, (seats.train j).trans ?_, rfl⟩
      rw [if_neg fun e => by rw [e, empty] at h; contradiction, h]
    · by_contra e
      exact h (((seats.train j).trans (if_neg e)).trans none_)
    · show t.train? k ≠ none
      rw [seats.train, if_pos rfl]
      simp
    · rw [speed j fun e => h (by rw [e]; exact empty)]
  have relinquished : Relinquishes ((t.putSpeed k {}).joinUrgent k) (t.settleIn k a.span) := by
    have base := Relinquishes.foldl clearStray_relinquishes a.span ((t.putSpeed k {}).joinUrgent k)
    exact .ite (base.trans (.of_fields rfl rfl rfl rfl rfl rfl rfl)) base
  have present : ∀ j, (t.settleIn k a.span).train? j ≠ none ↔ ((t.putSpeed k {}).joinUrgent k).train? j ≠ none := fun j => by
    rw [← (settleIn_calm t k a.span).toWithin.present j, joinUrgent_train?]
    rfl
  obtain ⟨granted, new, known, marks, port, urgent⟩ := joined
  have same := settleIn_ss t k a.span
  refine ⟨fun j x h => ?_, fun j h => new j ((present j).1 h), fun j e => (present j).2 (known j e), fun j h => ?_,
    by rw [same]; exact port, by rw [same]; exact urgent⟩
  · obtain ⟨y, hy, e⟩ := granted j x h
    obtain ⟨r, hz, -⟩ := relinquished.trains j y hy
    exact ⟨_, hz, e⟩
  · rw [State.speed, same]
    exact marks j h

/-- R120: the end of an event marks no train that stands. -/
theorem finish_emergency {u : State} (settled : u.Settled) (w : u.tr.trains.Wf) {k : Nat} {x : Train}
    (h : u.train? k = some x) (stands : x.granted = 0) (before : List Nat) :
    ((u.finish before).speed k).emergency = (u.speed k).emergency := by
  have falls := shown_falls w settled
  obtain ⟨g, low, here⟩ := falls.follow.present k x h
  rw [State.finish, closePort_speed, Bool.eq_iff_iff, falls.marks k x _ h here]
  exact ⟨fun h => h.resolve_right fun h => absurd h.1 (by dsimp only; omega), .inl⟩

/-- R45: what an entry leaves in the register, and what it leaves alone. -/
structure Enters (s : State) (st k i : Nat) (a : EnterAsk) (u : State) : Prop where
  train : u.train? k = some (a.train (enteredOwner st i a.choice))
  others : ∀ j, j ≠ k → (u.train? j).map Train.identity = (s.train? j).map Train.identity
  handles : ∀ j, u.handles j = if j = st ∧ st ≠ 0 then (s.handles st).set i k else s.handles j
  stray : s.tr.stray.Wf → ∀ x, u.stray x = if x ∈ a.span then false else s.stray x
  kept : u.pm = s.pm ∧ u.mc = s.mc ∧ u.freeCount = s.freeCount
  settled : s.Still → u.Settled
  emergency : (u.speed k).emergency = false

theorem Seats.enters {s : State} {st k i : Nat} {a : EnterAsk} (h : Seats s st k i a (s.seated st k a)) :
    Enters s st k i a (s.enter st k a) := by
  rw [enter_eq]
  generalize s.seated st k a = t at *
  have frame := h.frame
  have relinquished := settleIn_relinquishes t k a.span
  have calm := settleIn_calm t k a.span
  refine ⟨?_, fun j e => ?_, fun j => ?_, fun w x => ?_, ⟨?_, ?_, ?_⟩, fun still => ?_, ?_⟩
  · obtain ⟨r, here, same⟩ := relinquished.trains k _ ((h.train k).trans (if_pos rfl))
    rw [here]
    obtain rfl : r = none := same.elim id id
    rfl
  · rw [relinquished.identity calm.toWithin, h.train, if_neg e]
  · rw [State.handles, calm.handles]
    exact h.handles j
  · rw [settleIn_stray t k a.span x (by rw [frame]; exact w), frame]
    rfl
  · rw [calm.pm, frame]
  · rw [relinquished.mc, frame]
  · rw [calm.freeCount, frame]
  · refine State.Still.relinquished ?_ relinquished
    rw [frame]
    exact still
  · rw [State.speed, settleIn_ss]
    show (((t.putSpeed k {}).joinUrgent k).speed k).emergency = false
    rw [joinUrgent_speed, putSpeed_speed, if_pos rfl]

/-! ### The request -/

theorem chained_congr {s t : State} (plan : t.plan = s.plan) (align : t.align = s.align) (l : List Nat) :
    t.chained l = s.chained l := by
  match l with
  | [] => rfl
  | [_] => rfl
  | x :: y :: l => rw [State.chained, State.chained, chained_congr plan align (y :: l), plan, align]

theorem enterTests_openFrame (s : State) (f : Frame) (st : Nat) (a : EnterAsk) :
    (s.openFrame f).enterTests st a = s.enterTests st a := by
  unfold State.enterTests
  rw [chained_congr (s := s) (t := s.openFrame f) rfl rfl]
  rfl

theorem ownEnterTrain_done {s : State} {st k : Nat} {a : EnterAsk} (pass : s.enterRefusal st a = none)
    (slot : lowestFree s.tr.trains 1 Config.trainSlots = some k) : ownEnterTrain s st a =
      (s.enter st k a, .done (one k ++ (if st = 0 then [] else opt1 (s.handles st).lowest))) := by
  simp only [ownEnterTrain, pass, slot, Option.getD_some]

theorem lowest_spec {h : Handles} {i : Nat} (low : h.lowest = some i) :
    1 ≤ i ∧ i ≤ 3 ∧ h.get i = 0 ∧ ∀ j, 1 ≤ j → j < i → h.get j ≠ 0 := by
  unfold Handles.lowest at low
  split at low
  · next e => cases low; exact ⟨le_refl _, by omega, e, fun j _ _ => by omega⟩
  · next first =>
    split at low
    · next e =>
      cases low
      refine ⟨by omega, by omega, e, fun j _ _ => ?_⟩
      obtain rfl : j = 1 := by omega
      exact first
    · next second =>
      split at low
      · next e =>
        cases low
        refine ⟨by omega, by omega, e, fun j _ _ => ?_⟩
        obtain rfl | rfl : j = 1 ∨ j = 2 := by omega
        · exact first
        · exact second
      · contradiction

theorem byte_le_one {b : Byte} (h : ¬1 < b.toNat) : b = 0#8 ∨ b = 1#8 := by
  rcases (by omega : b.toNat = 0 ∨ b.toNat = 1) with e | e
  · exact .inl (BitVec.eq_of_toNat_eq e)
  · exact .inr (BitVec.eq_of_toNat_eq e)

theorem named_dir {b : Byte} (h : ¬1 < b.toNat) :
    (named dirs b.toNat).getD .east = if b = 0#8 then .east else .west := by
  rcases byte_le_one h with rfl | rfl <;> rfl

theorem named_sense {b : Byte} (h : ¬1 < b.toNat) :
    (named senses b.toNat).getD .forward = if b = 0#8 then .forward else .backward := by
  rcases byte_le_one h with rfl | rfl <;> rfl

/-- Settles O29. -/
theorem enterTrain : Obligations.EnterTrain := by
  intro f st s nh nl cls lh ll span dir sense choice ids d tests register handles strays listening few carries hids hd htests
  have decoded := decode_enter nh nl cls lh ll dir sense choice few
  rw [← hids] at decoded
  generalize ha : (⟨pair nh nl, cls.toNat, pair lh ll, ids, dir.toNat, sense.toNat, choice.toNat⟩ : EnterAsk) = a at decoded
  have chosen : a.choice = 1 ↔ choice = 1#8 := by
    rw [← ha]
    exact ⟨fun h => BitVec.eq_of_toNat_eq h, fun h => by rw [h]; rfl⟩
  have agree : Agree tests ((s.openFrame f).enterTests st a) := by
    rw [enterTests_openFrame, htests, State.enterTests]
    refine ⟨rfl, ?_, fun _ => ⟨rfl, ?_, fun _ => ⟨rfl, ?_, fun range => ⟨rfl, ?_, fun _ => ⟨rfl, ?_, fun _ => ⟨rfl, ?_, fun _ =>
      ⟨rfl, ?_, fun _ => ⟨rfl, ?_, fun _ => ⟨rfl, ?_, fun _ => trivial⟩⟩⟩⟩⟩⟩⟩⟩⟩
    · rw [decide_eq_true_eq, chosen]
    · rw [decide_eq_true_eq]
    · rw [Bool.not_eq_true', enterInRange_eq_false, ← ha]
    · rw [Bool.not_eq_true', Bool.and_eq_false_iff, chained_eq_false, facesAway_eq_false, ← ha]
      rw [named_dir fun h => range (.inr (.inr (.inr (.inl h)))), ← hd]
    · rw [decide_eq_true_eq, Bool.not_eq_true', hasStaging_eq_false, ← ha]
    · rw [slotOf_isSome register, ← ha]
    · rw [Bool.not_eq_true', List.all_eq_false, ← ha]
      simp only [Bool.not_eq_true, enterable_eq_false]
    · rw [Option.isNone_iff_eq_none, lowestFree_eq_none]
      exact forall_congr' fun k => forall_congr' fun _ =>
        ⟨fun h lt => h (by unfold Config.trainSlots at lt; omega), fun h le => h (by unfold Config.trainSlots; omega)⟩
    · rw [decide_eq_true_eq, Option.isNone_iff_eq_none, lowest_eq_none]
  refine ⟨fun pre p r post e fails passed => ?_, fun passed => ?_⟩
  · have refused : (s.openFrame f).enterRefusal st a = some r := by rw [enterRefusal_eq, agree.first e fails passed]
    refine congrArg Host.Outcome.next (takeRequest_refuses carries listening decoded ?_)
    rw [ownEnterTrain, refused]
  · have pass : (s.openFrame f).enterRefusal st a = none := enterRefusal_eq_none.2 (agree.passed passed)
    obtain ⟨mode, number, ⟨k, slot⟩, handle⟩ := enterRefusal_none pass
    obtain ⟨low, high, empty, below⟩ := lowestFree_spec _ _ _ _ slot
    obtain ⟨i, lowest⟩ : ∃ i, st ≠ 0 → (s.handles st).lowest = some i := by
      by_cases cab : st = 0
      · exact ⟨0, fun h => absurd cab h⟩
      · obtain ⟨i, h⟩ := handle cab
        exact ⟨i, fun _ => h⟩
    have inRange := enterRefusal_eq_none.1 pass (!(s.openFrame f).enterInRange a, .range) (by simp [State.enterTests])
    simp only [Bool.not_eq_false', State.enterInRange, Bool.and_eq_true, named_isSome, decide_eq_true_eq] at inRange
    obtain ⟨⟨⟨⟨⟨⟨⟨-, cls_⟩, dir_⟩, sense_⟩, -⟩, -⟩, -⟩, -⟩ := inRange
    have hc := List.getElem?_eq_getElem cls_
    generalize trainClasses[a.cls] = c at hc
    have seats := seated_seats (s := s.openFrame f) (k := k) a handles lowest
    have enters := seats.enters
    have begins := enter_begins seats empty
    have done : exec (.enterTrain f) s = .next ((((s.openFrame f).enter st k a).finish s.ss.urgent).answeredWith f 0x30
        (.done (one k ++ if st = 0 then [] else opt1 ((s.openFrame f).handles st).lowest))) :=
      congrArg Host.Outcome.next (takeRequest_done carries listening decoded (ownEnterTrain_done pass slot))
    have opened := openFrame_upholds s f
    have upholds := enter_spans_urgent (opened.register register) pass slot (by rw [← ha, hids]; simpa using few)
    have laws := (ownEnterTrain_register (s.openFrame f) st a (opened.register register)).1
    rw [ownEnterTrain_done pass slot] at laws
    dsimp only at laws
    generalize (s.openFrame f).enter st k a = u at enters begins done upholds laws
    have inner := finish_inner u s.ss.urgent
    have identity : (a.train (enteredOwner st i a.choice)).identity = (pair nh nl, c, max 1 (min (pair lh ll) 4095),
        (if st ≠ 0 then .cab st i else if choice = 1#8 then .awu else .supervisor), ids, d,
        (if sense = 0#8 then .forward else .backward), false, false) := by
      have cls_ : (named trainClasses a.cls).getD .express = c := by rw [named, hc, Option.getD_some]
      have dir_ : (named dirs a.dir).getD .east = d := by
        subst ha hd
        exact named_dir (by simpa [dirs] using dir_)
      have sense_ : (named senses a.sense).getD .forward = if sense = 0#8 then .forward else .backward := by
        subst ha
        exact named_sense (by simpa [senses] using sense_)
      simp only [Train.identity, EnterAsk.train, cls_, dir_, sense_, enteredOwner, chosen]
      rw [← ha]
    obtain ⟨y, hy, same⟩ := Option.map_eq_some_iff.1 ((inner.identity k).trans (congrArg _ enters.train))
    obtain ⟨pm, mc, free⟩ := enters.kept
    refine ⟨k, i, c, y, u.finish s.ss.urgent, done.trans ?_, ⟨low, by unfold Config.trainSlots at high; omega, empty, fun j a b =>
      Option.isSome_iff_ne_none.1 (below j a b)⟩, fun cab => lowest_spec (lowest cab), ?_, hy, same.trans identity, fun still => ?_,
      fun j e => (inner.identity j).trans (enters.others j e), fun j => ?_, fun x => ?_, inner.pm.trans pm,
      inner.mc.trans mc, inner.freeCount.trans free⟩
    · by_cases cab : st = 0
      · rw [if_pos cab, if_pos cab]
        rfl
      · rw [if_neg cab, if_neg cab, show ((s.openFrame f).handles st).lowest = some i from lowest cab]
        rfl
    · rw [← ha] at hc
      exact hc
    · have settled := enters.settled still
      obtain ⟨g, le, here⟩ := (settled.finish s.ss.urgent).present k _ enters.train
      rw [hy] at here
      cases here
      obtain rfl : g = 0 := Nat.le_zero.1 le
      refine ⟨rfl, rfl, rfl, rfl, rfl, ?_, fun spans urgent => ?_⟩
      · rw [finish_emergency settled laws.rising enters.train rfl]
        exact enters.emergency
      · obtain ⟨granted, new, known, marks, port, list⟩ := begins
        exact finish_speedFollowUp settled laws (upholds.1 (opened.spans register spans)) urgent ⟨granted, new, known, marks, port, list⟩
    · rw [State.handles, inner.handles]
      exact enters.handles j
    · rw [State.stray, inner.tr]
      refine (enters.stray strays x).trans ?_
      rw [← ha]
      rfl

end Sys2Proof.Machine
end

section
/-! PROOFS. What names a train outside the register: active routes, the route stack, turn requests, dwells and the running
demo. What the parts of a retirement and the end of an event do to that (R47). -/
namespace Sys2Proof.Machine

/-- No train is named in `t`, outside the register and the urgent list, by a route, a stack entry, a turn request, a dwell or
the running demo that did not name it in `s`. -/
structure NamesNoMore (s t : State) : Prop where
  routes : ∀ r ∈ t.iu.routes.rows, r.2.train = none ∨ ∃ q ∈ s.iu.routes.rows, q.2.train = r.2.train
  stack : ∀ e ∈ t.iu.stack, ∃ d ∈ s.iu.stack, d.train = e.train
  turns : (t.tc.queue.map TurnReq.train).Sublist (s.tc.queue.map TurnReq.train)
  dwells : ∀ k, s.awu.dwells.get? k = none → t.awu.dwells.get? k = none
  formed : s.awu.dwells.Wf → t.awu.dwells.Wf
  running : t.awu.running = s.awu.running ∨ t.awu.running = none

theorem NamesNoMore.of_fields {s t : State} (routes : t.iu.routes = s.iu.routes) (stack : t.iu.stack = s.iu.stack)
    (turns : t.tc.queue = s.tc.queue) (dwells : t.awu.dwells = s.awu.dwells) (running : t.awu.running = s.awu.running) :
    NamesNoMore s t where
  routes := fun r h => .inr ⟨r, by rw [← routes]; exact h, rfl⟩
  stack := fun e h => ⟨e, by rw [← stack]; exact h, rfl⟩
  turns := by rw [turns]
  dwells := by rw [dwells]; exact fun _ => id
  formed := by rw [dwells]; exact id
  running := .inl running

theorem NamesNoMore.refl (s : State) : NamesNoMore s s := .of_fields rfl rfl rfl rfl rfl

theorem NamesNoMore.trans {s t u : State} (h : NamesNoMore s t) (k : NamesNoMore t u) : NamesNoMore s u where
  routes := fun r hr => by
    rcases k.routes r hr with e | ⟨q, hq, e⟩
    · exact .inl e
    · rw [← e]
      exact h.routes q hq
  stack := fun e he => by
    obtain ⟨d, hd, same⟩ := k.stack e he
    obtain ⟨c, hc, same'⟩ := h.stack d hd
    exact ⟨c, hc, same'.trans same⟩
  turns := k.turns.trans h.turns
  dwells := fun j e => k.dwells j (h.dwells j e)
  formed := fun w => k.formed (h.formed w)
  running := by
    rcases k.running with e | e
    · rw [e]
      exact h.running
    · exact .inr e

theorem NamesNoMore.foldl {α : Type} {f : State → α → State} (h : ∀ s x, NamesNoMore s (f s x)) (l : List α) (s : State) :
    NamesNoMore s (l.foldl f s) := by
  induction l generalizing s with
  | nil => exact .refl s
  | cons x l ih => exact (h s x).trans (ih _)

theorem NamesNoMore.ite {s t u : State} {c : Prop} [Decidable c] (h : NamesNoMore s t) (k : NamesNoMore s u) :
    NamesNoMore s (if c then t else u) := by
  split
  · exact h
  · exact k

/-- What the end of a quiet event may change names no train anew. -/
theorem FollowUp.namesNoMore {s t : State} (h : FollowUp s t) : NamesNoMore s t :=
  .of_fields (by rw [h.iu]) (by rw [h.iu]) (by rw [h.tc]) (by rw [h.awu]) (by rw [h.awu])

/-! ### Train records and notices -/

theorem updTrain_namesNoMore (s : State) (k : Nat) (g : Train → Train) : NamesNoMore s (s.updTrain k g) := by
  rw [updTrain_frame]
  exact .of_fields rfl rfl rfl rfl rfl

theorem wantArbitrate_namesNoMore (s : State) : NamesNoMore s s.wantArbitrate := .of_fields rfl rfl rfl rfl rfl

theorem notice_namesNoMore (s : State) (c : Cause) (n : Nat) : NamesNoMore s (s.notice c n) := .of_fields rfl rfl rfl rfl rfl

/-! ### The Turntable Controller -/

theorem driveTable_namesNoMore (s : State) (a b c : Bool) : NamesNoMore s (s.driveTable a b c) :=
  .ite (.of_fields rfl rfl rfl rfl rfl) (.refl s)

/-- What the TC keeps of its queue names no train anew. -/
theorem setTc_namesNoMore (s : State) (x : TC) (h : (x.queue.map TurnReq.train).Sublist (s.tc.queue.map TurnReq.train)) :
    NamesNoMore s (s.setTc x) :=
  { NamesNoMore.refl s with turns := h }

theorem testSpan_namesNoMore (s : State) (k : Nat) : NamesNoMore s (s.testSpan k) := by
  unfold State.testSpan
  split
  · exact .refl s
  · refine .ite ?_ (.refl s)
    unfold State.loseTrain
    split
    · exact .refl s
    · exact .of_fields rfl rfl rfl rfl rfl

theorem handBack_namesNoMore (s : State) (e : TurnReq) : NamesNoMore s (s.handBack e) := by
  unfold State.handBack
  split
  · dsimp only
    refine NamesNoMore.trans ?_ (wantArbitrate_namesNoMore _)
    refine NamesNoMore.trans ?_ (testSpan_namesNoMore _ _)
    refine NamesNoMore.trans ?_ (updTrain_namesNoMore _ _ _)
    exact setTc_namesNoMore s _ (List.Sublist.refl _)
  · exact setTc_namesNoMore s _ (List.Sublist.refl _)

theorem removeTurn_namesNoMore (s : State) (i : Nat) : NamesNoMore s (s.removeTurn i) :=
  setTc_namesNoMore s _ ((List.eraseIdx_sublist _ i).map _)

theorem dropTurn_namesNoMore (s : State) (i : Nat) : NamesNoMore s (s.dropTurn i) := by
  have removed := removeTurn_namesNoMore s i
  unfold State.dropTurn
  refine NamesNoMore.trans ?_ (wantArbitrate_namesNoMore _)
  refine .ite (removed.trans ?_) removed
  exact setTc_namesNoMore _ _ (List.Sublist.refl _)

theorem endRequest_namesNoMore (s : State) (i : Nat) (e : TurnReq) : NamesNoMore s (s.endRequest i e) :=
  ((handBack_namesNoMore s e).trans (removeTurn_namesNoMore _ i)).trans (.of_fields rfl rfl rfl rfl rfl)

theorem openGrant_namesNoMore (s : State) (i : Nat) (e : TurnReq) : NamesNoMore s (s.openGrant i e) := by
  refine { NamesNoMore.refl s with turns := ?_ }
  show ((s.tc.queue.zipIdx.map _).map TurnReq.train).Sublist _
  rw [List.map_map, show (TurnReq.train ∘ fun x : TurnReq × Nat =>
      if x.2 < i ∧ s.eligible x.1 then { x.1 with effective := x.1.effective - 1 } else x.1) = TurnReq.train ∘ Prod.fst by
    funext x
    simp only [Function.comp_apply]
    split <;> rfl]
  rw [← List.map_map, List.zipIdx_map_fst]

theorem startMove_namesNoMore (s : State) (i : Nat) (e : TurnReq) (m : Move) : NamesNoMore s (s.startMove i e m) := by
  unfold State.startMove
  dsimp only
  refine NamesNoMore.trans ?_ (driveTable_namesNoMore _ _ _ _)
  split
  · exact setTc_namesNoMore s _ (List.Sublist.refl _)
  · refine NamesNoMore.trans ?_ (updTrain_namesNoMore _ _ _)
    exact setTc_namesNoMore s _ (List.Sublist.refl _)

theorem grantTurn_namesNoMore (s : State) (i : Nat) (e : TurnReq) : NamesNoMore s (s.grantTurn i e) := by
  have opened := openGrant_namesNoMore s i e
  unfold State.grantTurn State.serveTurn
  split
  · split
    · exact opened
    · exact opened.trans (.ite (endRequest_namesNoMore _ _ _) (startMove_namesNoMore _ _ _ _))
  · exact opened

theorem arbitrate_namesNoMore (s : State) : NamesNoMore s s.arbitrate := by
  have same : ∀ (u : State) (x : TC), x.queue = u.tc.queue → NamesNoMore u (u.setTc x) := fun u x h =>
    setTc_namesNoMore u x (by rw [h])
  have loop : ∀ (n : Nat) (u : State), NamesNoMore u (arbitrateLoop n u) := by
    intro n
    induction n with
    | zero => exact fun u => .refl u
    | succ n ih =>
      intro u
      unfold arbitrateLoop
      refine .ite (.refl u) ?_
      split
      · refine .ite (.trans ?_ (ih _)) ?_
        · exact same u _ rfl
        · split
          · refine .trans ?_ (ih _)
            exact same u _ rfl
          · exact .ite ((grantTurn_namesNoMore u _ _).trans (ih _)) (same u _ rfl)
      · split
        · exact same u _ rfl
        · exact (grantTurn_namesNoMore u _ _).trans (ih _)
  exact loop _ s

/-! ### Demonstrations -/

theorem erase_stays_empty {α : Type} (t : Tab α) (k : Nat) {j : Nat} (h : t.get? j = none) : (t.erase k).get? j = none := by
  by_contra e
  obtain ⟨x, hx⟩ := Option.ne_none_iff_exists'.1 e
  have row := rowsGet_mem _ _ _ hx
  obtain ⟨y, hy⟩ := get?_of_mem_keys t j (List.mem_map_of_mem (f := Prod.fst) ((rowsErase_sublist _ _).subset row))
  rw [h] at hy
  contradiction

theorem eraseDwell_namesNoMore (s : State) (k : Nat) :
    NamesNoMore s { s with awu := { s.awu with dwells := s.awu.dwells.erase k } } :=
  { NamesNoMore.refl s with
    dwells := fun _ h => erase_stays_empty _ k h
    formed := fun w => Tab.erase_wf _ _ w }

theorem emptyDwell_namesNoMore (s : State) (k : Nat) : NamesNoMore s (s.putDwell k none) :=
  (updTrain_namesNoMore s k fun t => { t with dwell := none }).trans (eraseDwell_namesNoMore _ k)

theorem noticeWith_namesNoMore (s : State) (c : Cause) (n d : Nat) : NamesNoMore s (s.noticeWith c n d) :=
  .of_fields rfl rfl rfl rfl rfl

theorem startCooldown_namesNoMore (s : State) (p : Nat) : NamesNoMore s (s.startCooldown p) :=
  .ite (.refl s) (.of_fields rfl rfl rfl rfl rfl)

theorem stopRunning_namesNoMore (s : State) :
    NamesNoMore s { s with awu := { s.awu with running := none } }.wantAttempt where
  routes := (NamesNoMore.refl s).routes
  stack := (NamesNoMore.refl s).stack
  turns := (NamesNoMore.refl s).turns
  dwells := fun _ => id
  formed := id
  running := .inr rfl

theorem withdrawWaiting_namesNoMore (c : Prop) [Decidable c] (s : State) (n : Nat) :
    NamesNoMore s (if c then s.withdrawWaiting n else s) := by
  refine .ite ?_ (.refl s)
  unfold State.withdrawWaiting
  split
  · exact .refl s
  · exact .ite (.refl s) (dropTurn_namesNoMore s _)

/-- R151: the end of a demo whose train's routes it does not cancel. -/
theorem endDemo_namesNoMore (s : State) (why : DemoEnd)
    (h : why = .complete ∨ ∀ d, s.awu.running = some d → s.slotOf d.train = none) : NamesNoMore s (s.endDemo why) := by
  unfold State.endDemo
  split
  · exact .refl s
  · next d running =>
    dsimp only
    refine NamesNoMore.trans ?_ (stopRunning_namesNoMore _)
    refine NamesNoMore.trans ?_ (.trans (startCooldown_namesNoMore _ d.panel) (noticeWith_namesNoMore _ _ _ _))
    refine NamesNoMore.trans ?_ (withdrawWaiting_namesNoMore _ _ _)
    split
    · exact .refl s
    · next k known =>
      have complete : why = .complete := h.resolve_right fun absent => by
        rw [absent d running] at known
        contradiction
      rw [if_pos complete]
      exact (updTrain_namesNoMore s k _).trans (emptyDwell_namesNoMore _ k)

end Sys2Proof.Machine
end

section
/-! PROOFS. Once nothing names a train that has left the register, the end of an event does not name it again (R47). -/
namespace Sys2Proof.Machine

/-! ### What does not name a train -/

/-- No train stands in slot `k`, and none has the number `n`. -/
structure Absent (k n : Nat) (s : State) : Prop where
  rising : s.tr.trains.Wf
  slot : s.train? k = none
  number : ∀ j y, s.train? j = some y → y.number ≠ n

/-- No route, stack entry, turn request or dwell names the train of slot `k` and number `n`, and no running demo. -/
structure Unnamed (k n : Nat) (s : State) : Prop where
  routes : ∀ r ∈ s.iu.routes.rows, r.2.train ≠ some k
  stack : ∀ e ∈ s.iu.stack, e.train ≠ some n
  turns : some n ∉ s.tc.queue.map TurnReq.train
  dwell : s.awu.dwells.get? k = none
  running : ∀ d, s.awu.running = some d → d.train ≠ n

theorem Absent.within {k n : Nat} {s t : State} (h : Absent k n s) (w : Within s t) : Absent k n t where
  rising := w.rising h.rising
  slot := not_not.1 (mt (w.present k).2 (not_not.2 h.slot))
  number := fun j y hy e => by
    have same := w.who j
    rw [hy] at same
    obtain ⟨x, hx, eq⟩ := Option.map_eq_some_iff.1 same.symm
    exact h.number j x hx ((congrArg Prod.fst eq).trans e)

theorem Unnamed.of {k n : Nat} {s t : State} (h : Unnamed k n s) (names : NamesNoMore s t) : Unnamed k n t where
  routes := fun r hr e => by
    rcases names.routes r hr with none_ | ⟨q, hq, same⟩
    · rw [none_] at e
      contradiction
    · exact h.routes q hq (same.trans e)
  stack := fun e he eq => by
    obtain ⟨d, hd, same⟩ := names.stack e he
    exact h.stack d hd (same.trans eq)
  turns := fun m => h.turns (names.turns.subset m)
  dwell := names.dwells k h.dwell
  running := fun d hd => by
    rcases names.running with e | e
    · exact h.running d (e.symm.trans hd)
    · rw [hd] at e
      contradiction

/-- A number that is found is another train's, in another slot. -/
theorem Absent.found {k n m j : Nat} {s : State} (h : Absent k n s) (found : s.slotOf m = some j) : j ≠ k ∧ m ≠ n := by
  obtain ⟨⟨i, y⟩, row, rfl⟩ := Option.map_eq_some_iff.1 found
  have here : s.train? i = some y := get?_of_mem _ _ _ (List.mem_of_find?_eq_some row) h.rising
  have number : y.number = m := by simpa using List.find?_some row
  refine ⟨fun e => ?_, fun e => h.number i y here (number.trans e)⟩
  have e : i = k := e
  rw [e, h.slot] at here
  contradiction

/-! ### Routes that are activated (R85, R111) -/

theorem putRoute_namesNoMore {s : State} {k : Nat} {r q : ActiveRoute} (h : s.route? k = some q) (e : r.train = q.train) :
    NamesNoMore s (s.putRoute k r) :=
  { NamesNoMore.refl s with
    routes := fun row hr => by
      rcases rowsPut_mem s.iu.routes.rows k r row hr with new | old
      · exact .inr ⟨(k, q), rowsGet_mem _ _ _ h, by rw [new]; exact e.symm⟩
      · exact .inr ⟨row, old, rfl⟩ }

theorem clearRoute_namesNoMore (s : State) (k : Nat) : NamesNoMore s (s.clearRoute k) := by
  unfold State.clearRoute
  split
  · exact .refl s
  · next r route =>
    have base : NamesNoMore s ((s.putRoute k { r with state := .cleared }).notice .routeSet r.route) :=
      .trans (putRoute_namesNoMore (r := { r with state := .cleared }) route rfl) (notice_namesNoMore _ _ _)
    dsimp only
    split
    · exact base
    · exact base.trans (updTrain_namesNoMore _ _ _)

theorem command_namesNoMore (s : State) (p : Nat) (q : Pos) : NamesNoMore s (s.command p q) := by
  unfold State.command
  split
  · exact .refl s
  · refine .ite (.refl s) ?_
    split
    · split <;> exact .of_fields rfl rfl rfl rfl rfl
    · exact .of_fields rfl rfl rfl rfl rfl

/-- R85: an activation names no train but the one its record names. -/
theorem activate_namesNoMore (s : State) (d : RouteRec) (k : Nat) (a : RouteAsk) : ∃ r : ActiveRoute,
    r.train = a.train.bind s.slotOf ∧ NamesNoMore (s.putRoute k r) (s.activate d k a) := by
  refine ⟨{
    route := a.route, train := a.train.bind s.slotOf, station := a.station, state := .setting,
    marks := d.sections.map (fun _ => .reserved),
    moving := (d.settings.filter (fun x => !decide ((s.point x.1).state = x.2.settled))).length, approach := none }, rfl, ?_⟩
  unfold State.activate
  dsimp only
  have last : ∀ (u v : State) (c : Prop) [Decidable c], NamesNoMore u v → NamesNoMore u (if c then v.clearRoute k else v) :=
    fun u v c _ h => .ite (h.trans (clearRoute_namesNoMore v k)) h
  refine last _ _ _ (.trans ?_ (wantArbitrate_namesNoMore _))
  refine .trans ?_ (.foldl (fun s (x : Nat × Pos) => command_namesNoMore s x.1 x.2) _ _)
  refine .trans ?_ (.foldl (fun s (x : Nat × Pos) => (.of_fields rfl rfl rfl rfl rfl : NamesNoMore s (s.lock x))) _ _)
  refine .trans ?_ (.foldl (fun s x => (.of_fields rfl rfl rfl rfl rfl : NamesNoMore s (s.putMark x (.overlap k)))) _ _)
  exact .foldl (fun s x => (.of_fields rfl rfl rfl rfl rfl : NamesNoMore s (s.putMark x (.route k)))) _ _

theorem Unnamed.activateChecked {k n : Nat} {s : State} (h : Unnamed k n s) (absent : Absent k n s) (a : RouteAsk) :
    Unnamed k n (s.activateChecked a).1 := by
  unfold State.activateChecked
  split
  · next d j _ _ =>
    obtain ⟨r, named, names⟩ := activate_namesNoMore s d j a
    refine Unnamed.of ?_ names
    refine { h with routes := fun row hr => ?_ }
    rcases rowsPut_mem s.iu.routes.rows j r row hr with new | old
    · rw [new, named]
      intro e
      obtain ⟨m, -, found⟩ := Option.bind_eq_some_iff.1 e
      exact (absent.found found).1 rfl
    · exact h.routes row old
  · exact h

theorem grantEntry_unnamed {k n : Nat} {s : State} (h : Unnamed k n s) (absent : Absent k n s) (e : StackEntry)
    (u : List Nat) : Unnamed k n (s.grantEntry e u) := by
  refine { h.activateChecked absent e.ask with stack := fun x hx => ?_ }
  rcases List.mem_append.1 hx with hx | hx
  · obtain ⟨y, hy, rfl⟩ := List.mem_map.1 hx
    have old := h.stack y ((List.takeWhile_sublist _).subset hy)
    split <;> exact old
  · exact h.stack x ((List.dropWhile_sublist _).subset ((List.tail_sublist _).subset hx))

theorem Unnamed.retryScan {k n : Nat} {s : State} (h : Unnamed k n s) (absent : Absent k n s) : Unnamed k n s.retryScan := by
  have loop : ∀ (m : Nat) (u : List Nat) (t : State), Unnamed k n t → Absent k n t → Unnamed k n (retryLoop m u t) := by
    intro m
    induction m with
    | zero => exact fun _ _ h _ => h
    | succ m ih =>
      intro u t h absent
      unfold retryLoop
      split
      · exact h
      · next e he =>
        dsimp only
        split
        · next check =>
          exact ih _ _ (grantEntry_unnamed h absent e _)
            (absent.within (grantEntry_rail t e _ (nextTry_mem he) check).toWithin)
        · exact ih _ _ h absent
  exact loop _ _ s h absent

/-! ### Demos that start (R150) -/

theorem Unnamed.askTurn {k n : Nat} {s : State} (h : Unnamed k n s) (a : TurnAsk) (other : a.train ≠ some n) :
    Unnamed k n (s.askTurn a).1 := by
  unfold State.askTurn
  split
  · exact h
  · dsimp only
    refine Unnamed.of ?_ (arbitrate_namesNoMore _)
    refine { h with turns := ?_ }
    show some n ∉ (s.tc.queue ++ _).map TurnReq.train
    rw [List.map_append, List.mem_append]
    rintro (old | new)
    · exact h.turns old
    · exact other (List.mem_singleton.1 new).symm

theorem Unnamed.askRoute {k n : Nat} {s : State} (h : Unnamed k n s) (absent : Absent k n s) (a : RouteAsk)
    (direct : a.stack = false) : Unnamed k n (s.askRoute a).1 := by
  unfold State.askRoute
  split
  · exact h
  · split
    · exact h
    · split
      · exact h.activateChecked absent a
      · simp only [direct, Bool.false_eq_true, if_false]
        split
        · exact h
        · split <;> exact h

theorem Unnamed.attemptStart {k n : Nat} {s : State} (h : Unnamed k n s) (absent : Absent k n s) :
    Unnamed k n s.attemptStart := by
  unfold State.attemptStart
  split
  · exact h
  · split
    · exact h
    · next v l _ =>
      split
      · exact h
      · next d _ =>
        split
        · exact h
        · next j found =>
          obtain ⟨-, other⟩ := absent.found found
          have asked : Unnamed k n (s.demoRequest d).1 := by
            unfold State.demoRequest
            split
            · exact h.askRoute absent _ rfl
            · exact h.askTurn _ fun e => other (Option.some.inj e)
          split
          · exact h
          · split
            · dsimp only
              split
              · have started : Unnamed k n { (s.demoRequest d).1 with awu := { (s.demoRequest d).1.awu with
                    queue := (s.demoRequest d).1.awu.queue.tail,
                    running := some ⟨v.demo, d.train, v.panel, v.button, d.limit * 10⟩ } } :=
                  { asked with running := fun r hr => by cases hr; exact other }
                unfold State.startDemo
                dsimp only
                refine Unnamed.of ?_ (notice_namesNoMore _ _ _)
                split
                · exact started.of (updTrain_namesNoMore _ _ _)
                · exact started
              · exact h
            · exact h

/-! ### The end of an event -/

theorem turnEnded_namesNoMore (s : State) (e : TurnEnd) : NamesNoMore s (s.turnEnded e) := by
  unfold State.turnEnded
  exact .trans (.ite (endDemo_namesNoMore s _ (.inl rfl)) (.refl s)) (.of_fields rfl rfl rfl rfl rfl)

theorem Unnamed.settle {k n : Nat} (m : Nat) {s : State} (h : Unnamed k n s) (absent : Absent k n s) :
    Unnamed k n (settle m s) := by
  have due : ∀ (t : State) (d : Due), NamesNoMore t { t with due := d } := fun t d => .of_fields rfl rfl rfl rfl rfl
  have gone : ∀ (t : State) (d : Due), Absent k n t → Absent k n { t with due := d } := fun t d a =>
    ⟨a.rising, a.slot, a.number⟩
  induction m generalizing s with
  | zero => exact h
  | succ m ih =>
    unfold Machine.settle
    split
    · refine ih ?_ (absent.within (iuTakes_inner s).toWithin)
      unfold State.iuTakes
      dsimp only
      split
      · exact (h.of (due s _)).retryScan (gone s _ absent)
      · exact h.of (due s _)
    · split
      · refine ih ?_ (absent.within (awuTakes_inner s).toWithin)
        unfold State.awuTakes
        split
        · exact (h.of (due s _)).of (turnEnded_namesNoMore _ _)
        · exact (h.of (due s _)).attemptStart (gone s _ absent)
      · split
        · refine ih ?_ (absent.within (tcTakes_inner s).toWithin)
          exact (h.of (due s _)).of (arbitrate_namesNoMore _)
        · exact h

/-- R47: nothing of the machine names the train of slot `k` and number `n`. -/
structure Rid (k n : Nat) (s : State) : Prop where
  absent : Absent k n s
  unnamed : Unnamed k n s
  urgent : k ∉ s.ss.urgent

theorem Rid.followUp {k n : Nat} {s t : State} (h : Rid k n s) (w : Within s t) (f : FollowUp s t)
    (urgent : ∀ j ∈ t.ss.urgent, s.train? j ≠ none ∨ j ∈ s.ss.urgent) : Rid k n t where
  absent := h.absent.within w
  unnamed := h.unnamed.of f.namesNoMore
  urgent := fun m => (urgent k m).elim (· h.absent.slot) h.urgent

theorem recompute_urgent (s : State) (k : Nat) :
    ∀ j ∈ (s.recompute k).ss.urgent, s.train? j ≠ none ∨ j ∈ s.ss.urgent := by
  intro j hj
  unfold State.recompute at hj
  split at hj
  · exact .inr hj
  · next x known =>
    dsimp only at hj
    split at hj
    · have granted : ∀ (u : State) (y : Train) (g : Nat), (u.grant k y g).ss.urgent = (u.joinUrgent k).ss.urgent :=
        fun u y g => by
          unfold State.grant
          dsimp only
          split <;> exact (joinUrgent_urgent _ k).trans (joinUrgent_urgent u k).symm
      rw [granted, joinUrgent_urgent] at hj
      rcases List.mem_append.1 hj with old | new
      · exact .inr old
      · refine .inl ?_
        split at new
        · contradiction
        · rw [List.mem_singleton.1 new, known]
          simp
    · exact .inr hj

theorem Rid.recomputeAll {k n : Nat} {s : State} (h : Rid k n s) : Rid k n s.recomputeAll :=
  foldl_invariant (P := Rid k n) (fun t j r => r.followUp (recompute_rail t j).toWithin (recompute_followUp t j)
    (recompute_urgent t j)) _ s h

theorem Rid.handOn {k n : Nat} {s : State} (h : Rid k n s) : Rid k n s.handOn where
  absent := h.absent.within (handOn_inner s).toWithin
  unnamed := h.unnamed.settle _ h.absent
  urgent := by
    rw [handOn_ss]
    exact h.urgent

theorem Rid.settleSpeeds {k n : Nat} (m : Nat) {s : State} (h : Rid k n s) : Rid k n (settleSpeeds m s) := by
  induction m generalizing s with
  | zero => exact h
  | succ m ih =>
    have round := h.handOn.recomputeAll
    unfold Machine.settleSpeeds
    dsimp only
    split
    · exact round
    · exact ih round

theorem startOrder_urgent (s : State) (k : Nat) (b : Bool) : (s.startOrder k b).ss.urgent ⊆ s.ss.urgent := by
  unfold State.startOrder
  split <;> exact List.filter_sublist.subset

theorem closePort_urgent (before : List Nat) (s : State) : (s.closePort before).ss.urgent ⊆ s.ss.urgent := by
  have ordered : (s.orderJoins before).ss.urgent ⊆ s.ss.urgent := fun j hj => by
    rcases List.mem_append.1 hj with old | new
    · exact List.mem_of_mem_filter old
    · exact List.mem_of_mem_filter ((List.perm_insertionSort (· ≤ ·) _).mem_iff.1 new)
  refine List.Subset.trans ?_ ordered
  unfold State.closePort State.kickPort
  split
  · exact List.Subset.refl _
  · split
    · exact List.Subset.refl _
    · split
      · exact startOrder_urgent _ _ _
      · split
        · exact startOrder_urgent _ _ _
        · exact List.Subset.refl _

/-- R47: the end of an event names no train that has left. -/
theorem Rid.finish {k n : Nat} {s : State} (h : Rid k n s) (before : List Nat) : Rid k n (s.finish before) := by
  have speeds := h.settleSpeeds Config.handoffBound
  unfold State.finish
  generalize Machine.settleSpeeds Config.handoffBound s = t at *
  have aspects := speeds.followUp (refreshAspects_rail t).toWithin (refreshAspects_followUp t) fun j m =>
    .inr (by rw [refreshAspects_ss] at m; exact m)
  have lamps := aspects.followUp (refreshLamps_inner _).toWithin (refreshLamps_followUp _) fun j m =>
    .inr (by rw [refreshLamps_ss] at m; exact m)
  exact lamps.followUp (closePort_rail before _).toWithin (closePort_followUp before _) fun j m => .inr (closePort_urgent before _ m)

end Sys2Proof.Machine
end

section
/-! PROOFS. RETIRE TRAIN (R46, R47): the register's part, the blocks' parts, and the obligation. -/
namespace Sys2Proof.Machine

/-! ### The register's part -/

theorem Calm.occupied {s t : State} (h : Calm s t) (x : Nat) : t.occupied x = s.occupied x := by
  unfold State.occupied State.input State.plan
  rw [h.pm, h.fs]

/-- R47: what a retirement does with one section of the span. -/
def State.leaveSection (s : State) (x : Nat) : State := if s.occupied x then s.putStray x true else s.sectionLeft x

theorem leaveSection_calm (s : State) (x : Nat) : Calm s (s.leaveSection x) :=
  Calm.ite (putStray_calm s x true) (sectionLeft_rail s x).calm

theorem releaseEntered_relinquishes (s : State) (x : Nat) : Relinquishes s (s.releaseEntered x) := by
  unfold State.releaseEntered
  split
  · split
    · exact .refl s
    · exact .ite ((releaseMark_relinquishes s _ x).trans (retireIfReleased_relinquishes _ _)) (.refl s)
  · exact .refl s

theorem leaveSection_relinquishes (s : State) (x : Nat) : Relinquishes s (s.leaveSection x) := by
  refine .ite (.of_fields rfl rfl rfl rfl rfl rfl rfl) ?_
  have released : Relinquishes s (s.releaseEntered x).wantScan :=
    (releaseEntered_relinquishes s x).trans (.of_fields rfl rfl rfl rfl rfl rfl rfl)
  exact released.trans (approachTest_relinquishes _)

theorem leaveSection_stray (s : State) (x y : Nat) (w : s.tr.stray.Wf) : (s.leaveSection x).tr.stray.Wf ∧
    (s.leaveSection x).stray y = if y = x ∧ s.occupied y = true then true else s.stray y := by
  unfold State.leaveSection
  by_cases occupied : s.occupied x = true
  · rw [if_pos occupied]
    refine ⟨putD_wf _ _ _ _ w, ?_⟩
    split
    · next e =>
      rw [e.1]
      exact Tab.getD_putD_same _ _ _ _ w
    · next e => exact Tab.getD_putD_ne _ _ _ fun same => e ⟨same, same ▸ occupied⟩
  · rw [if_neg occupied, State.stray, (sectionLeft_rail s x).tr]
    refine ⟨w, (if_neg ?_).symm⟩
    rintro ⟨rfl, e⟩
    exact occupied e

theorem leaveSections_stray (l : List Nat) (s : State) (y : Nat) (w : s.tr.stray.Wf) :
    (l.foldl State.leaveSection s).stray y = if y ∈ l ∧ s.occupied y = true then true else s.stray y := by
  induction l generalizing s with
  | nil => simp
  | cons x l ih =>
    obtain ⟨formed, own⟩ := leaveSection_stray s x y w
    rw [List.foldl_cons, ih _ formed, own, (leaveSection_calm s x).occupied]
    by_cases occupied : s.occupied y = true
    · simp only [occupied, and_true, List.mem_cons]
      by_cases later : y ∈ l
      · rw [if_pos later, if_pos (.inr later)]
      · simp only [later, or_false, if_false]
    · simp [occupied]

/-- R47: the register with the slot and the handle emptied, before the sections of the span are left. -/
def State.unseated (s : State) (k : Nat) (x : Train) : State :=
  { s.dropHandle x.owner with tr := { (s.dropHandle x.owner).tr with
    trains := (s.dropHandle x.owner).tr.trains.erase k,
    vacated := (s.dropHandle x.owner).tr.vacated || decide ((s.dropHandle x.owner).tr.cursor = k) } }

theorem retireRecord_eq (s : State) (k : Nat) (x : Train) :
    s.retireRecord k x = x.span.foldl State.leaveSection (s.unseated k x) := rfl

theorem unseated_frame (s : State) (k : Nat) (x : Train) : s.unseated k x = { s with tr := { s.tr with
    trains := s.tr.trains.erase k, handles := (s.dropHandle x.owner).tr.handles,
    keepAlive := (s.dropHandle x.owner).tr.keepAlive, vacated := s.tr.vacated || decide (s.tr.cursor = k) } } := by
  rw [State.unseated, dropHandle_frame]

theorem retireRecord_calm (s : State) (k : Nat) (x : Train) : Calm (s.unseated k x) (s.retireRecord k x) :=
  Calm.foldl leaveSection_calm x.span _

theorem retireRecord_relinquishes (s : State) (k : Nat) (x : Train) :
    Relinquishes (s.unseated k x) (s.retireRecord k x) := Relinquishes.foldl leaveSection_relinquishes x.span _

theorem retireRecord_stray (s : State) (k : Nat) (x : Train) (y : Nat) (w : s.tr.stray.Wf) :
    (s.retireRecord k x).stray y = if y ∈ x.span ∧ s.occupied y = true then true else s.stray y := by
  rw [retireRecord_eq, leaveSections_stray _ _ _ (by rw [unseated_frame]; exact w), unseated_frame]
  rfl

/-- R42, R47: the train is in the register no longer. -/
theorem retireRecord_absent {s : State} (r : RegisterLaw s) {k : Nat} {x : Train} (h : s.train? k = some x) :
    Absent k x.number (s.retireRecord k x) := by
  have identity := retireRecord_identity s k x r.rising
  refine ⟨(retireRecord_calm s k x).rising ?_, ?_, fun j y hy e => ?_⟩
  · rw [unseated_frame]
    exact Tab.erase_wf _ _ r.rising
  · exact Option.map_eq_none_iff.1 ((identity k).trans (if_pos rfl))
  · have same := identity j
    rw [hy] at same
    split at same
    · contradiction
    · next other =>
      obtain ⟨z, hz, eq⟩ := Option.map_eq_some_iff.1 same.symm
      exact other (r.numbers j k z x hz h ((congrArg Prod.fst eq).trans e))

/-! ### The blocks' parts -/

theorem Absent.leaves {k n : Nat} {s t : State} (h : Absent k n s) (l : Leaves s t) : Absent k n t where
  rising := l.rising h.rising
  slot := by
    have same := l.identity k
    rw [h.slot] at same
    exact Option.map_eq_none_iff.1 same
  number := fun j y hy e => by
    have same := l.identity j
    rw [hy] at same
    obtain ⟨z, hz, eq⟩ := Option.map_eq_some_iff.1 same.symm
    exact h.number j z hz ((congrArg Prod.fst eq).trans e)

theorem retireFromIu_namesNoMore (s : State) (k n : Nat) : NamesNoMore s (s.retireFromIu k n) := by
  unfold State.retireFromIu
  refine .trans ?_ (.foldl (fun s (e : StackEntry) => notice_namesNoMore s _ e.route) _ _)
  refine { NamesNoMore.refl s with routes := fun r hr => ?_, stack := fun e he => ⟨e, List.mem_of_mem_filter he, rfl⟩ }
  obtain ⟨q, hq, rfl⟩ := List.mem_map.1 hr
  dsimp only
  split
  · exact .inl rfl
  · exact .inr ⟨q, hq, rfl⟩

theorem retirePart_namesNoMore {k n : Nat} {s : State} (h : Absent k n s) (b : Block) :
    NamesNoMore s (State.retirePart k n s b) := by
  cases b with
  | tr => exact .refl s
  | iu => exact retireFromIu_namesNoMore s k n
  | ss => exact .of_fields rfl rfl rfl rfl rfl
  | tc =>
    show NamesNoMore s (s.dropTurnsOf n)
    unfold State.dropTurnsOf
    split
    · exact .refl s
    · exact dropTurn_namesNoMore s _
  | awu =>
    show NamesNoMore s (s.retireFromAwu k n)
    unfold State.retireFromAwu
    have erased := eraseDwell_namesNoMore s k
    dsimp only
    split
    · next mine =>
      refine erased.trans (endDemo_namesNoMore _ _ (.inr fun d hd => ?_))
      rw [hd] at mine
      rw [Option.some.inj mine]
      exact slotOf_absent h.rising h.number
    · exact erased

/-- R47: the routes are unassigned and the stack entries dropped. -/
theorem retireFromIu_clears (s : State) (k n : Nat) :
    (∀ r ∈ (s.retireFromIu k n).iu.routes.rows, r.2.train ≠ some k) ∧ ∀ e ∈ (s.retireFromIu k n).iu.stack, e.train ≠ some n := by
  have iu : ∀ (l : List StackEntry) (u : State), (l.foldl (fun s e => s.notice .stackDropped e.route) u).iu = u.iu :=
    fun l u => foldl_keeps (f := fun s (e : StackEntry) => s.notice .stackDropped e.route) (fun s => s.iu) (fun _ _ => rfl) l u
  unfold State.retireFromIu
  dsimp only
  rw [iu]
  refine ⟨fun r hr => ?_, fun e he => ?_⟩
  · obtain ⟨q, -, rfl⟩ := List.mem_map.1 hr
    dsimp only
    split
    · simp
    · assumption
  · simpa using (List.mem_filter.1 he).2

/-- R47: where one turn request names the train, none does after the TC's part. -/
theorem dropTurnsOf_clears {s : State} {n : Nat} (once : (s.tc.queue.map TurnReq.train).count (some n) ≤ 1) :
    some n ∉ (s.dropTurnsOf n).tc.queue.map TurnReq.train := by
  unfold State.dropTurnsOf State.turnOf
  cases found : s.tc.queue.zipIdx.find? (fun x => decide (x.1.train = some n)) with
  | none =>
    have absent := List.find?_eq_none.1 found
    intro m
    obtain ⟨e, he, named⟩ := List.mem_map.1 m
    obtain ⟨i, lt, rfl⟩ := List.mem_iff_getElem.1 he
    exact absent (s.tc.queue[i], i) (List.mk_mem_zipIdx_iff_getElem?.2 (List.getElem?_eq_getElem lt)) (by simpa using named)
  | some x =>
    obtain ⟨e, i⟩ := x
    have named : e.train = some n := by simpa using List.find?_some found
    have place := List.mk_mem_zipIdx_iff_getElem?.1 (List.mem_of_find?_eq_some found)
    obtain ⟨lt, rfl⟩ := List.getElem?_eq_some_iff.1 place
    have queue : (s.dropTurn i).tc.queue = s.tc.queue.eraseIdx i := by
      unfold State.dropTurn
      dsimp only
      split <;> rfl
    have perm := ((List.getElem_cons_eraseIdx_perm lt).map TurnReq.train).count_eq (some n)
    rw [List.map_cons, named, List.count_cons_self] at perm
    dsimp only [Option.map_some]
    rw [queue]
    exact List.count_eq_zero.1 (by omega)

theorem retireFromAwu_clears {s : State} (k n : Nat) (absent : Absent k n s) (formed : s.awu.dwells.Wf) :
    (s.retireFromAwu k n).awu.dwells.get? k = none ∧ ∀ d, (s.retireFromAwu k n).awu.running = some d → d.train ≠ n := by
  have ended : ∀ (u : State) (why : DemoEnd), (u.endDemo why).awu.running = none := fun u why => by
    unfold State.endDemo
    split
    · assumption
    · rfl
  have erased := Tab.get?_erase_same s.awu.dwells k formed
  unfold State.retireFromAwu
  dsimp only
  split
  · next mine =>
    refine ⟨(endDemo_namesNoMore _ _ (.inr fun d hd => ?_)).dwells k erased, fun d hd => ?_⟩
    · rw [hd] at mine
      rw [Option.some.inj mine]
      exact slotOf_absent absent.rising absent.number
    · rw [ended] at hd
      contradiction
  · next others => exact ⟨erased, fun d hd e => others (by rw [hd, Option.map_some, e])⟩

/-- R47: after the blocks' parts nothing names the train. -/
theorem retireParts_rid {s : State} {k n : Nat} (order : List Block) (absent : Absent k n s) (formed : s.awu.dwells.Wf)
    (once : (s.tc.queue.map TurnReq.train).count (some n) ≤ 1) :
    Rid k n ((fullOrder order).foldl (State.retirePart k n) s) := by
  have step : ∀ (P : State → Prop) (b : Block), (∀ u v, NamesNoMore u v → P u → P v) →
      (∀ u, Absent k n u → u.awu.dwells.Wf → (u.tc.queue.map TurnReq.train).count (some n) ≤ 1 →
        P (State.retirePart k n u b)) → P ((fullOrder order).foldl (State.retirePart k n) s) := fun P b keep reach =>
    foldl_establishes (b := b)
      (Q := fun u => Absent k n u ∧ u.awu.dwells.Wf ∧ (u.tc.queue.map TurnReq.train).count (some n) ≤ 1)
      (fun u c ⟨gone, wf, few⟩ => by
        have names := retirePart_namesNoMore gone c
        exact ⟨gone.leaves (retirePart_leaves k n u c), names.formed wf, (names.turns.count_le _).trans few⟩)
      (fun u c q p => keep _ _ (retirePart_namesNoMore q.1 c) p)
      (fun u ⟨gone, wf, few⟩ => reach u gone wf few) _ (mem_fullOrder order b) s ⟨absent, formed, once⟩
  refine ⟨absent.leaves (Leaves.foldl (retirePart_leaves k n) _ s), ⟨?_, ?_, ?_, ?_, ?_⟩, (retireParts_urgent k n order s).2⟩
  · refine step (fun u => ∀ r ∈ u.iu.routes.rows, r.2.train ≠ some k) .iu (fun u v names h r hr e => ?_)
      fun u _ _ _ => (retireFromIu_clears u k n).1
    rcases names.routes r hr with none_ | ⟨q, hq, same⟩
    · rw [none_] at e
      contradiction
    · exact h q hq (same.trans e)
  · refine step (fun u => ∀ e ∈ u.iu.stack, e.train ≠ some n) .iu (fun u v names h e he eq => ?_)
      fun u _ _ _ => (retireFromIu_clears u k n).2
    obtain ⟨d, hd, same⟩ := names.stack e he
    exact h d hd (same.trans eq)
  · exact step (fun u => some n ∉ u.tc.queue.map TurnReq.train) .tc (fun u v names h m => h (names.turns.subset m))
      fun u _ _ few => dropTurnsOf_clears few
  · exact step (fun u => u.awu.dwells.get? k = none) .awu (fun u v names h => names.dwells k h)
      fun u gone wf _ => (retireFromAwu_clears k n gone wf).1
  · refine step (fun u => ∀ d, u.awu.running = some d → d.train ≠ n) .awu (fun u v names h d hd => ?_)
      fun u gone wf _ => (retireFromAwu_clears k n gone wf).2
    rcases names.running with e | e
    · exact h d (e.symm.trans hd)
    · rw [hd] at e
      contradiction

/-! ### The request -/

/-- What a retirement, and the end of its event, leave in the register. -/
structure Retires (s : State) (k : Nat) (x : Train) (w : State) : Prop where
  identity : ∀ j, (w.train? j).map Train.identity = if j = k then none else (s.train? j).map Train.identity
  handles : w.tr.handles = (s.dropHandle x.owner).tr.handles ∧ w.tr.keepAlive = (s.dropHandle x.owner).tr.keepAlive
  stray : s.tr.stray.Wf → ∀ y, w.stray y = if y ∈ x.span ∧ s.occupied y = true then true else s.stray y
  cursor : w.tr.cursor = s.tr.cursor ∧ w.tr.vacated = (s.tr.vacated || decide (s.tr.cursor = k))
  kept : w.pm = s.pm ∧ w.mc = s.mc ∧ w.freeCount = s.freeCount

theorem retire_leaves (s : State) (k : Nat) (x : Train) : Leaves (s.retireRecord k x) (s.retire k x) := by
  have parts := Leaves.foldl (retirePart_leaves k x.number) (fullOrder s.order) (s.retireRecord k x)
  exact .ite (parts.trans (wantArbitrate_rail _).toInner.leaves) parts

theorem retire_retires (s : State) (k : Nat) (x : Train) (w : s.tr.trains.Wf) (before : List Nat) :
    Retires s k x ((s.retire k x).finish before) := by
  have leaves := (retire_leaves s k x).trans (finish_inner (s.retire k x) before).leaves
  have calm := retireRecord_calm s k x
  have frame := unseated_frame s k x
  refine ⟨fun j => (leaves.identity j).trans (retireRecord_identity s k x w j), ⟨?_, ?_⟩, fun wf y => ?_, ⟨?_, ?_⟩,
    ⟨?_, ?_, ?_⟩⟩
  · rw [leaves.tr, calm.tr, frame]
  · rw [leaves.tr, calm.tr, frame]
  · rw [State.stray, leaves.tr]
    exact retireRecord_stray s k x y wf
  · rw [leaves.tr, calm.tr, frame]
  · rw [leaves.tr, calm.tr, frame]
  · rw [leaves.pm, calm.pm, frame]
  · rw [leaves.mc, (retireRecord_relinquishes s k x).mc, frame]
  · rw [leaves.freeCount, calm.freeCount, frame]

/-- R47: after a retirement nothing names the train. -/
theorem retire_rid {s : State} (r : RegisterLaw s) {k : Nat} {x : Train} (h : s.train? k = some x) (formed : s.awu.dwells.Wf)
    (once : (s.tc.queue.map TurnReq.train).count (some x.number) ≤ 1) : Rid k x.number (s.retire k x) := by
  have same := retireRecord_relinquishes s k x
  have frame := unseated_frame s k x
  have parts := retireParts_rid (s := s.retireRecord k x) s.order (retireRecord_absent r h)
    (by rw [same.awu, frame]; exact formed) (by rw [same.tc, frame]; exact once)
  unfold State.retire
  dsimp only
  split
  · exact ⟨parts.absent.within (wantArbitrate_rail _).toWithin, parts.unnamed.of (wantArbitrate_namesNoMore _), parts.urgent⟩
  · exact parts

theorem ownRetireTrain_eq {s : State} {st ref k : Nat} {x : Train} (found : s.resolveRef st ref = .ok k)
    (train : s.train? k = some x) : ownRetireTrain s st ref =
      if x.granted ≠ 0 then (s, .refused .busy []) else if x.state = .turning then (s, .refused .busy [])
      else if st ≠ 0 ∧ !s.plan.hasStaging x.span then (s, .refused .notPermitted []) else (s.retire k x, .done []) := by
  rw [ownRetireTrain, found]
  simp only [train]

theorem hasStaging_iff (p : Plan) (l : List Nat) :
    p.hasStaging l = true ↔ ∃ x ∈ l, ∃ g, p.sections.get? x = some g ∧ g.kind = .staging := by
  simp only [Plan.hasStaging, List.any_eq_true, decide_eq_true_eq, Option.map_eq_some_iff]

/-- Settles O30. -/
theorem retireTrain : Obligations.RetireTrain := by
  intro f st s hi lo slot x staging register handles keepAlive strays dwells once carries listening names kinds
  have found : (s.openFrame f).resolveRef st (pair hi lo) = .ok slot := names.resolves register
  obtain ⟨train, -, -⟩ := names
  have own := ownRetireTrain_eq (s := s.openFrame f) found train
  have staged : (s.openFrame f).plan.hasStaging x.span = true ↔ staging := by
    rw [kinds]
    exact hasStaging_iff s.plan x.span
  refine ⟨fun busy => ?_, fun stands rests => ⟨fun cab plain => ?_, fun may => ?_⟩⟩
  · refine congrArg Host.Outcome.next (takeRequest_refuses carries listening (decode_u16 hi lo) (own.trans ?_))
    by_cases moves : x.granted ≠ 0
    · rw [if_pos moves]
    · rw [if_neg moves, if_pos (busy.resolve_left moves)]
  · refine congrArg Host.Outcome.next (takeRequest_refuses carries listening (decode_u16 hi lo) (own.trans ?_))
    rw [if_neg (not_not.2 stands), if_neg rests, if_pos ⟨cab, by simpa using mt staged.1 plain⟩]
  · have done : ownRetireTrain (s.openFrame f) st (pair hi lo) = ((s.openFrame f).retire slot x, .done []) := by
      rw [own, if_neg (not_not.2 stands), if_neg rests, if_neg]
      rintro ⟨cab, plain⟩
      rw [staged.2 (may.resolve_left cab)] at plain
      contradiction
    have opened := openFrame_upholds s f
    have few : ((s.openFrame f).tc.queue.map TurnReq.train).count (some x.number) ≤ 1 := by
      rw [List.count, List.countP_map, List.countP_eq_length_filter]
      refine (congrArg List.length (List.filter_congr fun e _ => ?_)).trans_le once
      exact beq_eq_decide _ _
    have rid := (retire_rid (opened.register register) train dwells few).finish s.ss.urgent
    obtain ⟨identity, ⟨freed, timed⟩, stray, ⟨cursor, vacated⟩, pm, mc, free⟩ :=
      retire_retires (s.openFrame f) slot x register.rising s.ss.urgent
    refine ⟨_, congrArg Host.Outcome.next (takeRequest_done carries listening (decode_u16 hi lo) done), rid.absent.slot,
      fun k other => (identity k).trans (if_neg other), ?_, stray strays, cursor, vacated,
      fun k r route => rid.unnamed.routes (k, r) (rowsGet_mem _ _ _ route), rid.unnamed.stack, fun e he eq => ?_, rid.urgent,
      rid.unnamed.dwell, rid.unnamed.running, pm, mc, free⟩
    · rw [freed, timed]
      exact dropHandle_freed (s.openFrame f) x.owner handles keepAlive
    · exact rid.unnamed.turns (List.mem_map.2 ⟨e, he, eq⟩)

end Sys2Proof.Machine
end
section
/-! PROOFS. A plan that PLAN CHECK passes with three joins on one side of a section (R2, R20 code 6): the direction in which a
train may enter its next section (R60) is then not settled by the joins, and the statements that say it is are refuted. -/
namespace Sys2Proof.Machine

/-! ### The layout -/

/-- Section 1 has three unconditional joins to section 2 on its EAST side, the second of them flipped; code 6 compares the
entries of a side only where there are two. Route 1 runs over section 2 from a SHUNT signal there that faces WEST. -/
def threeJoins : Plan :=
  { sections := ⟨[
      (1, ⟨100, 0, .plain, 40, [⟨2, false, none⟩, ⟨2, true, none⟩, ⟨2, false, none⟩], [], 0⟩),
      (2, ⟨100, 1, .plain, 40, [⟨1, true, none⟩], [⟨1, false, none⟩], 0⟩)]⟩,
    signals := ⟨[(1, ⟨.shunt, 2, .west, 0, 0, none, none, none, some 1⟩)]⟩,
    routes := ⟨[(1, ⟨.shunt, 1, 0, [2], [], [], [], none⟩)]⟩ }

theorem threeJoins_passes : threeJoins.check = none := by decide

theorem threeJoins_form : PlanForm threeJoins := by constructor <;> decide

/-- A train on section 1, travelling EAST. -/
def eastbound : Train :=
  { number := 1, cls := .goods, length := 50, owner := .supervisor, span := [1], dir := .east, sense := .forward,
    state := .active, auto := false, overrun := false, requested := 5, granted := 0, route := none, dwell := none }

/-- Route 1, CLEARED for any train. -/
def westward : ActiveRoute :=
  { route := 1, train := none, station := 0, state := .cleared, marks := [.reserved], moving := 0, approach := none }

/-- That layout at work: the train alone, section 2 clear and reserved by route 1. -/
def facingBothWays : State :=
  { pm := { plan := threeJoins, valid := true },
    fs := { inputs := ⟨[(1, { value := false })]⟩ },
    tr := { trains := ⟨[(1, eastbound)]⟩ },
    iu := { routes := ⟨[(1, westward)]⟩, marks := ⟨[(2, .route 1)]⟩ },
    mc := { mode := .run } }

theorem facingBothWays_train {k : Nat} {x : Train} (h : facingBothWays.train? k = some x) : k = 1 ∧ x = eastbound :=
  Prod.mk.inj (List.mem_singleton.1 (rowsGet_mem [(1, eastbound)] k x h))

theorem facingBothWays_route {k : Nat} {r : ActiveRoute} (h : facingBothWays.route? k = some r) : k = 1 ∧ r = westward :=
  Prod.mk.inj (List.mem_singleton.1 (rowsGet_mem [(1, westward)] k r h))

theorem facingBothWays_register : RegisterLaw facingBothWays where
  rising := by decide
  slots := by decide
  numbers := fun j k x y hj hk _ => (facingBothWays_train hj).1.trans (facingBothWays_train hk).1.symm
  setup := nofun

theorem facingBothWays_routes : RouteLaw facingBothWays where
  rising := by decide
  slots := by decide
  entries := fun j k e hj hk => by
    have one : ∀ {i}, facingBothWays.entrySignal i = some e → i = 1 := fun {i} h => by
      obtain ⟨d, plan, -⟩ := Option.map_eq_some_iff.1 h
      obtain ⟨r, held, -⟩ := Option.bind_eq_some_iff.1 plan
      exact (facingBothWays_route held).1
    exact (one hj).trans (one hk).symm
  few := by decide
  once := by decide
  levels := nofun
  setup := nofun

theorem facingBothWays_spans : SpanLaw facingBothWays where
  span := fun k x h => by rw [(facingBothWays_train h).2]; decide
  apart := fun j k x y _ hj hk _ _ => (facingBothWays_train hj).1.trans (facingBothWays_train hk).1.symm

/-! ### What its joins lead to (R60) -/

/-- The flipped join leads WEST into section 2, and no join is conditioned NORMAL. -/
theorem facingBothWays_leadsWest : facingBothWays.leadsTo eastbound 2 .west :=
  ⟨by decide, ⟨2, true, none⟩, by decide, rfl, ⟨nofun, nofun⟩, rfl, fun ⟨e, mem, _, _, p, normal⟩ => by
    have free : ∀ e ∈ facingBothWays.plan.joins facingBothWays.align eastbound.head eastbound.dir, e.cond = none := by decide
    rw [free e mem] at normal
    contradiction⟩

theorem facingBothWays_leadsTo {sec : Nat} {d : Dir} (h : facingBothWays.leadsTo eastbound sec d) : sec = 2 := by
  obtain ⟨-, e, mem, target, -⟩ := h
  have all : ∀ e ∈ facingBothWays.plan.joins facingBothWays.align eastbound.head eastbound.dir, e.target = 2 := by decide
  exact target.symm.trans (all e mem)

/-- TR follows the first join alone: the one candidate for section 2 would enter it EAST. -/
theorem facingBothWays_candidates : facingBothWays.candidates facingBothWays 2 = [(1, .east)] := by decide

/-! ### What the train may run on (R116 to R119) -/

theorem facingBothWays_ahead {j : Nat} (h : facingBothWays.ahead 1 eastbound j) : j = 1 := by
  obtain ⟨r, d, g, sec, held, -⟩ := h
  exact (facingBothWays_route held).1

/-- Route 1 is the one route ahead of the train. -/
theorem facingBothWays_startsOn : facingBothWays.startsOn 1 eastbound 1 :=
  ⟨by decide, .inr ⟨nofun, ⟨westward, _, _, 2, rfl, rfl, rfl, rfl, rfl, facingBothWays_leadsWest, .inl rfl, .inl rfl⟩,
    fun _ => facingBothWays_ahead⟩⟩

theorem facingBothWays_proves : facingBothWays.proves westward ⟨.shunt, 1, 0, [2], [], [], [], none⟩ :=
  ⟨rfl, nofun, by decide⟩

theorem facingBothWays_opens :
    facingBothWays.opens 1 ⟨.shunt, 1, 0, [2], [], [], [], none⟩ 2 .reserved where
  reserved := rfl
  clean := rfl
  alone := fun _ _ h _ => (facingBothWays_train h).1
  clear := nofun
  points := nofun

/-- The walk takes section 2, the whole of route 1, which no route follows. -/
theorem facingBothWays_mayRun : facingBothWays.mayRun 1 3 1 [(1, 2)] :=
  ⟨westward, _, [2], True, [], rfl, rfl,
    .inr ⟨.inl ⟨rfl, facingBothWays_proves⟩, [], [(2, .reserved)], [], .inl ⟨rfl, rfl, by decide⟩, rfl,
      fun y mem => by rw [List.mem_singleton.1 mem]; exact facingBothWays_opens, nofun, nofun, by decide⟩,
    rfl, .inr ⟨rfl, fun ⟨_, _, _, _, exits, _⟩ => exits rfl⟩⟩

theorem facingBothWays_safe : ¬facingBothWays.endangered 1 eastbound := by
  rintro (stopped | lost | overrun | fault | ⟨sec, d, leads, blocked⟩)
  · exact absurd stopped (by decide)
  · exact absurd lost (by decide)
  · exact absurd overrun (by decide)
  · exact absurd fault (by decide)
  · rw [facingBothWays_leadsTo leads] at blocked
    rcases blocked with stray | ⟨j, y, other, -, ne⟩ | ⟨occupied, -⟩
    · exact absurd stray (by decide)
    · exact ne (facingBothWays_train other).1
    · exact absurd occupied (by decide)

/-- R118, R119: by the joins as the rules read them the train may run at grade 1. -/
theorem facingBothWays_allows : facingBothWays.allows 1 eastbound 1 where
  safe := facingBothWays_safe
  free := rfl
  most := by decide
  requested := by decide
  cls := by decide
  span := fun sec r mem plan => by
    rw [List.mem_singleton.1 mem] at plan
    cases plan
    decide
  points := nofun
  shunt := fun _ _ _ _ _ _ _ => by decide
  authority := ⟨1, [(1, 2)], facingBothWays_startsOn, facingBothWays_mayRun, by decide,
    fun j sec r mem plan => by
      cases List.mem_singleton.1 mem
      cases plan
      decide,
    fun _ _ _ _ _ _ _ _ _ _ plan => nomatch plan⟩

/-- The SS looks for a route entered EAST, finds none and lets the train run at no grade. -/
theorem facingBothWays_target : facingBothWays.targetOf 1 eastbound = 0 := by decide

/-! ### The statements -/

/-- Refutes O13: its last clause asks of the plan that PLAN CHECK passes it, and not that it keeps to the two entries a side
of R2. With three, the rules allow a train a grade that its target does not reach. -/
theorem not_proceedIsProved : ¬Obligations.ProceedIsProved := by
  rintro ⟨-, -, -, target⟩
  obtain ⟨highest, -⟩ := target facingBothWays 1 eastbound facingBothWays_routes facingBothWays_spans threeJoins_form
    threeJoins_passes facingBothWays_register.rising rfl
  have within := (highest 1).2 (.inr facingBothWays_allows)
  rw [facingBothWays_target] at within
  contradiction

/-- Refutes O58: its clause on the candidates for a section asks of the plan that PLAN CHECK passes it, and not that it keeps
to the two entries a side of R2. With three, a train has a section among its next ones in a direction in which it is no
candidate. -/
theorem not_trackingFollowsTheReport : ¬Obligations.TrackingFollowsTheReport := by
  intro follows
  obtain ⟨-, -, -, -, -, candidates, -⟩ := follows facingBothWays 2 facingBothWays_register
  have west := (candidates threeJoins_passes threeJoins_form 1 .west).2 ⟨eastbound, rfl, facingBothWays_leadsWest⟩
  rw [facingBothWays_candidates] at west
  exact absurd west (by decide)

end Sys2Proof.Machine
end
section
/-! PROOFS. What the TC does with each sensor event, state by state, and at the end of a request (R71, R131, R138, R139). -/
namespace Sys2Proof.Machine

/-! ### The turntable outputs -/

theorem driveTable_showsOnly (s : State) (cw acw rel : Bool) : ShowsOnly s (s.driveTable cw acw rel) := by
  unfold State.driveTable
  dsimp only
  split
  · exact ((setOut_showsOnly _ _ _).trans (setOut_showsOnly _ _ _)).trans (setOut_showsOnly _ _ _)
  · exact .refl s

@[simp] theorem driveTable_tc (s : State) (cw acw rel : Bool) : (s.driveTable cw acw rel).tc = s.tc := by
  rw [driveTable_showsOnly s cw acw rel]

@[simp] theorem driveTable_clp (s : State) (cw acw rel : Bool) : (s.driveTable cw acw rel).clp = s.clp := by
  rw [driveTable_showsOnly s cw acw rel]

@[simp] theorem driveTurning_tc (s : State) (d : Turning) : (s.driveTurning d).tc = s.tc := driveTable_tc _ _ _ _

/-- R8: a present turntable whose three outputs are different bits. -/
structure State.Wired (s : State) : Prop where
  present : s.plan.turntable.present = true
  image : s.fs.image.Wf
  apart : [s.plan.turntable.cwBit, s.plan.turntable.acwBit, s.plan.turntable.releaseBit].Nodup

/-- The outputs of a turntable: clockwise, anticlockwise, lock release. -/
structure State.Drives (s : State) (t : TurntableRec) (cw acw rel : Bool) : Prop where
  clockwise : s.out t.cwBit = cw
  anticlockwise : s.out t.acwBit = acw
  release : s.out t.releaseBit = rel

theorem State.Wired.driven {s : State} (h : s.Wired) (cw acw rel : Bool) :
    (s.driveTable cw acw rel).Drives s.plan.turntable cw acw rel := by
  obtain ⟨present, image, apart⟩ := h
  simp only [List.nodup_cons, List.mem_cons, List.not_mem_nil, or_false, not_or, not_false_eq_true, List.nodup_nil,
    and_true] at apart
  obtain ⟨⟨cwAcw, cwRel⟩, acwRel⟩ := apart
  have one := setOut_image_wf s s.plan.turntable.cwBit cw image
  have two := setOut_image_wf _ s.plan.turntable.acwBit acw one
  have drive : s.driveTable cw acw rel = ((s.setOut s.plan.turntable.cwBit cw).setOut s.plan.turntable.acwBit acw).setOut
      s.plan.turntable.releaseBit rel := if_pos present
  have read (b : Nat) : (s.driveTable cw acw rel).out b = if b = s.plan.turntable.releaseBit then rel
      else if b = s.plan.turntable.acwBit then acw else if b = s.plan.turntable.cwBit then cw else s.out b := by
    rw [drive, setOut_out _ _ _ _ two, setOut_out _ _ _ _ one, setOut_out _ _ _ _ image]
  refine ⟨?_, ?_, ?_⟩
  · rw [read, if_neg cwRel, if_neg cwAcw, if_pos rfl]
  · rw [read, if_neg acwRel, if_pos rfl]
  · rw [read, if_pos rfl]

theorem State.Drives.off {s : State} {t : TurntableRec} (h : s.Drives t false false false) :
    ∀ bit ∈ [t.cwBit, t.acwBit, t.releaseBit], s.out bit = false := by
  simpa using ⟨h.clockwise, h.anticlockwise, h.release⟩

/-! ### Events that a state does not take (R131, R138) -/

/-- The states in which an index or home arrival is taken. -/
def TC.awaitsArrival (x : TC) : Prop := (x.state = .homing ∧ x.phase = some .seek) ∨ x.state = .moving ∨ x.state = .halted

/-- The states in which the lock's confirmation is taken. -/
def TC.awaitsLock (x : TC) : Prop := (x.state = .homing ∧ x.phase = some .engage) ∨ x.state = .locking

/-- The states in which the lock's dropping is taken. -/
def TC.awaitsDrop (x : TC) : Prop :=
  (x.state = .homing ∧ x.phase = some .release) ∨ x.state = .unlocking ∨ x.state = .locked

theorem arrival_untaken {s : State} (h : ¬s.tc.awaitsArrival) (index home : Bool) : s.arrival index home = s := by
  unfold State.arrival
  split
  · next e => exact if_neg fun phase => h (.inl ⟨e, phase⟩)
  · next e => exact absurd (.inr (.inl e)) h
  · next e => exact absurd (.inr (.inr e)) h
  · rfl

theorem lockConfirmed_untaken {s : State} (h : ¬s.tc.awaitsLock) : s.lockConfirmed = s := by
  unfold State.lockConfirmed
  split
  · next e => exact if_neg fun phase => h (.inl ⟨e, phase⟩)
  · next e => exact absurd (.inr e) h
  · rfl

theorem lockDropped_untaken {s : State} (h : ¬s.tc.awaitsDrop) : s.lockDropped = s := by
  unfold State.lockDropped
  split
  · next e => exact if_neg fun phase => h (.inl ⟨e, phase⟩)
  · next e => exact absurd (.inr (.inl e)) h
  · next e => exact absurd (.inr (.inr e)) h
  · rfl

/-- A report whose arrivals leave the state `t` does no more where `t` does not take the lock events it brings. -/
theorem sensors_arrived {s t : State} {index home confirmed dropped : Bool} (arrives : s.arrival index home = t)
    (confirms : confirmed = true → ¬t.tc.awaitsLock) (drops : dropped = true → ¬t.tc.awaitsDrop) :
    s.sensors index home confirmed dropped = t.wantArbitrate := by
  have confirm : (if confirmed = true then t.lockConfirmed else t) = t :=
    ite_eq_right_iff.2 fun c => lockConfirmed_untaken (confirms c)
  have drop : (if dropped = true then t.lockDropped else t) = t :=
    ite_eq_right_iff.2 fun c => lockDropped_untaken (drops c)
  unfold State.sensors
  simp only [arrives, confirm, drop]

theorem sensors_confirmed (s : State) (index home : Bool) :
    s.sensors index home true false = (s.arrival index home).lockConfirmed.wantArbitrate := rfl

theorem sensors_dropped (s : State) (index home : Bool) :
    s.sensors index home false true = (s.arrival index home).lockDropped.wantArbitrate := rfl

/-! ### Events that a state takes (R131, R138) -/

theorem arrival_silent (s : State) : s.arrival false false = s := by
  unfold State.arrival
  split
  · exact ite_eq_right_iff.2 fun _ => rfl
  · split <;> rfl
  · split <;> rfl
  · rfl

theorem arrival_seek {s : State} (state : s.tc.state = .homing) (phase : s.tc.phase = some .seek) (index home : Bool) :
    s.arrival index home = if home then s.engage else if index then s.countIndex else s := by
  unfold State.arrival
  rw [state]
  exact if_pos phase

theorem arrival_away {s : State} {m : Move} (state : s.tc.state = .moving ∨ s.tc.state = .halted)
    (move : s.tc.move = some m) (index home : Bool) : s.arrival index home = if index then s.stepIndex m else s := by
  unfold State.arrival
  rcases state with state | state <;> simp only [state, move]

theorem countIndex_counts {s : State} {n : Nat} (index : s.tc.index = some n) (few : n < 47) :
    s.countIndex = s.setTc { s.tc with index := some (n + 1), timer := some s.plan.turntable.stepTimeout } := by
  unfold State.countIndex
  rw [index]
  exact if_neg (by simp only [Option.getD_some]; omega)

theorem countIndex_full {s : State} (index : s.tc.index = some 47) : s.countIndex = s.faultTable 4 := by
  unfold State.countIndex
  rw [index]
  rfl

/-- R138: where end A stands after a step of a move. -/
def TC.stepped (x : TC) (m : Move) : Option Nat := x.pos.map fun p => stepFrom p m.dir

theorem TC.stepped_of_pos {x : TC} {p : Nat} (pos : x.pos = some p) (m : Move) : x.stepped m = some (stepFrom p m.dir) := by
  rw [TC.stepped, pos, Option.map_some]

theorem stepIndex_halted {s : State} (m : Move) (state : s.tc.state = .halted) : s.stepIndex m =
    s.setTc { s.tc with pos := s.tc.stepped m, move := some { m with steps := m.steps - 1 } } := by
  simp [State.stepIndex, state, TC.stepped]

theorem stepIndex_moving {s : State} (m : Move) (state : s.tc.state = .moving) : s.stepIndex m =
    if m.steps - 1 = 0 then
      (s.setTc { s.tc with
        state := .locking, pos := s.tc.stepped m, move := some { m with steps := m.steps - 1 },
        timer := some s.plan.turntable.lockTimeout }).driveTable false false false
    else s.setTc { s.tc with
      pos := s.tc.stepped m, move := some { m with steps := m.steps - 1 },
      timer := some s.plan.turntable.stepTimeout } := by
  simp only [State.stepIndex, State.setTc_tc, state, if_true]
  rfl

@[simp] theorem wantArbitrate_train? (s : State) (k : Nat) : s.wantArbitrate.train? k = s.train? k := rfl
@[simp] theorem becomeLocked_train? (s : State) (k : Nat) : s.becomeLocked.train? k = s.train? k := rfl
@[simp] theorem becomeLocked_occupied (s : State) (sec : Nat) : s.becomeLocked.occupied sec = s.occupied sec := rfl
@[simp] theorem becomeLocked_clp (s : State) : s.becomeLocked.clp = s.clp := rfl

theorem lockConfirmed_engage {s : State} (state : s.tc.state = .homing) (phase : s.tc.phase = some .engage) :
    s.lockConfirmed = s.becomeLocked.notice .turnDone 0 := by
  unfold State.lockConfirmed
  rw [state]
  exact if_pos phase

theorem servedTurn_at {s : State} {pre post : List TurnReq} {y : TurnReq} (queue : s.tc.queue = pre ++ y :: post)
    (served : s.tc.served = some (pre.length + 1)) : s.servedTurn = some (pre.length, y) := by
  simp [State.servedTurn, queue, served]

theorem lockConfirmed_locking {s : State} {pre post : List TurnReq} {y : TurnReq} (state : s.tc.state = .locking)
    (queue : s.tc.queue = pre ++ y :: post) (served : s.tc.served = some (pre.length + 1)) :
    s.lockConfirmed = s.becomeLocked.endRequest pre.length y := by
  unfold State.lockConfirmed
  rw [state, servedTurn_at queue served]

theorem lockDropped_release {s : State} (state : s.tc.state = .homing) (phase : s.tc.phase = some .release) :
    s.lockDropped = s.seek := by
  unfold State.lockDropped
  rw [state]
  exact if_pos phase

theorem lockDropped_unlocking {s : State} {m : Move} (state : s.tc.state = .unlocking) (mode : s.mc.mode ≠ .stop)
    (move : s.tc.move = some m) : s.lockDropped =
      (s.setTc { s.tc with state := .moving, timer := some s.plan.turntable.stepTimeout }).driveTurning m.dir := by
  unfold State.lockDropped
  rw [state, move]
  exact if_neg mode

theorem lockDropped_unlocking_stop {s : State} (state : s.tc.state = .unlocking) (mode : s.mc.mode = .stop) :
    s.lockDropped = s.setTc { s.tc with state := .halted, timer := none } := by
  unfold State.lockDropped
  rw [state]
  exact if_pos mode

theorem lockDropped_locked {s : State} (state : s.tc.state = .locked) : s.lockDropped = s.faultTable 5 := by
  unfold State.lockDropped
  rw [state]

/-- R140: a fault while no request is served. -/
theorem faultTable_unserved {s : State} (served : s.tc.served = none) (stage : Nat) :
    (s.faultTable stage).tc = { s.tc with
        state := .faulted, timer := none, phase := none, index := none, burst := none, preempt := false,
        stopEnd := false } ∧
      (s.faultTable stage).clp = s.clp.record .turntableFault stage 0 := by
  have unserved : ((s.driveTable false false false).setTc { (s.driveTable false false false).tc with
      state := .faulted, timer := none, phase := none, index := none }).servedTurn = none := by
    simp [State.servedTurn, served]
  unfold State.faultTable
  simp only [unserved]
  simp [State.notice_clp, State.setTc]

/-! ### The end of a request (R71, R139) -/

/-- R71: the test of a span makes no train LOST, or that of the slot. -/
theorem testSpan_cases (s : State) (k : Nat) : s.testSpan k = s ∨
    ∃ x : Train, s.testSpan k = ((s.putTrain k { x with state := .lost }).notice .trainLost x.number).wantArbitrate := by
  unfold State.testSpan
  split
  · exact .inl rfl
  · next x held =>
    split
    · refine .inr ⟨x, ?_⟩
      unfold State.loseTrain
      rw [held]
    · exact .inl rfl

theorem testSpan_stands {s : State} {k : Nat} {x : Train} (held : s.train? k = some x)
    (stands : ∀ sec, x.span = [sec] → s.occupied sec = true) : s.testSpan k = s := by
  unfold State.testSpan
  rw [held]
  refine if_neg ?_
  rintro ⟨-, one, clear⟩
  obtain ⟨sec, span⟩ := List.length_eq_one_iff.1 one
  simp [Train.head, span, stands sec span] at clear

theorem testSpan_lost {s : State} {k sec : Nat} {x : Train} (held : s.train? k = some x)
    (state : x.state = .active ∨ x.state = .held) (span : x.span = [sec]) (clear : s.occupied sec = false) :
    s.testSpan k = ((s.putTrain k { x with state := .lost }).notice .trainLost x.number).wantArbitrate := by
  have loses : s.testSpan k = s.loseTrain k := by
    unfold State.testSpan
    rw [held]
    exact if_pos ⟨state, by simp [span], by simp [Train.head, span, clear]⟩
  rw [loses, State.loseTrain, held]

/-- R139: the state in which a train is looked at when its request ends: it is back in its return state. -/
def State.returned (s : State) (k : Nat) (x : Train) (back : TrainState) : State :=
  (s.setTc { s.tc with returnHeld := none }).putTrain k { x with state := back }

theorem handBack_none {s : State} {e : TurnReq} (h : e.train = none ∨ s.tc.returnHeld = none) :
    s.handBack e = s.setTc { s.tc with returnHeld := none } := by
  unfold State.handBack
  rcases h with h | h
  · have nobody : e.train.bind s.slotOf = none := by rw [h]; rfl
    rw [nobody]
    split
    · contradiction
    · rfl
  · rw [h]

theorem handBack_some {s : State} {e : TurnReq} {k : Nat} {x : Train} {held : Bool} (law : RegisterLaw s)
    (train : s.train? k = some x) (named : e.train = some x.number) (back : s.tc.returnHeld = some held) :
    s.handBack e = ((s.returned k x (if held then .held else .active)).testSpan k).wantArbitrate := by
  have slot : e.train.bind s.slotOf = some k := by
    rw [named]
    exact slotOf_some law train rfl
  unfold State.handBack
  rw [back, slot]
  exact congrArg (fun u => (State.testSpan u k).wantArbitrate)
    (updTrain_some (s := s.setTc { s.tc with returnHeld := none }) train _)

/-- R139: what a hand-back leaves of the TC, the ends of requests and the notices. -/
structure HandsBack (s t : State) : Prop where
  tc : t.tc = { s.tc with returnHeld := none }
  mode : t.mc = s.mc
  turnEnds : t.due.turnEnds = s.due.turnEnds
  notices : t.clp = s.clp ∨ ∃ n, t.clp = s.clp.record .trainLost n 0

theorem handBack_handsBack (s : State) (e : TurnReq) : HandsBack s (s.handBack e) := by
  unfold State.handBack
  split
  · next held k _ _ =>
    dsimp only
    generalize back : (s.setTc { s.tc with returnHeld := none }).updTrain k _ = u
    have frame : u.tc = { s.tc with returnHeld := none } ∧ u.mc = s.mc ∧ u.due = s.due ∧ u.clp = s.clp := by
      rw [← back, updTrain_frame]
      exact ⟨rfl, rfl, rfl, rfl⟩
    obtain ⟨tc, mc, due, clp⟩ := frame
    have ends : u.due.turnEnds = s.due.turnEnds := congrArg Due.turnEnds due
    rcases testSpan_cases u k with same | ⟨x, lost⟩
    · rw [same]
      exact ⟨tc, mc, ends, .inl clp⟩
    · rw [lost]
      exact ⟨tc, mc, ends, .inr ⟨x.number, congrArg (CLP.record · .trainLost x.number 0) clp⟩⟩
  · exact ⟨rfl, rfl, rfl, .inl rfl⟩

/-- R139: what the end of a request does once its train is handed back. -/
def State.closeRequest (s : State) (i : Nat) (e : TurnReq) : State :=
  (((((s.removeTurn i).setTc { (s.removeTurn i).tc with
    served := none, move := none, stopEnd := decide (s.mc.mode = .stop) }).notice .turnDone e.road).handTurnEnd e
      true).wantArbitrate)

theorem endRequest_eq (s : State) (i : Nat) (e : TurnReq) : s.endRequest i e = (s.handBack e).closeRequest i e := by
  unfold State.endRequest State.closeRequest
  rfl

theorem closeRequest_tc (s : State) (i : Nat) (e : TurnReq) : (s.closeRequest i e).tc = { s.tc with
    queue := s.tc.queue.eraseIdx i, served := none, move := none, stopEnd := decide (s.mc.mode = .stop) } := rfl

theorem closeRequest_tr (s : State) (i : Nat) (e : TurnReq) : (s.closeRequest i e).tr = s.tr := rfl

theorem closeRequest_clp (s : State) (i : Nat) (e : TurnReq) :
    (s.closeRequest i e).clp = s.clp.record .turnDone e.road 0 := rfl

theorem closeRequest_turnEnds (s : State) (i : Nat) (e : TurnReq) :
    (s.closeRequest i e).due.turnEnds = s.due.turnEnds ++ [⟨e.station, e.train, e.road, true⟩] := rfl

theorem endRequest_tc {s : State} {pre post : List TurnReq} {y : TurnReq} (queue : s.tc.queue = pre ++ y :: post) :
    (s.endRequest pre.length y).tc = { s.tc with
      queue := pre ++ post, served := none, move := none, returnHeld := none,
      stopEnd := decide (s.mc.mode = .stop) } := by
  obtain ⟨tc, mode, -, -⟩ := handBack_handsBack s y
  have gone : (pre ++ y :: post).eraseIdx pre.length = pre ++ post := by
    rw [List.eraseIdx_append_of_length_le (le_refl _)]
    simp
  rw [endRequest_eq, closeRequest_tc, tc, mode, queue, gone]

theorem endRequest_tr (s : State) (i : Nat) (e : TurnReq) : (s.endRequest i e).tr = (s.handBack e).tr := by
  rw [endRequest_eq, closeRequest_tr]

theorem endRequest_clp (s : State) (i : Nat) (e : TurnReq) :
    (s.endRequest i e).clp = (s.handBack e).clp.record .turnDone e.road 0 := by
  rw [endRequest_eq, closeRequest_clp]

theorem endRequest_turnEnds (s : State) (i : Nat) (e : TurnReq) :
    (s.endRequest i e).due.turnEnds = s.due.turnEnds ++ [⟨e.station, e.train, e.road, true⟩] := by
  rw [endRequest_eq, closeRequest_turnEnds, (handBack_handsBack s e).turnEnds]

theorem record_length_le (p : CLP) (c : Cause) (n d : Nat) :
    (p.record c n d).notices.length ≤ p.notices.length + 1 := by
  unfold CLP.record
  split
  · simp
  · split
    · simp
    · split
      · have := (evict_spec (lowestRank p.notices) p.notices).1.length_le
        simpa using this
      · simp

theorem noticed_record {p : CLP} (few : p.notices.length < 32) (c : Cause) (n d : Nat) :
    noticed (p.record c n d).notices c n = true := by
  unfold CLP.record
  split
  · next there =>
    obtain ⟨x, mem, is⟩ := List.any_eq_true.1 there
    obtain ⟨cause, subject⟩ := raiseNotice_same c n d x
    refine List.any_eq_true.2 ⟨_, List.mem_map_of_mem mem, ?_⟩
    rw [cause, subject]
    exact is
  · rw [if_pos (show p.notices.length < Config.noticeEntries from few)]
    simp [noticed]

/-- With two entries to spare the end of a request is noticed, a LOST train before it or not. -/
theorem endRequest_noticed {s : State} (room : s.clp.notices.length ≤ 30) (i : Nat) (e : TurnReq) :
    noticed (s.endRequest i e).clp.notices .turnDone e.road = true := by
  have few : (s.handBack e).clp.notices.length ≤ s.clp.notices.length + 1 := by
    rcases (handBack_handsBack s e).notices with same | ⟨n, lost⟩
    · rw [same]
      omega
    · rw [lost]
      exact record_length_le _ _ _ _
  rw [endRequest_clp]
  exact noticed_record (by omega) _ _ _

/-! ### The statement, state by state (R131, R138, R139) -/

section
variable {s : State}

theorem tc_of_arbitrating {t : State} (h : t = s.wantArbitrate) : t.tc = s.tc := by
  rw [h, State.wantArbitrate_tc]

theorem sensors_homing_release (state : s.tc.state = .homing) (phase : s.tc.phase = some .release) :
    (∀ i h c, s.sensors i h c false = s.wantArbitrate) ∧ ∀ i h, s.sensors i h false true = s.seek.wantArbitrate := by
  have arrives (i h : Bool) : s.arrival i h = s := arrival_untaken (by simp [TC.awaitsArrival, state, phase]) i h
  refine ⟨fun i h c => sensors_arrived (arrives i h) (fun _ => by simp [TC.awaitsLock, state, phase]) nofun, fun i h => ?_⟩
  rw [sensors_dropped, arrives, lockDropped_release state phase]

theorem sensors_homing_seek (state : s.tc.state = .homing) (phase : s.tc.phase = some .seek) :
    (∀ c d, s.sensors false false c d = s.wantArbitrate) ∧
      (∀ i d, s.sensors i true false d = s.engage.wantArbitrate) ∧
      (∀ n d, s.tc.index = some n → n < 47 → s.sensors true false false d = (s.setTc { s.tc with
        index := some (n + 1), timer := some s.plan.turntable.stepTimeout }).wantArbitrate) ∧
      (s.tc.index = some 47 → s.sensors true false false false = (s.faultTable 4).wantArbitrate) := by
  have arrives := arrival_seek state phase
  refine ⟨fun c d => ?_, fun i d => ?_, fun n d index few => ?_, fun index => ?_⟩
  · exact sensors_arrived (arrival_silent s) (fun _ => by simp [TC.awaitsLock, state, phase])
      fun _ => by simp [TC.awaitsDrop, state, phase]
  · exact sensors_arrived (arrives i true) nofun fun _ => by simp [TC.awaitsDrop, State.engage, state]
  · exact sensors_arrived ((arrives true false).trans (countIndex_counts index few)) nofun
      fun _ => by simp [TC.awaitsDrop, state, phase]
  · exact sensors_arrived ((arrives true false).trans (countIndex_full index)) nofun nofun

theorem sensors_homing_engage (state : s.tc.state = .homing) (phase : s.tc.phase = some .engage) :
    (∀ i h d, s.sensors i h false d = s.wantArbitrate) ∧
      ∀ i h, s.sensors i h true false = (s.becomeLocked.notice .turnDone 0).wantArbitrate := by
  have arrives (i h : Bool) : s.arrival i h = s := arrival_untaken (by simp [TC.awaitsArrival, state, phase]) i h
  refine ⟨fun i h d => sensors_arrived (arrives i h) nofun fun _ => by simp [TC.awaitsDrop, state, phase], fun i h => ?_⟩
  rw [sensors_confirmed, arrives, lockConfirmed_engage state phase]

theorem sensors_unlocking (state : s.tc.state = .unlocking) :
    (∀ i h c, s.sensors i h c false = s.wantArbitrate) ∧
      (∀ i h m, s.mc.mode ≠ .stop → s.tc.move = some m → s.sensors i h false true = ((s.setTc { s.tc with
        state := .moving, timer := some s.plan.turntable.stepTimeout }).driveTurning m.dir).wantArbitrate) ∧
      ∀ i h, s.mc.mode = .stop →
        s.sensors i h false true = (s.setTc { s.tc with state := .halted, timer := none }).wantArbitrate := by
  have arrives (i h : Bool) : s.arrival i h = s := arrival_untaken (by simp [TC.awaitsArrival, state]) i h
  refine ⟨fun i h c => sensors_arrived (arrives i h) (fun _ => by simp [TC.awaitsLock, state]) nofun,
    fun i h m mode move => ?_, fun i h mode => ?_⟩
  · rw [sensors_dropped, arrives, lockDropped_unlocking state mode move]
  · rw [sensors_dropped, arrives, lockDropped_unlocking_stop state mode]

theorem sensors_moving {m : Move} (state : s.tc.state = .moving) (move : s.tc.move = some m) :
    (∀ h d, s.sensors false h false d = s.wantArbitrate) ∧
      (∀ h d, 1 < m.steps → s.sensors true h false d = (s.setTc { s.tc with
        pos := s.tc.stepped m, move := some { m with steps := m.steps - 1 },
        timer := some s.plan.turntable.stepTimeout }).wantArbitrate) ∧
      ∀ h d, m.steps = 1 → s.sensors true h false d = ((s.setTc { s.tc with
        state := .locking, pos := s.tc.stepped m, move := some { m with steps := 0 },
        timer := some s.plan.turntable.lockTimeout }).driveTable false false false).wantArbitrate := by
  have arrives := arrival_away (.inl state) move
  have steps := stepIndex_moving m state
  refine ⟨fun h d => ?_, fun h d more => ?_, fun h d last => ?_⟩
  · exact sensors_arrived (arrives false h) nofun fun _ => by simp [TC.awaitsDrop, state]
  · exact sensors_arrived ((arrives true h).trans (steps.trans (if_neg (by omega)))) nofun
      fun _ => by simp [TC.awaitsDrop, state]
  · rw [if_pos (by omega), last] at steps
    exact sensors_arrived ((arrives true h).trans steps) nofun fun _ => by simp [TC.awaitsDrop]

theorem sensors_halted {m : Move} (state : s.tc.state = .halted) (move : s.tc.move = some m) :
    (∀ h c d, s.sensors false h c d = s.wantArbitrate) ∧
      ∀ h c d, s.sensors true h c d = (s.setTc { s.tc with
        pos := s.tc.stepped m, move := some { m with steps := m.steps - 1 } }).wantArbitrate := by
  have arrives := arrival_away (.inr state) move
  refine ⟨fun h c d => ?_, fun h c d => ?_⟩
  · exact sensors_arrived (arrives false h) (fun _ => by simp [TC.awaitsLock, state])
      fun _ => by simp [TC.awaitsDrop, state]
  · exact sensors_arrived ((arrives true h).trans (stepIndex_halted m state)) (fun _ => by simp [TC.awaitsLock, state])
      fun _ => by simp [TC.awaitsDrop, state]

theorem sensors_locking (state : s.tc.state = .locking) :
    (∀ i h d, s.sensors i h false d = s.wantArbitrate) ∧
      ∀ i h pre y post, s.tc.queue = pre ++ y :: post → s.tc.served = some (pre.length + 1) →
        s.sensors i h true false = (s.becomeLocked.endRequest pre.length y).wantArbitrate := by
  have arrives (i h : Bool) : s.arrival i h = s := arrival_untaken (by simp [TC.awaitsArrival, state]) i h
  refine ⟨fun i h d => sensors_arrived (arrives i h) nofun fun _ => by simp [TC.awaitsDrop, state],
    fun i h pre y post queue served => ?_⟩
  rw [sensors_confirmed, arrives, lockConfirmed_locking state queue served]

theorem sensors_locked (state : s.tc.state = .locked) :
    (∀ i h c, s.sensors i h c false = s.wantArbitrate) ∧
      ∀ i h, s.sensors i h false true = (s.faultTable 5).wantArbitrate := by
  have arrives (i h : Bool) : s.arrival i h = s := arrival_untaken (by simp [TC.awaitsArrival, state]) i h
  refine ⟨fun i h c => sensors_arrived (arrives i h) (fun _ => by simp [TC.awaitsLock, state]) nofun, fun i h => ?_⟩
  rw [sensors_dropped, arrives, lockDropped_locked state]

/-- R71, R139: what the end of a request does to its train. -/
theorem endRequest_train {k : Nat} {x : Train} {e : TurnReq} {held : Bool} {back : TrainState} (i : Nat)
    (law : RegisterLaw s) (train : s.train? k = some x) (named : e.train = some x.number)
    (returns : s.tc.returnHeld = some held) (is : back = if held then .held else .active) :
    (∀ j, j ≠ k → (s.endRequest i e).train? j = s.train? j) ∧
      ((∀ sec, x.span = [sec] → s.occupied sec = true) →
        (s.endRequest i e).train? k = some { x with state := back } ∧
        (s.endRequest i e).clp = s.clp.record .turnDone e.road 0) ∧
      ∀ sec, x.span = [sec] → s.occupied sec = false →
        (s.endRequest i e).train? k = some { x with state := .lost } ∧
        (s.endRequest i e).clp = (s.clp.record .trainLost x.number 0).record .turnDone e.road 0 := by
  have handed := handBack_some law train named returns
  rw [← is] at handed
  have looked : (s.returned k x back).train? k = some { x with state := back } := by
    rw [State.returned, putTrain_train?, if_pos rfl]
  have others (j : Nat) (other : j ≠ k) : (s.returned k x back).train? j = s.train? j := by
    rw [State.returned, putTrain_train?, if_neg other]
    rfl
  have trains (j : Nat) : (s.endRequest i e).train? j = ((s.returned k x back).testSpan k).train? j := by
    unfold State.train?
    rw [endRequest_tr, handed, State.wantArbitrate_tr]
  have clp : (s.endRequest i e).clp = ((s.returned k x back).testSpan k).clp.record .turnDone e.road 0 := by
    rw [endRequest_clp, handed, State.wantArbitrate_clp]
  have free : back = .active ∨ back = .held := by cases held <;> simp [is]
  refine ⟨fun j other => ?_, fun stands => ?_, fun sec span clear => ?_⟩
  · rw [trains]
    rcases testSpan_cases (s.returned k x back) k with same | ⟨y, lost⟩
    · rw [same, others j other]
    · rw [lost]
      exact (putTrain_train? _ k j _).trans ((if_neg other).trans (others j other))
  · rw [trains, clp, testSpan_stands looked stands]
    exact ⟨looked, rfl⟩
  · rw [trains, clp, testSpan_lost looked free span clear]
    exact ⟨(putTrain_train? _ k k _).trans (if_pos rfl), rfl⟩

/-- R139: lock confirmed at the end of a move ends the request served. -/
theorem sensors_served (state : s.tc.state = .locking) (i h : Bool) {pre post : List TurnReq} {y : TurnReq}
    (queue : s.tc.queue = pre ++ y :: post) (served : s.tc.served = some (pre.length + 1)) :
    (s.sensors i h true false).tc = { s.tc with
        state := .locked, timer := none, phase := none, index := none, queue := pre ++ post, served := none,
        move := none, returnHeld := none, stopEnd := decide (s.mc.mode = .stop) } ∧
      (s.clp.notices.length ≤ 30 → noticed (s.sensors i h true false).clp.notices .turnDone y.road = true) ∧
      (s.sensors i h true false).due.turnEnds = s.due.turnEnds ++ [⟨y.station, y.train, y.road, true⟩] ∧
      (∀ k x held back, RegisterLaw s → s.train? k = some x → y.train = some x.number → s.tc.returnHeld = some held →
        back = (if held then .held else .active) →
        (∀ j, j ≠ k → (s.sensors i h true false).train? j = s.train? j) ∧
        ((∀ sec, x.span = [sec] → s.occupied sec = true) →
          (s.sensors i h true false).train? k = some { x with state := back } ∧
          (s.sensors i h true false).clp = s.clp.record .turnDone y.road 0) ∧
        (∀ sec, x.span = [sec] → s.occupied sec = false →
          (s.sensors i h true false).train? k = some { x with state := .lost } ∧
          (s.sensors i h true false).clp = (s.clp.record .trainLost x.number 0).record .turnDone y.road 0)) ∧
      (y.train = none ∨ s.tc.returnHeld = none → (s.sensors i h true false).tr = s.tr) := by
  rw [(sensors_locking state).2 i h pre y post queue served]
  have waiting : s.becomeLocked.tc.queue = pre ++ y :: post := queue
  refine ⟨?_, fun room => ?_, ?_, fun k x held back law train named returns is => ?_, fun none => ?_⟩
  · rw [State.wantArbitrate_tc, endRequest_tc waiting]
    rfl
  · rw [State.wantArbitrate_clp]
    exact endRequest_noticed (s := s.becomeLocked) room _ _
  · rw [State.wantArbitrate_due_turnEnds, endRequest_turnEnds]
    rfl
  · have law : RegisterLaw s.becomeLocked := ((becomeLocked_rail s).toWithin.register law).1
    simpa only [wantArbitrate_train?, State.wantArbitrate_clp, becomeLocked_train?, becomeLocked_occupied,
      becomeLocked_clp] using endRequest_train (s := s.becomeLocked) pre.length law train named returns is
  · rw [State.wantArbitrate_tr, endRequest_tr, handBack_none (s := s.becomeLocked) none]
    rfl

/-- R131, R137, R138: the outputs that the events of a move and of homing write. -/
theorem sensors_drive (wired : s.Wired) :
    (s.tc.state = .homing → s.tc.phase = some .release → ∀ i h,
      (s.sensors i h false true).Drives s.plan.turntable true false true) ∧
    (s.tc.state = .homing → s.tc.phase = some .seek → ∀ i,
      (s.sensors i true false false).Drives s.plan.turntable false false false) ∧
    (s.tc.state = .unlocking → s.mc.mode ≠ .stop → ∀ i h m, s.tc.move = some m →
      (s.sensors i h false true).Drives s.plan.turntable (decide (m.dir = .clockwise)) (decide (m.dir = .anticlockwise))
        true) ∧
    (s.tc.state = .moving → ∀ h m, s.tc.move = some m → m.steps = 1 →
      (s.sensors true h false false).Drives s.plan.turntable false false false) := by
  have drives (x : TC) (cw acw rel : Bool) :
      ((s.setTc x).driveTable cw acw rel).wantArbitrate.Drives s.plan.turntable cw acw rel := by
    have kept : (s.setTc x).Wired := ⟨wired.present, wired.image, wired.apart⟩
    obtain ⟨clockwise, anticlockwise, release⟩ := kept.driven cw acw rel
    exact ⟨clockwise, anticlockwise, release⟩
  refine ⟨fun state phase i h => ?_, fun state phase i => ?_, fun state mode i h m move => ?_, fun state h m move last => ?_⟩
  · rw [(sensors_homing_release state phase).2]
    exact drives _ _ _ _
  · rw [(sensors_homing_seek state phase).2.1]
    exact drives _ _ _ _
  · rw [(sensors_unlocking state).2.1 i h m mode move]
    exact drives _ _ _ _
  · rw [(sensors_moving state move).2.2 h false last]
    exact drives _ _ _ _

end

/-- Settles O52. -/
theorem turntableSensors : Obligations.TurntableSensors := by
  intro s
  refine ⟨?rests, ?release, ?seek, ?engage, ?unlocking, ?moving, ?halted, ?locking, ?locked, ?outputs⟩
  case rests =>
    intro state i h c d
    have untaken : ¬s.tc.awaitsArrival ∧ ¬s.tc.awaitsLock ∧ ¬s.tc.awaitsDrop := by
      rcases state with state | state <;> simp [TC.awaitsArrival, TC.awaitsLock, TC.awaitsDrop, state]
    obtain ⟨arrival, lock, drop⟩ := untaken
    exact tc_of_arbitrating (sensors_arrived (arrival_untaken arrival i h) (fun _ => lock) fun _ => drop)
  case release =>
    intro state phase
    obtain ⟨rests, drops⟩ := sensors_homing_release state phase
    refine ⟨fun i h c => tc_of_arbitrating (rests i h c), fun i h => ?_⟩
    simp [drops, State.seek]
  case seek =>
    intro state phase
    obtain ⟨rests, home, counts, full⟩ := sensors_homing_seek state phase
    refine ⟨fun c d => tc_of_arbitrating (rests c d), fun i d => ?_,
      fun n d index few => tc_of_arbitrating (counts n d index few), fun index served => ?_⟩
    · simp [home, State.engage]
    · rw [full index]
      exact faultTable_unserved served 4
  case engage =>
    intro state phase
    obtain ⟨rests, locks⟩ := sensors_homing_engage state phase
    refine ⟨fun i h d => tc_of_arbitrating (rests i h d), fun i h => ?_⟩
    rw [locks]
    exact ⟨rfl, rfl⟩
  case unlocking =>
    intro state
    obtain ⟨rests, moves, halts⟩ := sensors_unlocking state
    refine ⟨fun i h c => tc_of_arbitrating (rests i h c), fun i h m mode move => ?_,
      fun i h mode => tc_of_arbitrating (halts i h mode)⟩
    simp [moves i h m mode move]
  case moving =>
    intro state m p move pos
    obtain ⟨rests, steps, last⟩ := sensors_moving state move
    rw [TC.stepped_of_pos pos] at steps last
    refine ⟨fun h d => tc_of_arbitrating (rests h d), fun h d more => tc_of_arbitrating (steps h d more), fun h d one => ?_⟩
    simp [last h d one]
  case halted =>
    intro state m p move pos
    obtain ⟨rests, steps⟩ := sensors_halted state move
    rw [TC.stepped_of_pos pos] at steps
    exact ⟨fun h c d => tc_of_arbitrating (rests h c d), fun h c d => tc_of_arbitrating (steps h c d)⟩
  case locking =>
    intro state
    exact ⟨fun i h d => tc_of_arbitrating ((sensors_locking state).1 i h d), fun i h _ _ _ => sensors_served state i h⟩
  case locked =>
    intro state
    obtain ⟨rests, drops⟩ := sensors_locked state
    refine ⟨fun i h c => tc_of_arbitrating (rests i h c), fun i h served => ?_⟩
    rw [drops]
    exact faultTable_unserved served 5
  case outputs =>
    rintro present image _ _ _ rfl rfl rfl apart
    obtain ⟨release, seek, unlock, last⟩ := sensors_drive ⟨present, image, apart⟩
    refine ⟨fun state phase i h => ?_, fun state phase i => (seek state phase i).off,
      fun state mode i h m move => ?_, fun state h m move one => (last state h m move one).off⟩
    · obtain ⟨clockwise, anticlockwise, release⟩ := release state phase i h
      exact ⟨clockwise, anticlockwise, release⟩
    · obtain ⟨clockwise, anticlockwise, release⟩ := unlock state mode i h m move
      exact ⟨clockwise, anticlockwise, release⟩

end Sys2Proof.Machine
end

section
/-! PROOFS. What the operations of the Interlocking Unit write: marks and locks given up, a route that leaves the table, and a
section that is released (R99, R100). -/
namespace Sys2Proof.Machine

/-! ### Tables that rest at a value, written key by key -/

section
variable {α : Type} [DecidableEq α]

theorem getD_putD (d : α) {t : Tab α} (w : t.Wf) (k j : Nat) (x : α) :
    (Tab.putD d t k x).getD d j = if j = k then x else t.getD d j := by
  split
  next same => subst same; exact Tab.getD_putD_same d t j x w
  next other => exact Tab.getD_putD_ne d t x other

/-- The keys of a list, each written with a value of its own. -/
def Tab.putAll (d : α) (f : Nat → α) (t : Tab α) (l : List Nat) : Tab α := l.foldl (fun t k => Tab.putD d t k (f k)) t

theorem Tab.putAll_wf (d : α) (f : Nat → α) {t : Tab α} (w : t.Wf) (l : List Nat) : (t.putAll d f l).Wf := by
  induction l generalizing t with
  | nil => exact w
  | cons k l ih => exact ih (putD_wf d t k _ w)

theorem Tab.getD_putAll (d : α) (f : Nat → α) {t : Tab α} (w : t.Wf) (l : List Nat) (j : Nat) :
    (t.putAll d f l).getD d j = if j ∈ l then f j else t.getD d j := by
  induction l generalizing t with
  | nil => rfl
  | cons k l ih =>
    have step := ih (putD_wf d t k (f k) w)
    simp only [Tab.putAll, List.foldl_cons, List.mem_cons] at step ⊢
    rw [step, getD_putD d w]
    by_cases same : j = k
    · subst same; simp
    · simp [same]

end

/-! ### Marks -/

theorem mark_putMark {s : State} (w : s.iu.marks.Wf) (x y : Nat) (m : Mark) :
    (s.putMark x m).mark y = if y = x then m else s.mark y := getD_putD _ w x y m

theorem putMarks_eq (m : Mark) (l : List Nat) (s : State) : l.foldl (fun s x => s.putMark x m) s =
    { s with iu := { s.iu with marks := s.iu.marks.putAll .free (fun _ => m) l } } := by
  induction l generalizing s with
  | nil => rfl
  | cons x l ih => rw [List.foldl_cons, ih]; rfl

/-- R100 step 1: the reservation marks without those that name a slot. -/
def State.marksWithout (s : State) (k : Nat) : Tab Mark :=
  s.iu.marks.putAll .free (fun _ => .free) ((s.iu.marks.rows.filter (fun m => decide (m.2.slot = some k))).map Prod.fst)

theorem clearMarks_eq (s : State) (k : Nat) :
    s.clearMarks k = { s with iu := { s.iu with marks := s.marksWithout k } } := putMarks_eq _ _ s

theorem marksWithout_wf {s : State} (w : s.iu.marks.Wf) (k : Nat) : (s.marksWithout k).Wf := Tab.putAll_wf _ _ w _

theorem getD_marksWithout {s : State} (w : s.iu.marks.Wf) (k x : Nat) :
    Tab.getD .free (s.marksWithout k) x = if (s.mark x).slot = some k then .free else s.mark x := by
  rw [State.marksWithout, Tab.getD_putAll _ _ w]
  have named : x ∈ (s.iu.marks.rows.filter (fun m => decide (m.2.slot = some k))).map Prod.fst ↔
      (s.mark x).slot = some k := by
    simp only [List.mem_map, List.mem_filter, decide_eq_true_eq]
    constructor
    · rintro ⟨⟨y, m⟩, ⟨row, slot⟩, rfl⟩
      have here : s.iu.marks.get? y = some m := get?_of_mem _ _ _ row w
      unfold State.mark Tab.getD
      rw [show rowsGet s.iu.marks.rows y = some m from here]
      exact slot
    · intro slot
      unfold State.mark Tab.getD at slot
      cases e : rowsGet s.iu.marks.rows x with
      | none => simp [e, Mark.slot] at slot
      | some m => exact ⟨(x, m), ⟨rowsGet_mem _ _ _ e, by simpa [e] using slot⟩, rfl⟩
  by_cases h : (s.mark x).slot = some k
  · simp [named.2 h, h]
  · rw [if_neg fun mem => h (named.1 mem), if_neg h]
    rfl

/-! ### Points edited one by one -/

section
variable {β : Type} (key : β → Nat) (f : β → Point → Point)

/-- The points with an edit made for each item of a list, at its key. -/
def editAll (t : Tab Point) (l : List β) : Tab Point :=
  l.foldl (fun t x => Tab.putD {} t (key x) (f x (Tab.getD {} t (key x)))) t

theorem editAll_wf {t : Tab Point} (w : t.Wf) (l : List β) : (editAll key f t l).Wf := by
  induction l generalizing t with
  | nil => exact w
  | cons x l ih => exact ih (putD_wf _ _ _ _ w)

theorem editAll_absent {t : Tab Point} (w : t.Wf) {l : List β} {p : Nat} (h : p ∉ l.map key) :
    Tab.getD {} (editAll key f t l) p = Tab.getD {} t p := by
  induction l generalizing t with
  | nil => rfl
  | cons x l ih =>
    obtain ⟨other, away⟩ := List.ne_and_not_mem_of_not_mem_cons h
    exact (ih (putD_wf _ _ _ _ w) away).trans ((getD_putD _ w _ _ _).trans (if_neg other))

theorem editAll_once {t : Tab Point} (w : t.Wf) {l : List β} (once : (l.map key).Nodup) {x : β} (mem : x ∈ l) :
    Tab.getD {} (editAll key f t l) (key x) = f x (Tab.getD {} t (key x)) := by
  induction l generalizing t with
  | nil => contradiction
  | cons y l ih =>
    obtain ⟨away, once⟩ := List.nodup_cons.1 once
    have next := putD_wf ({} : Point) t (key y) (f y (Tab.getD {} t (key y))) w
    rcases List.mem_cons.1 mem with rfl | mem
    · exact (editAll_absent key f next away).trans ((getD_putD _ w _ _ _).trans (if_pos rfl))
    · have other : key x ≠ key y := fun e => away (e ▸ List.mem_map_of_mem mem)
      exact (ih next once mem).trans (congrArg (f x) ((getD_putD _ w _ _ _).trans (if_neg other)))

end

/-! ### Locks given up -/

/-- R100: a point with one lock less. -/
def Point.unlocked (x : Point) : Point := { x with locks := x.locks - 1, demand := if x.locks ≤ 1 then none else x.demand }

/-- R100: the points with one lock less for each that a list names. -/
def unlockAll : Tab Point → List Nat → Tab Point := editAll id fun _ => Point.unlocked

theorem getD_unlockAll {t : Tab Point} (w : t.Wf) {l : List Nat} (once : l.Nodup) (p : Nat) :
    Tab.getD {} (unlockAll t l) p = if p ∈ l then (Tab.getD {} t p).unlocked else Tab.getD {} t p := by
  split
  next mem => exact editAll_once id _ w (by simpa using once) mem
  next away => exact editAll_absent id _ w (by simpa using away)

/-- R99, R110: locks given up reach the points, and are handed on as releases. -/
theorem unlocks_eq (l : List Nat) (s : State) : ∃ due, l.foldl State.unlock s =
    { s with iu := { s.iu with points := unlockAll s.iu.points l }, due := due } ∧
      due.turnEnds = s.due.turnEnds ∧ (due.scan = true ∨ l = [] ∧ due = s.due) := by
  induction l generalizing s with
  | nil => exact ⟨s.due, rfl, rfl, .inr ⟨rfl, rfl⟩⟩
  | cons p l ih =>
    obtain ⟨due, h, ends, scan⟩ := ih (s.unlock p)
    refine ⟨due, by rw [List.foldl_cons, h]; rfl, ends.trans rfl, ?_⟩
    rcases scan with scan | ⟨-, rfl⟩
    · exact .inl scan
    · exact .inl rfl

/-! ### A route that leaves the table (R100) -/

/-- R100 step 2: the points whose locks a route gives up when it leaves the table. -/
def State.lockedBy (s : State) (r : ActiveRoute) : List Nat :=
  match s.routeRec r with
  | none => []
  | some d => stillLocked s.plan d r

/-- R100: what is left when the route in a slot has left the table. -/
theorem retireRoute_eq {s : State} {k : Nat} {r : ActiveRoute} (h : s.route? k = some r) (c : Cause) (n : Nat) :
    ∃ due, s.retireRoute k c n =
        { s.withoutRoute k (s.marksWithout k) (unlockAll s.iu.points (s.lockedBy r)) c r.route n with due := due } ∧
      due.scan = true ∧ due.turnEnds = s.due.turnEnds := by
  unfold State.retireRoute
  simp only [h, clearMarks_eq]
  cases rec : s.routeRec r with
  | none =>
    simp only [State.lockedBy, unlockAll, editAll, State.routeRec, State.plan] at rec ⊢
    rw [rec]
    exact ⟨_, rfl, rfl, rfl⟩
  | some d =>
    simp only [State.lockedBy, rec]
    simp only [State.routeRec, State.plan] at rec ⊢
    rw [rec]
    obtain ⟨due, e, ends, -⟩ := unlocks_eq (stillLocked s.pm.plan d r)
      { s with iu := { s.iu with marks := s.marksWithout k } }
    dsimp only
    rw [e]
    exact ⟨_, rfl, rfl, ends⟩

theorem retireRoute_absent {s : State} {k : Nat} (h : s.route? k = none) (c : Cause) (n : Nat) : s.retireRoute k c n = s := by
  unfold State.retireRoute
  rw [h]

end Sys2Proof.Machine
end

section
/-! PROOFS. The law of sections and the law of moving points, under what the Interlocking Unit writes (R76, R80). -/
namespace Sys2Proof.Machine

/-! ### Plans whose routes name nothing twice (R20 codes 14 and 16) -/

/-- R20 codes 14 and 16: no route of the plan names a section twice, or a point. -/
def Plan.Distinct (p : Plan) : Prop := ∀ n d, p.routes.get? n = some d →
  (d.sections ++ d.overlap).Nodup ∧ ((d.points ++ d.flanks).map Prod.fst).Nodup

theorem distinct_of_check {p : Plan} (h : p.check = none) : p.Distinct := fun _ _ rec =>
  ⟨(route_sound h rec).1, (routePoints_sound (route_items h rec).2.2.2.1).1⟩

/-- R157: a layout is worked on a plan whose routes name nothing twice. -/
def State.Sound (s : State) : Prop := s.mc.mode ≠ .setup → s.plan.Distinct

/-! ### The law of moving points while section reports wait (R80) -/

/-- R80: the law of moving points, but for points in the sections that `waits` holds of: those whose report the Interlocking
Unit has still to take. -/
structure MovingBut (waits : Nat → Prop) (s : State) : Prop where
  points : s.iu.points.Wf
  clear : ∀ p r, s.plan.points.get? p = some r → (s.point p).state.inFlight = true → s.occupied r.sect = true →
    waits r.sect
  demand : ∀ p q r, s.plan.points.get? p = some r → (s.point p).state = q.moving → 0 < (s.point p).locks →
    (s.point p).demand = some q

theorem movingLaw_iff (s : State) : MovingLaw s ↔ MovingBut (fun _ => False) s :=
  ⟨fun h => ⟨h.points, fun p r rec moves full => by simp [h.clear p r rec moves] at full, h.demand⟩,
    fun h => ⟨h.points, fun p r rec moves => Bool.eq_false_iff.2 (h.clear p r rec moves), h.demand⟩⟩

theorem inFlight_moving (q : Pos) : q.moving.inFlight = true := by cases q <;> rfl

theorem settled_not_inFlight (q : Pos) : q.settled.inFlight = false := by cases q <;> rfl

/-- A point that moves only if it did, and under no lock that it was without. -/
def Point.Eases (x y : Point) : Prop :=
  y.state.inFlight = true → y.state = x.state ∧ (0 < y.locks → 0 < x.locks ∧ y.demand = x.demand)

theorem Point.Eases.refl (x : Point) : x.Eases x := fun _ => ⟨rfl, fun h => ⟨h, rfl⟩⟩

theorem Point.Eases.trans {x y z : Point} (h : x.Eases y) (k : y.Eases z) : x.Eases z := fun moves => by
  obtain ⟨same, locks⟩ := k moves
  obtain ⟨same', locks'⟩ := h (same ▸ moves)
  refine ⟨same.trans same', fun held => ?_⟩
  obtain ⟨held, demand⟩ := locks held
  obtain ⟨held, demand'⟩ := locks' held
  exact ⟨held, demand.trans demand'⟩

theorem Point.Eases.of_still {x y : Point} (h : y.state.inFlight = false) : x.Eases y := fun moves => by
  rw [h] at moves; contradiction

theorem Point.eases_unlocked (x : Point) : x.Eases x.unlocked := fun _ => by
  refine ⟨rfl, fun held => ?_⟩
  have more : ¬x.locks ≤ 1 := by
    simp only [Point.unlocked] at held
    omega
  exact ⟨by omega, if_neg more⟩

/-- No point of a table moves that did not move in another, or under a lock that it was without there. -/
def EasesAll (t u : Tab Point) : Prop := t.Wf → u.Wf ∧ ∀ p, (Tab.getD {} t p).Eases (Tab.getD {} u p)

theorem EasesAll.refl (t : Tab Point) : EasesAll t t := fun w => ⟨w, fun _ => .refl _⟩

theorem EasesAll.trans {t u v : Tab Point} (h : EasesAll t u) (k : EasesAll u v) : EasesAll t v := fun w =>
  ⟨(k (h w).1).1, fun p => ((h w).2 p).trans ((k (h w).1).2 p)⟩

theorem EasesAll.put {t : Tab Point} {p : Nat} {x : Point} (h : (Tab.getD {} t p).Eases x) :
    EasesAll t (Tab.putD {} t p x) := fun w => by
  refine ⟨putD_wf _ _ _ _ w, fun j => ?_⟩
  rw [getD_putD _ w]
  split
  next same => subst same; exact h
  next => exact .refl _

theorem easesAll_unlockAll (l : List Nat) (t : Tab Point) : EasesAll t (unlockAll t l) := by
  induction l generalizing t with
  | nil => exact .refl t
  | cons p l ih => exact (EasesAll.put (Point.eases_unlocked _)).trans (ih _)

theorem MovingBut.eased {waits : Nat → Prop} {s t : State} (h : MovingBut waits s) (plan : t.plan = s.plan)
    (occupied : ∀ x, t.occupied x = true → s.occupied x = true) (points : EasesAll s.iu.points t.iu.points) :
    MovingBut waits t := by
  obtain ⟨wf, eases⟩ := points h.points
  refine ⟨wf, fun p r rec moves full => ?_, fun p q r rec moves held => ?_⟩
  · rw [plan] at rec
    have moved := (eases p moves).1 ▸ moves
    exact h.clear p r rec moved (occupied _ full)
  · rw [plan] at rec
    obtain ⟨same, locks⟩ := eases p (by
      rw [show (Tab.getD {} t.iu.points p).state = q.moving from moves]; exact inFlight_moving q)
    obtain ⟨was, demand⟩ := locks held
    exact demand.trans (h.demand p q r rec (same ▸ moves) was)

/-! ### The law of sections (R76) -/

/-- What the law of sections reads of an active route. -/
def ActiveRoute.hold (r : ActiveRoute) : Nat × List SectionMark := (r.route, r.marks)

theorem routeRec_of_hold {s t : State} (plan : t.plan = s.plan) {r q : ActiveRoute} (h : q.hold = r.hold) :
    t.routeRec q = s.routeRec r ∧ q.marks = r.marks := by
  obtain ⟨route, marks⟩ := Prod.mk.inj h
  exact ⟨by rw [State.routeRec, State.routeRec, plan, route], marks⟩

/-- R76: routes that keep their ids and their section marks, over reservation marks as they were. -/
theorem ReservationLaw.of_holds {s t : State} (h : ReservationLaw s) (plan : t.plan = s.plan) (wf : t.iu.routes.Wf)
    (marks : t.iu.marks = s.iu.marks)
    (holds : ∀ k, (t.route? k).map ActiveRoute.hold = (s.route? k).map ActiveRoute.hold) : ReservationLaw t := by
  have mark : ∀ x, t.mark x = s.mark x := fun x => by rw [State.mark, State.mark, marks]
  have back : ∀ k q, t.route? k = some q → ∃ r, s.route? k = some r ∧ t.routeRec q = s.routeRec r ∧ q.marks = r.marks := by
    intro k q hq
    have e := holds k
    rw [hq] at e
    obtain ⟨r, hr, same⟩ := Option.map_eq_some_iff.1 e.symm
    exact ⟨r, hr, routeRec_of_hold plan same.symm⟩
  have forth : ∀ k r, s.route? k = some r → ∃ q, t.route? k = some q ∧ t.routeRec q = s.routeRec r ∧ q.marks = r.marks := by
    intro k r hr
    have e := holds k
    rw [hr] at e
    obtain ⟨q, hq, same⟩ := Option.map_eq_some_iff.1 e
    exact ⟨q, hq, routeRec_of_hold plan same⟩
  refine ⟨wf, marks ▸ h.marks, ?_, ?_, ?_, ?_, ?_⟩
  · intro k q hq
    obtain ⟨r, hr, rec, same⟩ := back k q hq
    rw [rec, same]
    exact h.known k r hr
  · intro k q d i sec m hq hd hs hm free
    obtain ⟨r, hr, rec, same⟩ := back k q hq
    rw [mark]
    exact h.held k r d i sec m hr (rec ▸ hd) hs (same ▸ hm) free
  · intro k q d sec hq hd hs
    obtain ⟨r, hr, rec, -⟩ := back k q hq
    rw [mark]
    exact h.overlap k r d sec hr (rec ▸ hd) hs
  · intro sec k hm
    rw [mark] at hm
    obtain ⟨r, d, m, i, hr, hd, hs, hm, free⟩ := h.backed sec k hm
    obtain ⟨q, hq, rec, same⟩ := forth k r hr
    exact ⟨q, d, m, i, hq, rec ▸ hd, hs, same ▸ hm, free⟩
  · intro sec k hm
    rw [mark] at hm
    obtain ⟨r, d, hr, hd, hs⟩ := h.backedOverlap sec k hm
    obtain ⟨q, hq, rec, -⟩ := forth k r hr
    exact ⟨q, d, hq, rec ▸ hd, hs⟩

/-- R100: without a route, and without the marks that name its slot. -/
theorem ReservationLaw.without {s t : State} (h : ReservationLaw s) (plan : t.plan = s.plan) {k : Nat}
    (routes : t.iu.routes = s.iu.routes.erase k) (wf : t.iu.marks.Wf)
    (marks : ∀ x, t.mark x = if (s.mark x).slot = some k then .free else s.mark x) : ReservationLaw t := by
  have gone : t.route? k = none := by rw [State.route?, routes, Tab.get?_erase_same _ _ h.routes]
  have other : ∀ j, j ≠ k → t.route? j = s.route? j := fun j n => by rw [State.route?, routes, Tab.get?_erase_ne _ n]; rfl
  have recs : t.routeRec = s.routeRec := by funext r; rw [State.routeRec, State.routeRec, plan]
  have back : ∀ j r, t.route? j = some r → j ≠ k ∧ s.route? j = some r := by
    intro j r hr
    by_cases e : j = k
    · subst e; rw [gone] at hr; contradiction
    · exact ⟨e, (other j e).symm.trans hr⟩
  have stays : ∀ x m j, s.mark x = m → m.slot = some j → j ≠ k → t.mark x = m := by
    intro x m j hm slot n
    rw [marks, hm, slot, if_neg (by simpa using n)]
  have names : ∀ x m j, t.mark x = m → m.slot = some j → s.mark x = m ∧ j ≠ k := by
    intro x m j hm slot
    rw [marks] at hm
    split at hm
    next => subst hm; contradiction
    next n => subst hm; exact ⟨rfl, fun e => n (slot.trans (by rw [e]))⟩
  refine ⟨by rw [routes]; exact Tab.erase_wf _ _ h.routes, wf, ?_, ?_, ?_, ?_, ?_⟩
  · intro j r hr
    rw [recs]
    exact h.known j r (back j r hr).2
  · intro j r d i sec m hr hd hs hm free
    obtain ⟨n, hr⟩ := back j r hr
    exact stays sec _ j (h.held j r d i sec m hr (recs ▸ hd) hs hm free) rfl n
  · intro j r d sec hr hd hs
    obtain ⟨n, hr⟩ := back j r hr
    exact stays sec _ j (h.overlap j r d sec hr (recs ▸ hd) hs) rfl n
  · intro sec j hm
    obtain ⟨hm, n⟩ := names sec _ j hm rfl
    rw [recs]
    simp only [other j n]
    exact h.backed sec j hm
  · intro sec j hm
    obtain ⟨hm, n⟩ := names sec _ j hm rfl
    rw [recs]
    simp only [other j n]
    exact h.backedOverlap sec j hm

end Sys2Proof.Machine
end

section
/-! PROOFS. The law of sections when a section of a route is released or entered, and when a route is activated (R76, R85, R98,
R99). -/
namespace Sys2Proof.Machine

/-- What an active route holds once the mark of one of its sections is rewritten. -/
def HoldsRewritten (s t : State) (k : Nat) (r : ActiveRoute) (i : Nat) (m : SectionMark) : Prop :=
  ∀ j, (t.route? j).map ActiveRoute.hold =
    if j = k then some (r.route, r.marks.set i m) else (s.route? j).map ActiveRoute.hold

section
variable {s t : State} {k i sec : Nat} {r : ActiveRoute} {d : RouteRec} {m : SectionMark}

/-- A route of the rewritten table: the rewritten one, or another as it was. -/
theorem HoldsRewritten.back (h : HoldsRewritten s t k r i m) (plan : t.plan = s.plan) {j : Nat} {q : ActiveRoute}
    (hq : t.route? j = some q) : (j = k ∧ t.routeRec q = s.routeRec r ∧ q.marks = r.marks.set i m) ∨
      (j ≠ k ∧ ∃ o, s.route? j = some o ∧ t.routeRec q = s.routeRec o ∧ q.marks = o.marks) := by
  have e := h j
  rw [hq] at e
  split at e
  next same =>
    obtain ⟨recs, marks⟩ := routeRec_of_hold (r := { r with marks := r.marks.set i m }) plan (Option.some.inj e)
    exact .inl ⟨same, recs, marks⟩
  next other =>
    obtain ⟨o, ho, same⟩ := Option.map_eq_some_iff.1 e.symm
    exact .inr ⟨other, o, ho, routeRec_of_hold plan same.symm⟩

/-- A route as it was, in the rewritten table. -/
theorem HoldsRewritten.forth (h : HoldsRewritten s t k r i m) (plan : t.plan = s.plan) {j : Nat} {o : ActiveRoute}
    (ho : s.route? j = some o) : (j = k ∧ ∃ q, t.route? k = some q ∧ t.routeRec q = s.routeRec r ∧
        q.marks = r.marks.set i m) ∨
      (j ≠ k ∧ ∃ q, t.route? j = some q ∧ t.routeRec q = s.routeRec o ∧ q.marks = o.marks) := by
  have e := h j
  split at e
  next same =>
    obtain ⟨q, hq, eq⟩ := Option.map_eq_some_iff.1 e
    exact .inl ⟨same, q, same ▸ hq, routeRec_of_hold (r := { r with marks := r.marks.set i m }) plan eq⟩
  next other =>
    rw [ho] at e
    obtain ⟨q, hq, eq⟩ := Option.map_eq_some_iff.1 e
    exact .inr ⟨other, q, hq, routeRec_of_hold plan eq⟩

theorem HoldsRewritten.known (h : HoldsRewritten s t k r i m) (plan : t.plan = s.plan) (law : ReservationLaw s)
    (route : s.route? k = some r) (j : Nat) (q : ActiveRoute) (hq : t.route? j = some q) :
    ∃ d, t.routeRec q = some d ∧ q.marks.length = d.sections.length := by
  rcases h.back plan hq with ⟨-, recs, marks⟩ | ⟨-, o, ho, recs, marks⟩
  · rw [recs, marks, List.length_set]
    exact law.known k r route
  · rw [recs, marks]
    exact law.known j o ho

/-- R99: a section of a route is released, and its reservation mark cleared. -/
theorem ReservationLaw.released (h : ReservationLaw s) (plan : t.plan = s.plan) (routes : t.iu.routes.Wf)
    (wf : t.iu.marks.Wf) (route : s.route? k = some r) (rec : s.routeRec r = some d) (place : d.sections[i]? = some sec)
    (once : d.sections.Nodup) (mine : s.mark sec = .route k) (holds : HoldsRewritten s t k r i .released)
    (marks : ∀ x, t.mark x = if x = sec then .free else s.mark x) : ReservationLaw t := by
  have keeps : ∀ x y, s.mark x = y → y ≠ .free → x ≠ sec → t.mark x = y := fun x y hx _ n => by rw [marks, if_neg n, hx]
  have names : ∀ x y, t.mark x = y → y ≠ .free → x ≠ sec ∧ s.mark x = y := by
    intro x y hx full
    rw [marks] at hx
    split at hx
    next => exact absurd hx.symm full
    next n => exact ⟨n, hx⟩
  refine ⟨routes, wf, holds.known plan h route, ?_, ?_, ?_, ?_⟩
  · intro j q d' i' x m hq hd hs hm free
    rcases holds.back plan hq with ⟨rfl, recs, same⟩ | ⟨n, o, ho, recs, same⟩
    · obtain rfl : d = d' := by rw [recs, rec] at hd; exact Option.some.inj hd
      rw [same] at hm
      have away : i ≠ i' := by
        rintro rfl
        rw [List.getElem?_set_self' ] at hm
        obtain ⟨_, -, rfl⟩ := Option.map_eq_some_iff.1 hm
        exact free rfl
      rw [List.getElem?_set_ne away] at hm
      refine keeps x _ (h.held j r d i' x m route rec hs hm free) (by simp) ?_
      rintro rfl
      have lt : i < d.sections.length := (List.getElem?_eq_some_iff.1 place).1
      exact away ((List.getElem?_inj lt once).1 (place.trans hs.symm))
    · have was := h.held j o d' i' x m ho (recs ▸ hd) hs (same ▸ hm) free
      exact keeps x _ was (by simp) fun e => by
        rw [e, mine] at was
        exact n (Mark.route.inj was).symm
  · intro j q d' x hq hd hs
    have was : s.mark x = .overlap j := by
      rcases holds.back plan hq with ⟨rfl, recs, -⟩ | ⟨-, o, ho, recs, -⟩
      · exact h.overlap j r d' x route (recs ▸ hd) hs
      · exact h.overlap j o d' x ho (recs ▸ hd) hs
    exact keeps x _ was (by simp) fun e => by rw [e, mine] at was; contradiction
  · intro x j hm
    obtain ⟨n, hm⟩ := names x _ hm (by simp)
    obtain ⟨o, d', m, i', ho, hd, hs, hm, free⟩ := h.backed x j hm
    rcases holds.forth plan ho with ⟨rfl, q, hq, recs, same⟩ | ⟨-, q, hq, recs, same⟩
    · obtain rfl : r = o := Option.some.inj (route.symm.trans ho)
      obtain rfl : d = d' := Option.some.inj (rec.symm.trans hd)
      have away : i ≠ i' := by
        rintro rfl
        exact n (Option.some.inj (hs.symm.trans place))
      exact ⟨q, d, m, i', hq, recs.trans hd, hs, by rw [same, List.getElem?_set_ne away]; exact hm, free⟩
    · exact ⟨q, d', m, i', hq, recs.trans hd, hs, same ▸ hm, free⟩
  · intro x j hm
    obtain ⟨-, hm⟩ := names x _ hm (by simp)
    obtain ⟨o, d', ho, hd, hs⟩ := h.backedOverlap x j hm
    rcases holds.forth plan ho with ⟨rfl, q, hq, recs, -⟩ | ⟨-, q, hq, recs, -⟩
    · obtain rfl : r = o := Option.some.inj (route.symm.trans ho)
      exact ⟨q, d', hq, recs.trans hd, hs⟩
    · exact ⟨q, d', hq, recs.trans hd, hs⟩

/-- R98: a section that a route holds is marked ENTERED in it. -/
theorem ReservationLaw.entered (h : ReservationLaw s) (plan : t.plan = s.plan) (routes : t.iu.routes.Wf)
    (route : s.route? k = some r) (rec : s.routeRec r = some d) (place : d.sections[i]? = some sec)
    (mine : s.mark sec = .route k) (holds : HoldsRewritten s t k r i .entered) (marks : t.iu.marks = s.iu.marks) :
    ReservationLaw t := by
  have mark : ∀ x, t.mark x = s.mark x := fun x => by rw [State.mark, State.mark, marks]
  refine ⟨routes, marks ▸ h.marks, holds.known plan h route, ?_, ?_, ?_, ?_⟩
  · intro j q d' i' x m hq hd hs hm free
    rw [mark]
    rcases holds.back plan hq with ⟨rfl, recs, same⟩ | ⟨-, o, ho, recs, same⟩
    · obtain rfl : d = d' := by rw [recs, rec] at hd; exact Option.some.inj hd
      by_cases away : i = i'
      · subst away
        rw [← Option.some.inj (place.symm.trans hs)]
        exact mine
      · rw [same, List.getElem?_set_ne away] at hm
        exact h.held j r d i' x m route rec hs hm free
    · exact h.held j o d' i' x m ho (recs ▸ hd) hs (same ▸ hm) free
  · intro j q d' x hq hd hs
    rw [mark]
    rcases holds.back plan hq with ⟨rfl, recs, -⟩ | ⟨-, o, ho, recs, -⟩
    · exact h.overlap j r d' x route (recs ▸ hd) hs
    · exact h.overlap j o d' x ho (recs ▸ hd) hs
  · intro x j hm
    rw [mark] at hm
    obtain ⟨o, d', m, i', ho, hd, hs, hm, free⟩ := h.backed x j hm
    rcases holds.forth plan ho with ⟨rfl, q, hq, recs, same⟩ | ⟨-, q, hq, recs, same⟩
    · obtain rfl : r = o := Option.some.inj (route.symm.trans ho)
      by_cases away : i = i'
      · subst away
        refine ⟨q, d', .entered, i, hq, recs.trans hd, hs, ?_, by simp⟩
        rw [same, List.getElem?_set_self', hm]
        rfl
      · exact ⟨q, d', m, i', hq, recs.trans hd, hs, by rw [same, List.getElem?_set_ne away]; exact hm, free⟩
    · exact ⟨q, d', m, i', hq, recs.trans hd, hs, same ▸ hm, free⟩
  · intro x j hm
    rw [mark] at hm
    obtain ⟨o, d', ho, hd, hs⟩ := h.backedOverlap x j hm
    rcases holds.forth plan ho with ⟨rfl, q, hq, recs, -⟩ | ⟨-, q, hq, recs, -⟩
    · obtain rfl : r = o := Option.some.inj (route.symm.trans ho)
      exact ⟨q, d', hq, recs.trans hd, hs⟩
    · exact ⟨q, d', hq, recs.trans hd, hs⟩

/-- R85: a route activated in an empty slot, over sections that were free. -/
theorem ReservationLaw.activated (h : ReservationLaw s) (plan : t.plan = s.plan) (routes : t.iu.routes.Wf)
    (wf : t.iu.marks.Wf) (empty : s.route? k = none) (rec : s.routeRec r = some d)
    (fresh : r.marks = d.sections.map fun _ => .reserved) (once : (d.sections ++ d.overlap).Nodup)
    (free : ∀ x ∈ d.sections ++ d.overlap, s.mark x = .free)
    (holds : ∀ j, (t.route? j).map ActiveRoute.hold = if j = k then some r.hold else (s.route? j).map ActiveRoute.hold)
    (marks : ∀ x, t.mark x = if x ∈ d.sections then .route k else if x ∈ d.overlap then .overlap k else s.mark x) :
    ReservationLaw t := by
  obtain ⟨-, -, apart⟩ := List.nodup_append.1 once
  have back : ∀ j q, t.route? j = some q → (j = k ∧ t.routeRec q = some d ∧ q.marks = d.sections.map fun _ => .reserved) ∨
      (j ≠ k ∧ ∃ o, s.route? j = some o ∧ t.routeRec q = s.routeRec o ∧ q.marks = o.marks) := by
    intro j q hq
    have e := holds j
    rw [hq] at e
    split at e
    next same =>
      obtain ⟨recs, marks⟩ := routeRec_of_hold plan (Option.some.inj e)
      exact .inl ⟨same, recs.trans rec, marks.trans fresh⟩
    next other =>
      obtain ⟨o, ho, same⟩ := Option.map_eq_some_iff.1 e.symm
      exact .inr ⟨other, o, ho, routeRec_of_hold plan same.symm⟩
  have forth : ∀ j o, s.route? j = some o → ∃ q, t.route? j = some q ∧ t.routeRec q = s.routeRec o ∧ q.marks = o.marks := by
    intro j o ho
    have e := holds j
    rw [if_neg (by rintro rfl; rw [empty] at ho; contradiction), ho] at e
    obtain ⟨q, hq, same⟩ := Option.map_eq_some_iff.1 e
    exact ⟨q, hq, routeRec_of_hold plan same⟩
  have keeps : ∀ x y, s.mark x = y → y ≠ .free → t.mark x = y := by
    intro x y hx full
    rw [marks, if_neg, if_neg, hx]
    · exact fun mem => full (hx ▸ free x (List.mem_append_right _ mem))
    · exact fun mem => full (hx ▸ free x (List.mem_append_left _ mem))
  obtain ⟨q₀, hq₀⟩ : ∃ q, t.route? k = some q := by
    have e := holds k
    rw [if_pos rfl] at e
    obtain ⟨q, hq, -⟩ := Option.map_eq_some_iff.1 e
    exact ⟨q, hq⟩
  obtain ⟨recs₀, marks₀⟩ : t.routeRec q₀ = some d ∧ q₀.marks = d.sections.map fun _ => .reserved := by
    rcases back k q₀ hq₀ with ⟨-, recs, same⟩ | ⟨n, -⟩
    · exact ⟨recs, same⟩
    · exact absurd rfl n
  refine ⟨routes, wf, ?_, ?_, ?_, ?_, ?_⟩
  · intro j q hq
    rcases back j q hq with ⟨-, recs, same⟩ | ⟨-, o, ho, recs, same⟩
    · exact ⟨d, recs, by rw [same, List.length_map]⟩
    · rw [recs, same]
      exact h.known j o ho
  · intro j q d' i x m hq hd hs hm held
    rcases back j q hq with ⟨rfl, recs, -⟩ | ⟨-, o, ho, recs, same⟩
    · obtain rfl : d = d' := Option.some.inj (recs.symm.trans hd)
      rw [marks, if_pos (List.mem_of_getElem? hs)]
    · exact keeps x _ (h.held j o d' i x m ho (recs ▸ hd) hs (same ▸ hm) held) (by simp)
  · intro j q d' x hq hd hs
    rcases back j q hq with ⟨rfl, recs, -⟩ | ⟨-, o, ho, recs, -⟩
    · obtain rfl : d = d' := Option.some.inj (recs.symm.trans hd)
      rw [marks, if_neg fun mem => apart x mem x hs rfl, if_pos hs]
    · exact keeps x _ (h.overlap j o d' x ho (recs ▸ hd) hs) (by simp)
  · intro x j hm
    rw [marks] at hm
    split at hm
    next mem =>
      cases hm
      obtain ⟨i, hi⟩ := List.getElem?_of_mem mem
      exact ⟨q₀, d, .reserved, i, hq₀, recs₀, hi, by rw [marks₀, List.getElem?_map, hi]; rfl, by simp⟩
    next =>
      split at hm
      next => contradiction
      next =>
        obtain ⟨o, d', m, i, ho, hd, hs, hm, held⟩ := h.backed x j hm
        obtain ⟨q, hq, recs, same⟩ := forth j o ho
        exact ⟨q, d', m, i, hq, recs.trans hd, hs, same ▸ hm, held⟩
  · intro x j hm
    rw [marks] at hm
    split at hm
    next => contradiction
    next =>
      split at hm
      next mem =>
        cases hm
        exact ⟨q₀, d, hq₀, recs₀, mem⟩
      next =>
        obtain ⟨o, d', ho, hd, hs⟩ := h.backedOverlap x j hm
        obtain ⟨q, hq, recs, -⟩ := forth j o ho
        exact ⟨q, d', hq, recs.trans hd, hs⟩

end

end Sys2Proof.Machine
end

section
/-! PROOFS. What an activation writes: the reservations, the locks and the commands (R78, R85). -/
namespace Sys2Proof.Machine

/-! ### Commands (R78) -/

/-- R78: a point commanded to a position. -/
def Plan.commanded (pl : Plan) (p : Nat) (q : Pos) (x : Point) : Point :=
  match pl.points.get? p with
  | none => x
  | some r => if x.state = q.moving then x else { x with state := q.moving, pulse := some (q, r.pulse), throw := some r.throw }

/-- R78: a command reaches the point and the output image. -/
theorem command_frame (s : State) (p : Nat) (q : Pos) : ∃ image, s.command p q =
    { s with iu := { s.iu with points := (s.command p q).iu.points }, fs := { s.fs with image := image } } := by
  unfold State.command
  split
  · exact ⟨s.fs.image, rfl⟩
  · dsimp only
    split
    · exact ⟨s.fs.image, rfl⟩
    · split
      · split <;> exact ⟨_, rfl⟩
      · exact ⟨_, rfl⟩

theorem command_points {s : State} (w : s.iu.points.Wf) (p : Nat) (q : Pos) :
    (s.command p q).iu.points.Wf ∧
      ∀ j, (s.command p q).point j = if j = p then s.plan.commanded p q (s.point p) else s.point j := by
  have untouched : ∀ x, s.point p = x → s.iu.points.Wf ∧ ∀ j, s.point j = if j = p then x else s.point j := by
    rintro _ rfl
    refine ⟨w, fun j => ?_⟩
    split
    next e => rw [e]
    next => rfl
  have written : ∀ (u : State) (x : Point), u.iu = s.iu →
      (u.putPoint p x).iu.points.Wf ∧ ∀ j, (u.putPoint p x).point j = if j = p then x else s.point j := by
    intro u x e
    have wu : u.iu.points.Wf := e ▸ w
    refine ⟨putD_wf _ _ _ _ wu, fun j => ?_⟩
    rw [putPoint_point wu, State.point, e, State.point]
  unfold State.command Plan.commanded
  cases rec : s.plan.points.get? p with
  | none => exact untouched _ rfl
  | some r =>
    dsimp only
    split
    next => exact untouched _ rfl
    next =>
      split
      · exact written _ _ (by split <;> rfl)
      · exact written _ _ rfl

/-- R78: commands to points of which none is named twice. -/
theorem commands_spec {l : List (Nat × Pos)} {s : State} (w : s.iu.points.Wf) (once : (l.map Prod.fst).Nodup) :
    (∃ points image, l.foldl (fun s x => s.command x.1 x.2) s =
        { s with iu := { s.iu with points := points }, fs := { s.fs with image := image } }) ∧
      (l.foldl (fun s x => s.command x.1 x.2) s).iu.points.Wf ∧
      (∀ p, p ∉ l.map Prod.fst → (l.foldl (fun s x => s.command x.1 x.2) s).point p = s.point p) ∧
      ∀ x ∈ l, (l.foldl (fun s x => s.command x.1 x.2) s).point x.1 = s.plan.commanded x.1 x.2 (s.point x.1) := by
  induction l generalizing s with
  | nil => exact ⟨⟨s.iu.points, s.fs.image, rfl⟩, w, fun _ _ => rfl, fun _ h => absurd h List.not_mem_nil⟩
  | cons y l ih =>
    obtain ⟨away, once⟩ := List.nodup_cons.1 once
    obtain ⟨image, frame⟩ := command_frame s y.1 y.2
    obtain ⟨wf, points⟩ := command_points w y.1 y.2
    have plan : (s.command y.1 y.2).plan = s.plan := by rw [frame]; rfl
    obtain ⟨⟨points', image', frame'⟩, wf', others, commanded⟩ := ih wf once
    rw [List.foldl_cons]
    refine ⟨⟨points', image', ?_⟩, wf', fun p absent => ?_, fun x mem => ?_⟩
    · rw [frame', frame]
    · obtain ⟨other, absent⟩ := List.ne_and_not_mem_of_not_mem_cons absent
      rw [others p absent, points, if_neg other]
    · rcases List.mem_cons.1 mem with rfl | mem
      · rw [others _ away, points, if_pos rfl]
      · have other : x.1 ≠ y.1 := fun e => away (e ▸ List.mem_map_of_mem mem)
        rw [commanded x mem, plan, points, if_neg other]

/-! ### The whole activation (R85) -/

/-- R85 step 3: a point locked to a position. -/
def Point.locked (x : Point) (q : Pos) : Point := { x with locks := x.locks + 1, demand := some q }

/-- R85: a point that a route takes: locked, and commanded where it does not stand. -/
def Plan.taken (pl : Plan) (p : Nat) (q : Pos) (x : Point) : Point :=
  if x.state = q.settled ∨ x.state = q.moving then x.locked q else pl.commanded p q (x.locked q)

/-- R85: the settings of a route whose points do not stand where it wants them. -/
def State.toMove (s : State) (d : RouteRec) : List (Nat × Pos) :=
  (d.points ++ d.flanks).filter (fun x => decide ((s.point x.1).state ≠ x.2.settled))

/-- R85 step 1: the record of a route that is activated. -/
def State.newRoute (s : State) (d : RouteRec) (a : RouteAsk) : ActiveRoute :=
  { route := a.route, train := a.train.bind s.slotOf, station := a.station, state := .setting,
    marks := d.sections.map (fun _ => .reserved), moving := (s.toMove d).length, approach := none }

/-- R85 step 2: the marks with those of a route that is activated in a slot. -/
def State.marksWith (s : State) (d : RouteRec) (k : Nat) : Tab Mark :=
  (s.iu.marks.putAll .free (fun _ => .route k) d.sections).putAll .free (fun _ => .overlap k) d.overlap

theorem marksWith_wf {s : State} (w : s.iu.marks.Wf) (d : RouteRec) (k : Nat) : (s.marksWith d k).Wf :=
  Tab.putAll_wf _ _ (Tab.putAll_wf _ _ w _) _

theorem getD_marksWith {s : State} (w : s.iu.marks.Wf) {d : RouteRec} (once : (d.sections ++ d.overlap).Nodup) (k x : Nat) :
    Tab.getD .free (s.marksWith d k) x =
      if x ∈ d.sections then .route k else if x ∈ d.overlap then .overlap k else s.mark x := by
  obtain ⟨-, -, apart⟩ := List.nodup_append.1 once
  rw [State.marksWith, Tab.getD_putAll _ _ (Tab.putAll_wf _ _ w _), Tab.getD_putAll _ _ w]
  by_cases inside : x ∈ d.sections
  · simp [inside, show x ∉ d.overlap from fun outside => apart x inside x outside rfl]
  · simp [inside, State.mark]

theorem locks_eq (l : List (Nat × Pos)) (s : State) : l.foldl State.lock s =
    { s with iu := { s.iu with points := editAll Prod.fst (fun x y => y.locked x.2) s.iu.points l } } := by
  induction l generalizing s with
  | nil => rfl
  | cons x l ih => rw [List.foldl_cons, ih]; rfl

theorem toMove_length (s : State) (d : RouteRec) :
    (d.settings.filter (fun x => !decide ((s.point x.1).state = x.2.settled))) = s.toMove d := by
  simp only [State.toMove, RouteRec.settings, ← decide_not]

/-- R85: the state in which a route has taken its sections and its points. -/
structure Activated (s : State) (d : RouteRec) (k : Nat) (a : RouteAsk) (points : Tab Point) (t : State) : Prop where
  frame : ∃ image, t = { s with
    iu := { s.iu with routes := s.iu.routes.put k (s.newRoute d a), marks := s.marksWith d k, points := points },
    fs := { s.fs with image := image }, due := { s.due with arbitrate := true } }
  wf : points.Wf
  others : ∀ p, (∀ q, (p, q) ∉ d.points ++ d.flanks) → Tab.getD {} points p = s.point p
  taken : ∀ p q, (p, q) ∈ d.points ++ d.flanks → Tab.getD {} points p = s.plan.taken p q (s.point p)

/-- R85: the state in which a route has its record, its sections and its locks, and nothing is commanded yet. -/
def State.lockedFor (s : State) (d : RouteRec) (k : Nat) (a : RouteAsk) : State :=
  { s with iu := { s.iu with
    routes := s.iu.routes.put k (s.newRoute d a), marks := s.marksWith d k,
    points := editAll Prod.fst (fun x y => y.locked x.2) s.iu.points (d.points ++ d.flanks) } }

theorem activate_eq (s : State) (d : RouteRec) (k : Nat) (a : RouteAsk) {t : State}
    (h : t = ((s.toMove d).foldl (fun s x => s.command x.1 x.2) (s.lockedFor d k a)).wantArbitrate) :
    s.activate d k a = if s.toMove d = [] then t.clearRoute k else t := by
  subst h
  unfold State.activate
  dsimp only
  rw [toMove_length, putMarks_eq, putMarks_eq, locks_eq]
  simp only [List.length_eq_zero_iff]
  rfl

/-- R85: an activation takes its sections and points; where nothing has to move the route is CLEARED at once. -/
theorem activate_activated {s : State} (w : s.iu.points.Wf) {d : RouteRec}
    (once : ((d.points ++ d.flanks).map Prod.fst).Nodup) (k : Nat) (a : RouteAsk) :
    ∃ points t, Activated s d k a points t ∧ s.activate d k a = if s.toMove d = [] then t.clearRoute k else t := by
  have fewer : ((s.toMove d).map Prod.fst).Nodup := once.sublist (List.filter_sublist.map _)
  have wl : (s.lockedFor d k a).iu.points.Wf := editAll_wf Prod.fst (fun (x : Nat × Pos) y => y.locked x.2) w _
  obtain ⟨⟨points, image, frame⟩, wf, others, commanded⟩ := commands_spec wl fewer
  rw [frame] at wf others commanded
  refine ⟨points, _, ⟨⟨image, congrArg State.wantArbitrate frame⟩, wf, fun p absent => ?_, fun p q mem => ?_⟩,
    activate_eq s d k a rfl⟩
  · have absent : p ∉ (d.points ++ d.flanks).map Prod.fst := fun mem => by
      obtain ⟨⟨p', q⟩, listed, rfl⟩ := List.mem_map.1 mem
      exact absent q listed
    exact (others p fun mem => absent ((List.filter_sublist.map _).subset mem)).trans (editAll_absent _ _ w absent)
  · have locked : (s.lockedFor d k a).point p = (s.point p).locked q :=
      editAll_once Prod.fst (fun (x : Nat × Pos) y => y.locked x.2) w once mem
    unfold Plan.taken
    by_cases stands : (s.point p).state = q.settled
    · have absent : p ∉ (s.toMove d).map Prod.fst := fun there => by
        obtain ⟨⟨p', q'⟩, listed, rfl⟩ := List.mem_map.1 there
        obtain ⟨mem', moves⟩ := List.mem_filter.1 listed
        obtain rfl : q = q' := congrArg Prod.snd (List.inj_on_of_nodup_map once mem mem' rfl)
        exact of_decide_eq_true moves stands
      rw [if_pos (.inl stands)]
      exact (others p absent).trans locked
    · have there : (p, q) ∈ s.toMove d := List.mem_filter.2 ⟨mem, decide_eq_true stands⟩
      refine (commanded (p, q) there).trans (Eq.trans (congrArg (s.plan.commanded p q) locked) ?_)
      split
      next settled =>
        have moves := settled.resolve_left stands
        unfold Plan.commanded
        split
        · rfl
        · exact if_pos moves
      next => rfl

end Sys2Proof.Machine
end

section
/-! PROOFS. An output bit that names no lamp, at the end of an event that hands nothing on; and POINT TEST (R27, R78, R90). -/
namespace Sys2Proof.Machine

/-! ### An output bit that names no lamp (R27, R92, R149) -/

section
variable {s : State} {bit : Nat}

theorem setOut_out_same (s : State) (b : Nat) : (s.setOut b true).out b = true := by
  simp [State.out, State.setOut, Tab.putD, Tab.getD, Tab.put, rowsGet_put_same]

theorem setOut_out_ne (s : State) {c b : Nat} (v : Bool) (h : b ≠ c) : (s.setOut c v).out b = s.out b :=
  Tab.getD_putD_ne _ _ _ h

theorem setOut?_out_ne (s : State) {c : Option Nat} {b : Nat} (v : Bool) (h : b ∉ c.toList) :
    (s.setOut? c v).out b = s.out b := by
  cases c with
  | none => rfl
  | some c => exact setOut_out_ne s v fun e => h (by simp [e])

theorem showAspect_out (s : State) (k : Nat) {g : SignalRec} (a : Aspect) (other : bit ∉ g.lampBits) :
    (s.showAspect k g a).out bit = s.out bit := by
  simp only [SignalRec.lampBits, List.mem_cons, List.flatMap_cons, List.flatMap_nil, List.mem_append, List.append_nil,
    not_or] at other
  obtain ⟨stop, caution, second, clear, subsidiary⟩ := other
  rw [showAspect_eq, State.lightLamps, setOut?_out_ne _ _ subsidiary, setOut?_out_ne _ _ clear, setOut?_out_ne _ _ second,
    setOut?_out_ne _ _ caution, setOut_out_ne _ _ stop, putSignal_out]

theorem refreshAspects_out (other : ∀ g ∈ s.plan.signals.rows, bit ∉ g.2.lampBits) :
    s.refreshAspects.out bit = s.out bit :=
  List.foldlRecOn (motive := fun u : State => u.out bit = s.out bit) _ _ rfl fun u hu g hg => by
    dsimp only
    split
    · exact hu
    · exact (showAspect_out u g.1 _ (other g hg)).trans hu

theorem refreshLamps_out (other : ∀ b ∈ s.plan.buttons.rows, b.2.lamp ≠ bit) : s.refreshLamps.out bit = s.out bit :=
  List.foldlRecOn (motive := fun u : State => u.out bit = s.out bit) _ _ rfl fun u hu b hb => by
    dsimp only
    split
    · exact hu
    · exact (setOut_out_ne _ _ (other b hb).symm).trans hu

theorem settleSpeeds_image (n : Nat) (h : s.Settled) : (settleSpeeds n s).fs.image = s.fs.image := by
  induction n generalizing s with
  | zero => rfl
  | succ n ih =>
    obtain ⟨d, handed⟩ := h.settle_due Config.handoffBound
    have once : s.handOn.recomputeAll.fs.image = s.fs.image := by
      have same := foldl_keeps State.display recompute_display s.handOn.tr.trains.keys s.handOn
      exact (congrArg (fun v => v.2.1) same).trans (congrArg (fun u : State => u.fs.image) handed)
    unfold settleSpeeds
    dsimp only
    split
    · exact once
    · exact (ih (State.Settled.recomputeAll _ (h.settle _ _).2)).trans once

/-- R95, R149: the end of an event that hands nothing on leaves a bit that names no lamp of the plan. -/
theorem finish_out (h : s.Settled) (before : List Nat)
    (signals : ∀ g ∈ s.plan.signals.rows, bit ∉ g.2.lampBits) (buttons : ∀ b ∈ s.plan.buttons.rows, b.2.lamp ≠ bit) :
    (s.finish before).out bit = s.out bit := by
  have plan : (settleSpeeds Config.handoffBound s).plan = s.plan := congrArg PM.plan (settleSpeeds_inner _ s).pm
  have plan' : (settleSpeeds Config.handoffBound s).refreshAspects.plan = s.plan :=
    (congrArg PM.plan (refreshAspects_followUp _).pm).trans plan
  have port : (s.finish before).out bit = (settleSpeeds Config.handoffBound s).refreshAspects.refreshLamps.out bit :=
    congrArg (fun fs : FS => Tab.getD false fs.image bit) (kickPort_fs _)
  rw [port, refreshLamps_out (plan'.symm ▸ buttons), refreshAspects_out (plan.symm ▸ signals)]
  exact congrArg (fun t => Tab.getD false t bit) (settleSpeeds_image _ h)

end

/-- In SETUP and STOP whatever an event hands on finds nothing to do. -/
theorem settled_of_rest {s : State} (h : s.working = false) (k : s.due.turnEnds = []) : s.Settled :=
  ⟨by simp [k], fun x => absurd k x, fun _ => .inl h, fun _ => .inl (fun e => by simp [State.working, e] at h),
    .inl (.inl (by simp [State.free, h]))⟩

/-! ### POINT TEST (R78, R90) -/

/-- R163: a request that its owner has accepted is closed and answered. -/
theorem takeRequest_accepts {α : Type} {s w : State} {code st : Nat} {f : Frame} {ps : List Byte} {p : Parse α}
    {owner : State → Nat → α → State × Answer} (h : Carries f code st ps) (k : s.listening) {a : α} {b : List Byte}
    (d : decodeAll p ps = some a) (o : owner (s.openFrame f) st a = (w, .accepted b)) :
    s.takeRequest code f p owner = (w.finish s.ss.urgent).answeredWith f code (.accepted b) := by
  unfold State.takeRequest
  rw [takeFrame_answered s code st f ps p owner _ h k a d, o]
  exact answered_accepted code st _ f w b h.sender

theorem decode_pointTest (p q : Byte) : decodeAll parsePointTest [p, q] = some (p.toNat, q.toNat) := rfl

theorem inFlight_iff (x : PointState) : x.inFlight = true ↔ x = .movingN ∨ x = .movingR := by
  cases x <;> simp [PointState.inFlight]

theorem named_positions {q : Byte} (h : q.toNat ≤ 1) :
    named positions q.toNat = some (if q = 0#8 then .normal else .reverse) := by
  have cases : q = 0#8 ∨ q = 1#8 := by bv_omega
  rcases cases with rfl | rfl <;> rfl

theorem named_positions_none {n : Nat} (h : 1 < n) : named positions n = none := by
  unfold named positions
  simpa using h

/-- R78: the command of a point that does not move yet, and the drive output it sets. -/
theorem command_of_still {s : State} {p : Nat} {r : PointRec} (rec : s.plan.points.get? p = some r)
    (still : (s.point p).state.inFlight = false) (q : Pos) :
    (s.command p q).iu.points = Tab.putD {} s.iu.points p { s.point p with
      state := q.moving, pulse := some (q, r.pulse), throw := some r.throw } ∧ (s.command p q).out (r.drive q) = true := by
  have moves : (s.point p).state ≠ q.moving := fun e => by
    rw [e, inFlight_moving] at still
    contradiction
  unfold State.command
  rw [rec]
  dsimp only
  rw [if_neg moves]
  refine ⟨?_, setOut_out_same _ _⟩
  split
  · split <;> rfl
  · rfl

/-- R90: POINT TEST in SETUP, of a point that the plan has. -/
theorem ownPointTest_of_known {s : State} {p : Nat} {q : Byte} {r : PointRec} (mode : s.mc.mode = .setup) (low : 1 ≤ p)
    (high : p ≤ 120) (small : q.toNat ≤ 1) (rec : s.plan.points.get? p = some r) (aim : Pos)
    (toward : aim = if q = 0#8 then .normal else .reverse) : ownPointTest s 0 (p, q.toNat) =
      if (s.point p).fault then (s, .refused .faultPresent [])
      else if (s.point p).state.inFlight then (s, .refused .busy [])
      else if s.occupied r.sect then (s, .refused .conflict [])
      else if (s.point p).state = aim.settled then (s, .done [])
      else (s.command p aim, .accepted []) := by
  simp [ownPointTest, mode, low, high, named_positions small, rec, toward]

/-- Settles O43: the owner's tests in order; in SETUP the end of the event adds nothing to the command. -/
theorem pointTest : Obligations.PointTest := by
  intro f st s p q k h
  have refuses : ∀ r, ownPointTest (s.openFrame f) st (p.toNat, q.toNat) = (s.openFrame f, .refused r []) →
      exec (.pointTest f) s = .next (s.replied f 0x42 (.refused r [])) := fun r o =>
    congrArg Host.Outcome.next (takeRequest_refuses h k (decode_pointTest p q) o)
  have plan : (s.openFrame f).plan = s.plan := rfl
  refine ⟨fun cab => refuses _ ?_, fun sup mode => refuses _ ?_, fun sup mode => ?_⟩
  · simp [ownPointTest, cab]
  · simp [ownPointTest, sup, mode]
  subst sup
  refine ⟨fun out => refuses _ ?_, fun low high small => ⟨fun none => refuses _ ?_, fun r x aim rec here toward => ?_⟩⟩
  · by_cases within : 1 ≤ p.toNat ∧ p.toNat ≤ 120
    · simp [ownPointTest, mode, within, named_positions_none (show 1 < q.toNat by omega)]
    · simp [ownPointTest, mode, within]
  · simp [ownPointTest, mode, low, high, named_positions small, plan, none]
  subst here
  have own := ownPointTest_of_known (s := s.openFrame f) mode low high small rec aim toward
  refine ⟨fun fault => refuses _ (own.trans (if_pos fault)), fun sound moves => refuses _ ?_,
    fun sound notN notR => ?_⟩
  all_goals
    have sound' : ¬((s.openFrame f).point p.toNat).fault = true := Bool.eq_false_iff.1 sound
    rw [if_neg sound'] at own
  · exact own.trans (if_pos ((inFlight_iff _).2 moves))
  have still : ¬(s.point p.toNat).state.inFlight = true := fun e => ((inFlight_iff _).1 e).elim notN notR
  rw [if_neg (show ¬((s.openFrame f).point p.toNat).state.inFlight = true from still)] at own
  refine ⟨fun full => refuses _ (own.trans (if_pos full)), fun clear ends => ?_⟩
  rw [if_neg (show ¬(s.openFrame f).occupied r.sect = true from Bool.eq_false_iff.1 clear)] at own
  have rests : (s.openFrame f).working = false := show s.working = false by simp [State.working, mode]
  refine ⟨fun there => ⟨_, congrArg Host.Outcome.next
    (takeRequest_done h k (decode_pointTest p q) (own.trans (if_pos there))), finish_followUp_idle _ rests ends _⟩,
    fun away wf => ?_⟩
  have executed := takeRequest_accepts h k (decode_pointTest p q) (own.trans (if_neg away))
  obtain ⟨points, lit⟩ := command_of_still (s := s.openFrame f) rec (Bool.eq_false_iff.2 still) aim
  obtain ⟨image, frame⟩ := command_frame (s.openFrame f) p.toNat aim
  rw [points] at frame
  have settled : ((s.openFrame f).command p.toNat aim).Settled := by
    rw [frame]
    exact settled_of_rest rests ends
  refine ⟨_, _, congrArg Host.Outcome.next executed, fun j => getD_putD _ wf .., ?_, fun signals buttons => ?_⟩
  · refine FollowUp.trans ?_ (settled.finish _)
    rw [frame]
    apply FollowUp.of_fields <;> rfl
  · have same : ((s.openFrame f).command p.toNat aim).plan = s.plan := by rw [frame]; rfl
    exact (finish_out settled _ (same.symm ▸ signals) (same.symm ▸ buttons)).trans lit

end Sys2Proof.Machine
end

section
/-! PROOFS. READ ROUTE, READ SECTION, READ POINT and READ SIGNAL, and the depth of a route that READ SIGNAL carries (R91, R94,
R97, R113). -/
namespace Sys2Proof.Machine

/-! ### The active route at a signal (R75) -/

theorem entrySignal_of {s : State} {k : Nat} {r : ActiveRoute} {d : RouteRec} (route : s.route? k = some r)
    (rec : s.routeRec r = some d) : s.entrySignal k = some d.entry := by
  simp [State.entrySignal, route, rec]

/-- R75: the route that is found at a signal has it as its entry signal. -/
theorem activeAt_some {s : State} (w : s.iu.routes.Wf) {g k : Nat} (h : s.activeAt g = some k) :
    ∃ r d, s.route? k = some r ∧ s.routeRec r = some d ∧ d.entry = g := by
  obtain ⟨⟨k', r⟩, found, rfl⟩ := Option.map_eq_some_iff.1 h
  have here := List.find?_some found
  obtain ⟨d, rec, entry⟩ := Option.map_eq_some_iff.1 (of_decide_eq_true here)
  exact ⟨r, d, get?_of_mem _ _ _ (List.mem_of_find?_eq_some found) w, rec, entry⟩

theorem activeAt_of {s : State} (law : RouteLaw s) {k : Nat} {r : ActiveRoute} {d : RouteRec} (route : s.route? k = some r)
    (rec : s.routeRec r = some d) : s.activeAt d.entry = some k := by
  cases found : s.activeAt d.entry with
  | none =>
    have none := List.find?_eq_none.1 (Option.map_eq_none_iff.1 found) (k, r) (rowsGet_mem _ _ _ route)
    simp [rec] at none
  | some j =>
    obtain ⟨q, e, route', rec', entry⟩ := activeAt_some law.rising found
    rw [law.entries j k d.entry (entry ▸ entrySignal_of route' rec') (entrySignal_of route rec)]

theorem activeAt_none {s : State} (w : s.iu.routes.Wf) {g : Nat} (h : ∀ k, s.entrySignal k ≠ some g) :
    s.activeAt g = none := by
  by_contra some
  obtain ⟨k, found⟩ := Option.ne_none_iff_exists'.1 some
  obtain ⟨r, d, route, rec, rfl⟩ := activeAt_some w found
  exact h k (entrySignal_of route rec)

/-! ### Depth (R93, R94) -/

theorem meets_iff {s : State} {r : ActiveRoute} {d : RouteRec} (rec : s.routeRec r = some d) :
    s.meets r = true ↔ s.working = true ∧ s.proves r d := by
  simp only [State.meets, State.meetsBarMode, rec, Bool.and_eq_true, decide_eq_true_eq, List.all_eq_true, RouteRec.settings,
    RouteRec.reach, Bool.not_eq_true', Prod.forall]
  refine and_congr_right fun _ => ⟨fun ⟨⟨cleared, detected⟩, empty⟩ => ⟨cleared, detected, fun x mem => ?_⟩,
    fun ⟨cleared, detected, empty⟩ => ⟨⟨cleared, detected⟩, fun x mem => ?_⟩⟩
  · obtain ⟨⟨occupied, span⟩, stray⟩ := empty x mem
    exact ⟨occupied, span, stray⟩
  · obtain ⟨occupied, span, stray⟩ := empty x mem
    exact ⟨⟨occupied, span⟩, stray⟩

/-- R94: a route that counts at the exit signal of another adds one to what is counted from it. -/
theorem chainDepth_runsInto {s : State} (law : RouteLaw s) {a b : Nat} {r q : ActiveRoute} {d e : RouteRec}
    (route : s.route? a = some r) (rec : s.routeRec r = some d) (route' : s.route? b = some q)
    (rec' : s.routeRec q = some e) (next : s.runsInto a b) (n : Nat) :
    chainDepth s (n + 1) d = 1 + chainDepth s n e := by
  obtain ⟨r', d', q', e', hr, hd, hq, he, exit, entry, main, works, proves⟩ := next
  obtain rfl : r = r' := Option.some.inj (route.symm.trans hr)
  obtain rfl : q = q' := Option.some.inj (route'.symm.trans hq)
  obtain rfl : d = d' := Option.some.inj (rec.symm.trans hd)
  obtain rfl : e = e' := Option.some.inj (rec'.symm.trans he)
  have beyond : s.beyond d = some b := by rw [State.beyond, if_neg exit, ← entry, activeAt_of law route' rec']
  simp [chainDepth, beyond, route', rec', main, (meets_iff rec').2 ⟨works, proves⟩]

/-- R94: the count ends at a route that runs into none. -/
theorem chainDepth_last {s : State} (law : RouteLaw s) {a : Nat} {r : ActiveRoute} {d : RouteRec}
    (route : s.route? a = some r) (rec : s.routeRec r = some d) (last : ∀ b, ¬s.runsInto a b) (n : Nat) :
    chainDepth s (n + 1) d = 1 := by
  unfold chainDepth
  cases beyond : s.beyond d with
  | none => rfl
  | some b =>
    unfold State.beyond at beyond
    split at beyond
    next => contradiction
    next exit =>
      obtain ⟨q, e, route', rec', entry⟩ := activeAt_some law.rising beyond
      simp only [Option.bind_some, route', rec']
      rw [if_neg]
      rintro ⟨main, meets⟩
      obtain ⟨works, proves⟩ := (meets_iff rec').1 meets
      exact last b ⟨r, d, q, e, route, rec, route', rec', exit, entry, main, works, proves⟩

theorem chainDepth_one (s : State) (d : RouteRec) : chainDepth s 1 d = 1 := by
  simp only [chainDepth, ite_self]
  split
  · rfl
  · split <;> rfl

theorem depth_eq {s : State} (law : RouteLaw s) {a depth : Nat} {r : ActiveRoute} {d : RouteRec}
    (route : s.route? a = some r) (rec : s.routeRec r = some d) (h : s.depthIs a depth) : s.depth d = depth := by
  unfold State.depth
  rcases h with ⟨rfl, last⟩ | ⟨rfl, b, next, last⟩ | ⟨rfl, b, c, next, next'⟩
  · exact chainDepth_last law route rec last 2
  all_goals obtain ⟨-, -, q, e, -, -, route', rec', -⟩ := id next
  · rw [chainDepth_runsInto law route rec route' rec' next, chainDepth_last law route' rec' last]
  · obtain ⟨-, -, u, v, -, -, route'', rec'', -⟩ := id next'
    rw [chainDepth_runsInto law route rec route' rec' next, chainDepth_runsInto law route' rec' route'' rec'' next']
    rw [chainDepth_one]

/-! ### What the replies carry (R91, R97, R113) -/

theorem one_eq (n : Nat) : one n = [byte n] := rfl

theorem byte_route (x : RouteState) :
    byte x.code = match x with | .setting => 0#8 | .cleared => 1#8 | .occupied => 2#8 | .cancelling => 3#8 := by
  cases x <;> rfl

theorem byte_mark (m : SectionMark) :
    byte m.code = match m with | .reserved => 0#8 | .entered => 1#8 | .released => 2#8 := by
  cases m <;> rfl

theorem byte_point (x : PointState) : byte x.code = match x with
    | .normal => 0#8 | .reverse => 1#8 | .movingN => 2#8 | .movingR => 3#8 | .undetected => 4#8 | .failed => 5#8 := by
  cases x <;> rfl

theorem byte_aspect (a : Aspect) : byte a.code =
    match a with | .stop => 0#8 | .caution => 1#8 | .prelim => 2#8 | .clear => 3#8 | .shunt => 4#8 := by
  cases a <;> rfl

theorem opt1z_demand (q : Option Pos) : opt1z (q.map (code positions)) =
    [match q with | none => 255#8 | some .normal => 0#8 | some .reverse => 1#8] := by
  rcases q with _ | _ | _ <;> rfl

theorem lampByte_eq (bit : Option Nat) (v : Bool) :
    lampByte bit.isSome v = [if bit = none then 255#8 else if v then 1#8 else 0#8] := by
  cases bit <;> rfl

theorem numberAt_eq {s : State} {slot : Option Nat} {number : Nat}
    (h : (slot = none ∧ number = 0) ∨ ∃ k x, slot = some k ∧ s.train? k = some x ∧ number = x.number) :
    s.numberAt slot = number := by
  rcases h with ⟨rfl, rfl⟩ | ⟨k, x, rfl, train, rfl⟩
  · rfl
  · simp [State.numberAt, train]

/-! #### READ ROUTE -/

theorem placeOf_append {x : Nat} {pre : List Nat} (h : x ∉ pre) (post : List Nat) :
    placeOf x (pre ++ x :: post) = some pre.length := by
  induction pre with
  | nil => simp [placeOf]
  | cons y pre ih =>
    obtain ⟨ne, rest⟩ := List.ne_and_not_mem_of_not_mem_cons h
    simp [placeOf, ne.symm, ih rest]

theorem stacked_none {s : State} {route : Nat} (h : ∀ e ∈ s.iu.stack, e.route ≠ route) : s.stacked route = none :=
  List.find?_eq_none.2 fun e mem => by simpa using h e mem

theorem stacked_some {s : State} {route : Nat} {pre post : List StackEntry} {e : StackEntry}
    (h : s.iu.stack = pre ++ e :: post) (here : e.route = route) (first : ∀ y ∈ pre, y.route ≠ route) :
    s.stacked route = some e := by
  rw [State.stacked, h, List.find?_append, List.find?_eq_none.2 (fun y mem => by simpa using first y mem)]
  simp [here]

/-- R113: the bytes of the first stack entry of a route. -/
theorem entryBytes_eq {s : State} {pre post : List StackEntry} {e : StackEntry} (h : s.iu.stack = pre ++ e :: post)
    (first : ∀ y ∈ pre, y.route ≠ e.route) : s.entryBytes e = [byte e.station] ++ two (e.train.getD 0) ++
      [byte e.clamped, byte e.effective, byte (pre.length + 1)] := by
  have place : placeOf e.route (s.iu.stack.map StackEntry.route) = some pre.length := by
    rw [h, List.map_append, List.map_cons, placeOf_append, List.length_map]
    intro mem
    obtain ⟨y, there, same⟩ := List.mem_map.1 mem
    exact first y there same
  simp [State.entryBytes, place, one, byte]

theorem activeSlot_none {s : State} {route : Nat} (h : ∀ k r, (k, r) ∈ s.iu.routes.rows → r.route ≠ route) :
    s.activeSlot route = none := by
  rw [State.activeSlot, List.find?_eq_none.2 fun r mem => by simpa using h r.1 r.2 mem]
  rfl

theorem activeSlot_some {s : State} {k : Nat} {r : ActiveRoute} (h : s.route? k = some r)
    (alone : ∀ j q, (j, q) ∈ s.iu.routes.rows → q.route = r.route → j = k) : s.activeSlot r.route = some k := by
  cases found : s.iu.routes.rows.find? (fun q => decide (q.2.route = r.route)) with
  | none => simpa using List.find?_eq_none.1 found (k, r) (rowsGet_mem _ _ _ h)
  | some row =>
    have here := List.find?_some found
    rw [State.activeSlot, found, ← alone row.1 row.2 (List.mem_of_find?_eq_some found) (of_decide_eq_true here)]
    rfl

theorem activeBytes_eq {s : State} {k number : Nat} {r : ActiveRoute} (h : s.numberAt r.train = number) :
    s.activeBytes k r = [byte k] ++ two r.route ++ two number ++
      [byte r.station, match r.state with | .setting => 0#8 | .cleared => 1#8 | .occupied => 2#8 | .cancelling => 3#8,
        byte r.marks.length] ++
      r.marks.map (fun m => match m with | .reserved => 0#8 | .entered => 1#8 | .released => 2#8) ++
      [byte r.moving] ++ two (r.approach.getD 0) := by
  have marks : r.marks.flatMap (fun m => one m.code) =
      r.marks.map (fun m => match m with | .reserved => 0#8 | .entered => 1#8 | .released => 2#8) := by
    simp only [one_eq, byte_mark]
    exact (List.map_eq_flatMap ..).symm
  rw [State.activeBytes, h, listBytes, marks]
  simp only [one_eq, byte_route, opt2, List.append_assoc, List.cons_append, List.nil_append]

/-- R91, R113: the payload of READ ROUTE from the two indications. -/
theorem routeBytes_eq {s : State} {route : Nat} {active entry : Option (List Byte)}
    (stacked : (s.stacked route).map s.entryBytes = entry)
    (found : ((s.activeSlot route).bind fun k => (s.route? k).map fun r => (k, r)).map (fun x => s.activeBytes x.1 x.2) = active) :
    s.routeBytes route = match active, entry with
      | some a, none => [0#8] ++ a ++ [0#8]
      | some a, some e => [0#8] ++ a ++ [1#8] ++ e
      | none, some e => [1#8] ++ e
      | none, none => [2#8] := by
  subst stacked found
  unfold State.routeBytes
  dsimp only
  cases s.stacked route <;> cases (s.activeSlot route).bind fun k => (s.route? k).map fun r => (k, r) <;> rfl

/-! #### READ SECTION, READ POINT and READ SIGNAL -/

/-- R91: what READ SECTION tells of a section's reservation mark: its kind, its slot, the route there and the mark within it. -/
def State.tellsMark (s : State) (sec : Nat) (kind slot within : Byte) (route : Nat) : Prop :=
  match s.mark sec with
  | .free => kind = 0#8 ∧ slot = 0#8 ∧ route = 0 ∧ within = 255#8
  | .overlap k => kind = 2#8 ∧ slot = byte k ∧ within = 255#8 ∧ ∃ r, s.route? k = some r ∧ route = r.route
  | .route k => kind = 1#8 ∧ slot = byte k ∧ ∃ r m, s.route? k = some r ∧ route = r.route ∧ s.sectionMark r sec = some m ∧
      within = match m with | .reserved => 0#8 | .entered => 1#8 | .released => 2#8

theorem sectionBytes_eq {s : State} {sec route number : Nat} {kind slot within : Byte}
    (mark : s.tellsMark sec kind slot within route) (span : s.numberAt (s.spanOf sec) = number) :
    s.sectionBytes sec = [if s.occupied sec then 1#8 else 0#8, kind, slot] ++ two route ++
      [within, if s.stray sec then 1#8 else 0#8] ++ two number := by
  unfold State.tellsMark at mark
  unfold State.sectionBytes
  dsimp only
  rw [span]
  cases here : s.mark sec <;> rw [here] at mark
  case free =>
    obtain ⟨rfl, rfl, rfl, rfl⟩ := mark
    rfl
  case route k =>
    obtain ⟨rfl, rfl, r, m, active, rfl, marked, rfl⟩ := mark
    simp only [Mark.slot, Option.bind_some, active, Option.map_some, Option.getD_some, marked, flagByte, opt1, opt1z, one_eq,
      byte_mark]
    rfl
  case overlap k =>
    obtain ⟨rfl, rfl, rfl, r, active, rfl⟩ := mark
    simp only [Mark.slot, Option.bind_some, active]
    rfl

theorem pointBytes_eq (s : State) (p : Nat) (r : PointRec) : s.pointBytes p r =
    [match (s.point p).state with
      | .normal => 0#8 | .reverse => 1#8 | .movingN => 2#8 | .movingR => 3#8 | .undetected => 4#8 | .failed => 5#8,
      byte (s.point p).locks,
      match (s.point p).demand with | none => 255#8 | some .normal => 0#8 | some .reverse => 1#8,
      if (s.point p).fault then 1#8 else 0#8, if s.input r.normalDetect then 1#8 else 0#8,
      if s.input r.reverseDetect then 1#8 else 0#8, byte ((s.point p).throw.getD 0)] := by
  simp only [State.pointBytes, one_eq, byte_point, opt1z_demand, flagByte, opt1, List.cons_append, List.nil_append]

theorem depthOf_eq (s : State) (signal : Nat) : s.depthOf signal =
    if (s.signal signal).aspect = .stop ∨ (s.signal signal).aspect = .shunt then 0
    else ((((s.activeAt signal).bind s.route?).bind s.routeRec).map s.depth).getD 0 := by
  unfold State.depthOf
  generalize ((s.activeAt signal).bind s.route?).bind s.routeRec = found
  cases (s.signal signal).aspect <;> cases found <;> rfl

theorem signalBytes_eq {s : State} {signal depth slot route : Nat} {g : SignalRec} (depthOf : s.depthOf signal = depth)
    (active : (s.activeAt signal).getD 0 = slot)
    (routeAt : (((s.activeAt signal).bind s.route?).map ActiveRoute.route).getD 0 = route) : s.signalBytes signal g =
      [match (s.signal signal).aspect with | .stop => 0#8 | .caution => 1#8 | .prelim => 2#8 | .clear => 3#8 | .shunt => 4#8,
        byte depth, byte slot] ++ two route ++
      [if (s.signal signal).lamps.stop then 1#8 else 0#8,
        if g.caution = none then 255#8 else if (s.signal signal).lamps.caution then 1#8 else 0#8,
        if g.second = none then 255#8 else if (s.signal signal).lamps.second then 1#8 else 0#8,
        if g.clear = none then 255#8 else if (s.signal signal).lamps.clear then 1#8 else 0#8,
        if g.subsidiary = none then 255#8 else if (s.signal signal).lamps.subsidiary then 1#8 else 0#8] := by
  subst depthOf active routeAt
  simp only [State.signalBytes, one_eq, byte_aspect, lampByte_eq, flagByte, opt1, List.append_assoc, List.cons_append,
    List.nil_append]

/-- R94, R97: the depth that READ SIGNAL carries, with the slot and the route at the signal. -/
theorem signal_tells {s : State} {signal depth slot route : Nat} {a : Aspect} {l : Lamps} (here : s.signal signal = ⟨a, l⟩)
    (h : (slot = 0 ∧ route = 0 ∧ depth = 0 ∧ (∀ k, s.entrySignal k ≠ some signal) ∧ s.iu.routes.Wf) ∨
      (∃ r d, RouteLaw s ∧ s.route? slot = some r ∧ s.routeRec r = some d ∧ d.entry = signal ∧ route = r.route ∧
        ((depth = 0 ∧ (a = .stop ∨ a = .shunt)) ∨ (s.depthIs slot depth ∧ a ≠ .stop ∧ a ≠ .shunt)))) :
    s.depthOf signal = depth ∧ (s.activeAt signal).getD 0 = slot ∧
      (((s.activeAt signal).bind s.route?).map ActiveRoute.route).getD 0 = route := by
  rw [depthOf_eq, here]
  rcases h with ⟨rfl, rfl, rfl, none, w⟩ | ⟨r, d, law, at_slot, rec, rfl, rfl, counted⟩
  · simp [activeAt_none w none]
  · simp only [activeAt_of law at_slot rec, Option.bind_some, at_slot, rec, Option.map_some, Option.getD_some, and_true]
    rcases counted with ⟨rfl, shown⟩ | ⟨depth, notStop, notShunt⟩
    · exact if_pos shown
    · rw [if_neg (not_or.2 ⟨notStop, notShunt⟩)]
      exact depth_eq law at_slot rec depth

/-! #### The four requests -/

/-- Settles O46: each owner answers from the tables as they stand. -/
theorem interlockingReads : Obligations.InterlockingReads := by
  refine ⟨fun f st s k => ⟨fun hi lo h => ?_, fun b h => ?_, fun b h => ?_⟩, fun f st s b k h => ?_⟩
  · have answers : ∀ {r}, ownReadRoute (s.openFrame f) st (pair hi lo) = (s.openFrame f, r) →
        exec (.readRoute f) s = .next (s.replied f 0x43 r) := fun own =>
      congrArg Host.Outcome.next (takeQuery_answers h k (decode_u16 hi lo) own)
    have plan : (s.openFrame f).plan = s.plan := rfl
    refine ⟨fun out => answers ?_, fun low high => ⟨fun none => answers ?_, fun known entry active stack table => answers ?_⟩⟩
    · rw [ownReadRoute, if_pos (by simp; omega)]
    · simp [ownReadRoute, low, high, plan, none]
    · have stacked : (s.stacked (pair hi lo)).map s.entryBytes = entry := by
        rcases stack with ⟨rfl, none⟩ | ⟨pre, e, post, split, here, first, rfl⟩
        · rw [stacked_none none]
          rfl
        · rw [stacked_some split here first, Option.map_some, entryBytes_eq split (here ▸ first)]
      have found : ((s.activeSlot (pair hi lo)).bind fun k => (s.route? k).map fun r => (k, r)).map
          (fun x => s.activeBytes x.1 x.2) = active := by
        rcases table with ⟨rfl, none⟩ | ⟨j, r, number, route, here, alone, train, rfl⟩
        · rw [activeSlot_none none]
          rfl
        · rw [← here, activeSlot_some route (here ▸ alone), Option.bind_some, route]
          exact congrArg some (activeBytes_eq (numberAt_eq (by tauto)))
      have own : ownReadRoute (s.openFrame f) st (pair hi lo) =
          (s.openFrame f, .done ((s.openFrame f).routeBytes (pair hi lo))) := by
        simp [ownReadRoute, low, high, plan, known]
      exact own.trans (congrArg (fun l => (s.openFrame f, Answer.done l)) (routeBytes_eq (s := s) stacked found))
  · have answers : ∀ {r}, ownReadSection (s.openFrame f) st b.toNat = (s.openFrame f, r) →
        exec (.readSection f) s = .next (s.replied f 0x44 r) := fun own =>
      congrArg Host.Outcome.next (takeQuery_answers h k (decode_u8 b) own)
    have plan : (s.openFrame f).plan = s.plan := rfl
    refine ⟨fun out => answers ?_, fun low high => ⟨fun none => answers ?_,
      fun known kind slot within route number mark span => answers ?_⟩⟩
    · rw [ownReadSection, if_pos (by simp; omega)]
    · simp [ownReadSection, low, high, plan, none]
    · have bytes : (s.openFrame f).sectionBytes b.toNat = _ := sectionBytes_eq (s := s) mark (numberAt_eq (by tauto))
      simp [ownReadSection, low, high, plan, known, bytes]
  · have answers : ∀ {r}, ownReadPoint (s.openFrame f) st b.toNat = (s.openFrame f, r) →
        exec (.readPoint f) s = .next (s.replied f 0x45 r) := fun own =>
      congrArg Host.Outcome.next (takeQuery_answers h k (decode_u8 b) own)
    have plan : (s.openFrame f).plan = s.plan := rfl
    refine ⟨fun out => answers ?_, fun low high => ⟨fun none => answers ?_, fun r x rec here => answers ?_⟩⟩
    · rw [ownReadPoint, if_pos (by simp; omega)]
    · simp [ownReadPoint, low, high, plan, none]
    · subst here
      have bytes : (s.openFrame f).pointBytes b.toNat r = _ := pointBytes_eq s b.toNat r
      have own : ownReadPoint (s.openFrame f) st b.toNat = (s.openFrame f, .done ((s.openFrame f).pointBytes b.toNat r)) := by
        simp [ownReadPoint, low, high, plan, rec]
      exact own.trans (congrArg (fun l => (s.openFrame f, Answer.done l)) bytes)
  · have answers : ∀ {r}, ownReadSignal (s.openFrame f) st b.toNat = (s.openFrame f, r) →
        exec (.readSignal f) s = .next (s.replied f 0x46 r) := fun own =>
      congrArg Host.Outcome.next (takeQuery_answers h k (decode_u8 b) own)
    have plan : (s.openFrame f).plan = s.plan := rfl
    refine ⟨fun out => answers ?_, fun low high => ⟨fun none => answers ?_,
      fun g a l depth slot route rec here tells => answers ?_⟩⟩
    · rw [ownReadSignal, if_pos (by simp; omega)]
    · simp [ownReadSignal, low, high, plan, none]
    · obtain ⟨counted, active, routeAt⟩ := signal_tells here tells
      have bytes : (s.openFrame f).signalBytes b.toNat g = _ := signalBytes_eq (s := s) counted active routeAt
      rw [here] at bytes
      have own : ownReadSignal (s.openFrame f) st b.toNat =
          (s.openFrame f, .done ((s.openFrame f).signalBytes b.toNat g)) := by
        simp [ownReadSignal, low, high, plan, rec]
      exact own.trans (congrArg (fun l => (s.openFrame f, Answer.done l)) bytes)

end Sys2Proof.Machine
end

section
/-! PROOFS. The route checks in their order, and a SET ROUTE that is refused or stacked (R82 to R84, R108). -/
namespace Sys2Proof.Machine

/-! ### The checks in their order (R83) -/

/-- R83: the item that fails a route check, if one does. -/
def State.failing (s : State) (route : Nat) (train : Option Nat) : Nat → Option Nat
  | 1 => if (s.plan.routes.get? route).isNone then some 0 else none
  | 2 => if s.unknownTrain train then some 0 else none
  | 3 => (s.plan.routes.get? route).bind fun d => s.activeAt d.entry
  | 4 => (s.plan.routes.get? route).bind fun d => d.reach.find? (fun x => !s.sectionFree x)
  | 5 => (s.plan.routes.get? route).bind fun d =>
    (d.settings.find? (fun x => !(s.placed x.1 x.2 || s.movable x.1))).map Prod.fst
  | 6 => (s.plan.routes.get? route).bind s.requirementFails
  | 7 => if (lowestFree s.iu.routes 1 Config.routeSlots).isNone then some 0 else none
  | _ => none

theorem routeCheck_eq (s : State) (a : RouteAsk) :
    s.routeCheck a = [1, 2, 3, 4, 5, 6, 7].findSome? (fun c => (s.failing a.route a.train c).map fun i => (c, i)) := by
  simp only [List.findSome?_cons, List.findSome?_nil, State.failing]
  unfold State.routeCheck
  cases s.plan.routes.get? a.route with
  | none => rfl
  | some d =>
    simp only [Option.isNone_some, Bool.false_eq_true, if_false, Option.map_none, Option.bind_some]
    cases s.unknownTrain a.train
    case true => rfl
    simp only [Bool.false_eq_true, if_false, Option.map_none]
    cases s.activeAt d.entry
    case some => rfl
    cases d.reach.find? (fun x => !s.sectionFree x)
    case some => rfl
    cases d.settings.find? (fun x => !(s.placed x.1 x.2 || s.movable x.1))
    case some => rfl
    cases s.requirementFails d
    case some => rfl
    cases lowestFree s.iu.routes 1 Config.routeSlots <;> rfl

/-- R83: the checks have the numbers 1 to 7. -/
theorem failing_range {s : State} {route c i : Nat} {train : Option Nat} (h : s.failing route train c = some i) :
    c ∈ [1, 2, 3, 4, 5, 6, 7] := by
  by_contra out
  simp only [List.mem_cons, List.not_mem_nil, or_false, not_or] at out
  obtain ⟨h1, h2, h3, h4, h5, h6, h7⟩ := out
  unfold State.failing at h
  split at h <;> contradiction

/-- R83: the first check that fails is the one reported. -/
theorem routeCheck_first {s : State} {a : RouteAsk} {c i : Nat} (h : s.failing a.route a.train c = some i)
    (first : ∀ c', c' < c → s.failing a.route a.train c' = none) : s.routeCheck a = some (c, i) := by
  have mem := failing_range h
  rw [routeCheck_eq]
  simp only [List.mem_cons, List.not_mem_nil, or_false] at mem
  rcases mem with rfl | rfl | rfl | rfl | rfl | rfl | rfl <;> simp [h, first]

theorem routeCheck_eq_none (s : State) (a : RouteAsk) :
    s.routeCheck a = none ↔ ∀ c, s.failing a.route a.train c = none := by
  rw [routeCheck_eq, List.findSome?_eq_none_iff]
  simp only [Option.map_eq_none_iff]
  refine ⟨fun h c => ?_, fun h c _ => h c⟩
  by_contra some
  obtain ⟨i, fails⟩ := Option.ne_none_iff_exists'.1 some
  exact some (h c (failing_range fails))

/-! ### What each check says -/

theorem sectionFree_eq_false (s : State) (x : Nat) : (!s.sectionFree x) = true ↔ s.bars x := by
  simp only [State.sectionFree, State.bars, Bool.not_eq_true', Bool.and_eq_false_iff, decide_eq_false_iff_not,
    Bool.not_eq_false', or_assoc]

theorem stuck_iff (s : State) (x : Nat × Pos) : (!(s.placed x.1 x.2 || s.movable x.1)) = true ↔ s.stuck x := by
  have free : ∀ y, ¬s.bars y ↔ s.sectionFree y = true := fun y => by
    rw [← sectionFree_eq_false, Bool.not_eq_true', Bool.not_eq_false]
  rw [Bool.not_eq_true', ← Bool.not_eq_true, State.stuck, not_iff_not, Bool.or_eq_true]
  refine or_congr ?_ ?_
  · simp [State.placed]
  · unfold State.movable
    cases s.plan.points.get? x.1 <;> simp [free, and_assoc]

/-- The first of a list that meets a test, as the list splits there. -/
theorem find?_first {α : Type} {p : α → Bool} {l : List α} {x : α} : l.find? p = some x ↔
    ∃ pre post, l = pre ++ x :: post ∧ p x = true ∧ ∀ y ∈ pre, ¬p y = true := by
  rw [List.find?_eq_some_iff_append]
  constructor
  · rintro ⟨here, pre, post, split, before⟩
    exact ⟨pre, post, split, here, fun y mem => by simpa using before y mem⟩
  · rintro ⟨pre, post, split, here, before⟩
    exact ⟨here, pre, post, split, fun y mem => by simpa using before y mem⟩

theorem requirementFails_iff (s : State) (d : RouteRec) (i : Nat) : s.requirementFails d = some i ↔
    ∃ e, d.requirement = some (i, e) ∧ ¬∃ x, s.plan.roads.get? i = some x ∧ s.tc.state = .locked ∧
      s.tc.pos = some (match e with | .a => x.index | .b => (x.index + 24) % 48) := by
  have align : ∀ (x : RoadRec) e, x.alignFor e = match e with | .a => x.index | .b => (x.index + 24) % 48 := by
    rintro x (_ | _) <;> rfl
  unfold State.requirementFails
  cases d.requirement with
  | none => simp
  | some r =>
    obtain ⟨road, e⟩ := r
    cases rec : s.plan.roads.get? road with
    | none =>
      simp only [rec, Option.some.injEq, Prod.mk.injEq]
      refine ⟨fun h => ⟨e, ⟨h, rfl⟩, ?_⟩, fun ⟨_, ⟨h, _⟩, _⟩ => h⟩
      rintro ⟨x, rec', -⟩
      rw [← h, rec] at rec'
      contradiction
    | some x =>
      simp only [rec, align]
      by_cases right : s.tc.state = .locked ∧ s.tc.pos = some (match e with | .a => x.index | .b => (x.index + 24) % 48)
      · rw [if_pos right]
        refine ⟨fun h => by contradiction, ?_⟩
        rintro ⟨_, same, wrong⟩
        cases same
        exact absurd ⟨x, rec, right⟩ wrong
      · rw [if_neg right]
        constructor
        · intro h
          cases h
          refine ⟨e, rfl, ?_⟩
          rintro ⟨y, rec', right'⟩
          rw [rec] at rec'
          cases rec'
          exact right right'
        · rintro ⟨_, same, -⟩
          cases same
          rfl

/-- R83: the checks of the manual are those of the model. -/
theorem failsCheck_iff {s : State} (law : RouteLaw s) (register : RegisterLaw s) (route : Nat) (train : Option Nat)
    (c i : Nat) : s.failsCheck route train c i ↔ s.failing route train c = some i := by
  unfold State.failsCheck State.failing
  split
  case h_1 => cases s.plan.routes.get? route <;> simp [eq_comm]
  case h_2 =>
    have unknown : s.unknownTrain train = true ↔ ∃ n, train = some n ∧ ∀ k x, s.train? k = some x → x.number ≠ n := by
      cases train with
      | none => simp [State.unknownTrain]
      | some n =>
        have found := slotOf_isSome register n
        rw [State.unknownTrain, ← Option.not_isSome, Bool.not_eq_true', ← Bool.not_eq_true, found]
        simp
    rw [← unknown]
    cases s.unknownTrain train <;> simp [eq_comm]
  case h_3 =>
    refine Iff.trans ?_ Option.bind_eq_some_iff.symm
    constructor
    · rintro ⟨d, r, e, rec, at_slot, rec', entry⟩
      exact ⟨d, rec, entry ▸ activeAt_of law at_slot rec'⟩
    · rintro ⟨d, rec, active⟩
      obtain ⟨r, e, at_slot, rec', entry⟩ := activeAt_some law.rising active
      exact ⟨d, r, e, rec, at_slot, rec', entry⟩
  case h_4 =>
    simp only [Option.bind_eq_some_iff, find?_first, sectionFree_eq_false, RouteRec.reach]
    grind
  case h_5 =>
    simp only [Option.bind_eq_some_iff, Option.map_eq_some_iff, find?_first, stuck_iff, RouteRec.settings, Prod.exists]
    grind
  case h_6 =>
    simp only [Option.bind_eq_some_iff, requirementFails_iff]
    grind
  case h_7 =>
    have full : (lowestFree s.iu.routes 1 Config.routeSlots).isNone = true ↔ ∀ k, 1 ≤ k → k ≤ 32 → s.route? k ≠ none := by
      rw [Option.isNone_iff_eq_none, lowestFree_eq_none]
      exact forall_congr' fun k => forall_congr' fun _ => ⟨fun h high => h (Nat.lt_succ_of_le high),
        fun h high => h (Nat.le_of_lt_succ high)⟩
    rw [← full]
    cases (lowestFree s.iu.routes 1 Config.routeSlots).isNone <;> simp [eq_comm]
  case h_8 => simp

/-- R83: the first check that fails refuses a SET ROUTE or stacks it. -/
theorem routeCheck_of_failsCheck {s : State} (law : RouteLaw s) (register : RegisterLaw s) {a : RouteAsk} {c i : Nat}
    (fails : s.failsCheck a.route a.train c i) (first : ∀ c' i', c' < c → ¬s.failsCheck a.route a.train c' i') :
    s.routeCheck a = some (c, i) :=
  routeCheck_first ((failsCheck_iff law register ..).1 fails) fun c' lower => by
    by_contra some
    obtain ⟨i', fails'⟩ := Option.ne_none_iff_exists'.1 some
    exact first c' i' lower ((failsCheck_iff law register ..).2 fails')

theorem routeCheck_none_iff {s : State} (law : RouteLaw s) (register : RegisterLaw s) (a : RouteAsk) :
    s.routeCheck a = none ↔ ∀ c i, ¬s.failsCheck a.route a.train c i := by
  rw [routeCheck_eq_none]
  simp only [failsCheck_iff law register, Option.eq_none_iff_forall_ne_some, ne_eq]

/-- R83: the last check is check 7. -/
theorem failsCheck_le {s : State} (law : RouteLaw s) (register : RegisterLaw s) {route c i : Nat} {train : Option Nat}
    (h : s.failsCheck route train c i) : c ≤ 7 := by
  have mem := failing_range ((failsCheck_iff law register ..).1 h)
  simp only [List.mem_cons, List.not_mem_nil, or_false] at mem
  omega

/-! ### A SET ROUTE put to the IU (R82, R84, R108) -/

/-- R44: the train that a SET ROUTE names. -/
theorem State.asksFor.number {s : State} {st ref : Nat} {train : Option Nat} (h : s.asksFor st ref train)
    (register : RegisterLaw s) : s.numberFor st ref = .ok train := by
  unfold State.numberFor
  rcases h with ⟨rfl, rfl⟩ | ⟨some, rfl, rfl⟩ | ⟨some, cab, slot, x, names, rfl⟩
  · rfl
  · rw [if_neg some, if_pos rfl]
  · obtain ⟨train, -⟩ := id names
    rw [if_neg some, if_neg cab, names.resolves register]
    simp [train]

theorem trainInRange_iff (train : Option Nat) : trainInRange train = true ↔ ∀ n, train = some n → 1 ≤ n ∧ n ≤ 9999 := by
  cases train <;> simp [trainInRange]

theorem askRoute_resting {s : State} (h : s.working = false) (a : RouteAsk) : s.askRoute a = (s, .refused .badMode []) := by
  simp [State.askRoute, h]

theorem askRoute_out {s : State} {a : RouteAsk} (works : s.working = true)
    (out : a.route = 0 ∨ 400 < a.route ∨ ∃ n, a.train = some n ∧ 9999 < n) : s.askRoute a = (s, .refused .range []) := by
  have outside : (decide (1 ≤ a.route ∧ a.route ≤ 400) && trainInRange a.train) = false := by
    rw [← Bool.not_eq_true, Bool.and_eq_true, decide_eq_true_eq, trainInRange_iff]
    rintro ⟨⟨low, high⟩, within⟩
    rcases out with zero | large | ⟨n, train, large⟩
    · omega
    · omega
    · have := (within n train).2
      omega
  unfold State.askRoute
  rw [works, outside]
  rfl

/-- R82, R84: a SET ROUTE within its ranges goes by the route checks. -/
theorem askRoute_checked {s : State} {a : RouteAsk} (works : s.working = true) (low : 1 ≤ a.route) (high : a.route ≤ 400)
    (within : ∀ n, a.train = some n → 1 ≤ n ∧ n ≤ 9999) : s.askRoute a =
      match s.routeCheck a with
      | none => ((s.activateChecked a).1, .accepted [0, byte (s.activateChecked a).2])
      | some (c, i) =>
        if c ≤ 2 then (s, .refused .noSuch [])
        else if a.stack then s.offer a c i
        else if c = 7 then (s, .refused .tableFull [])
        else (s, .refused .conflict [byte c, byte i]) := by
  have inside : (decide (1 ≤ a.route ∧ a.route ≤ 400) && trainInRange a.train) = true := by
    simp [low, high, (trainInRange_iff _).2 within]
  unfold State.askRoute
  rw [works, inside]
  rfl

/-- R108: what the route stack does with a request that is offered. -/
theorem offer_cases (s : State) (a : RouteAsk) (c i : Nat) :
    ((∃ e ∈ s.iu.stack, e.route = a.route) → s.offer a c i = (s, .refused .conflict [])) ∧
    ((∀ e ∈ s.iu.stack, e.route ≠ a.route) → 16 ≤ s.iu.stack.length → s.offer a c i = (s, .refused .tableFull [])) ∧
    ((∀ e ∈ s.iu.stack, e.route ≠ a.route) → s.iu.stack.length < 16 → ∀ l, l = s.plan.clampLevel a.station a.level →
      s.offer a c i = ({ s with iu := { s.iu with stack := s.iu.stack ++ [⟨a.route, a.train, a.station, l, l⟩] } },
        .accepted [1#8, byte c, byte i, byte l])) := by
  have there : s.iu.stack.any (fun e => decide (e.route = a.route)) = true ↔ ∃ e ∈ s.iu.stack, e.route = a.route := by
    simp [List.any_eq_true]
  refine ⟨fun h => if_pos (there.2 h), fun absent full => ?_, fun absent room l level => ?_⟩
  all_goals have away := fun h => let ⟨e, mem, same⟩ := there.1 h; absent e mem same
  · rw [State.offer, if_neg away, if_pos (show Config.stackEntries ≤ _ from full)]
  · rw [State.offer, if_neg away, if_neg (Nat.not_le.2 (show _ < Config.stackEntries from room)), level]
    rfl

theorem clampLevel_eq {p : Plan} {st : Nat} (cab : st ≤ 24) (level : Nat) :
    p.clampLevel st level = max (min level 15) (if st = 0 then 0 else (p.station st).floor) := by
  rw [Plan.clampLevel, Plan.floor, if_neg (show st ≠ 40 by omega)]

/-- Settles O40: the first check that fails is the one that the manual's checks name; the owner refuses the request or puts
it on the stack. -/
theorem setRouteRefusedOrStacked : Obligations.SetRouteRefusedOrStacked := by
  intro f st s rh rl th tl level stack train law register k flagged h asks
  have decoded := decode_setRoute rh rl th tl level stack flagged
  have owns : ownSetRoute (s.openFrame f) st (pair rh rl, pair th tl, level.toNat, decide (stack = 1#8)) =
      (s.openFrame f).askRoute ⟨pair rh rl, train, st, level.toNat, decide (stack = 1#8)⟩ := by
    have number : (s.openFrame f).numberFor st (pair th tl) = .ok train := asks.number register
    simp [ownSetRoute, number]
  have refuses : ∀ {r b}, (s.openFrame f).askRoute ⟨pair rh rl, train, st, level.toNat, decide (stack = 1#8)⟩ =
      (s.openFrame f, .refused r b) → exec (.setRoute f) s = .next (s.replied f 0x40 (.refused r b)) := fun own =>
    congrArg Host.Outcome.next (takeRequest_refuses h k decoded (owns.trans own))
  refine ⟨fun rests => refuses (askRoute_resting (s := s.openFrame f) rests _), fun works =>
    ⟨fun out => refuses (askRoute_out (s := s.openFrame f) works out), fun low high within c i fails first => ?_⟩⟩
  have check : (s.openFrame f).routeCheck ⟨pair rh rl, train, st, level.toNat, decide (stack = 1#8)⟩ = some (c, i) :=
    routeCheck_of_failsCheck law register fails first
  have own := askRoute_checked (s := s.openFrame f) (a := ⟨pair rh rl, train, st, level.toNat, decide (stack = 1#8)⟩) works
    low high within
  rw [check] at own
  dsimp only at own
  have last := failsCheck_le law register fails
  refine ⟨fun low => refuses (own.trans (if_pos low)), fun plain low high => refuses ?_, fun plain seven => refuses ?_,
    fun offered low => ?_⟩
  · subst plain
    rw [own, if_neg (by omega), if_neg (by decide), if_neg (by omega)]
  · subst plain
    rw [own, if_neg (by omega), if_neg (by decide), if_pos seven]
  · subst offered
    rw [if_neg (by omega), if_pos (by decide)] at own
    obtain ⟨there, full, room⟩ := offer_cases (s.openFrame f) ⟨pair rh rl, train, st, level.toNat, decide (1#8 = 1#8)⟩ c i
    refine ⟨fun stacked => refuses (own.trans (there stacked)), fun absent sixteen =>
      refuses (own.trans (full absent (Nat.le_of_eq sixteen.symm))), fun absent fewer quiet l clamped =>
      ⟨_, congrArg Host.Outcome.next (takeRequest_accepts h k decoded (owns.trans (own.trans (room absent fewer l ?_)))),
        finish_followUp _ (by exact quiet) _⟩⟩
    exact clamped.trans (clampLevel_eq h.cab _).symm

end Sys2Proof.Machine
end

section
/-! PROOFS. A SET ROUTE that passes every check: what its activation leaves, and the end of its event (R78, R85, R86). -/
namespace Sys2Proof.Machine

/-! ### A route becomes CLEARED (R86) -/

/-- R86: a train without a current route that a CLEARED route is assigned to takes it as its current route. -/
def Train.joinRoute (z : Train) (joins : Prop) [Decidable joins] (k : Nat) : Train :=
  { z with route := if joins ∧ z.route = none then some k else z.route }

theorem updTrain_get? {s u : State} (h : u.tr = s.tr) (i j : Nat) (g : Train → Train) :
    (u.updTrain i g).tr.trains.get? j = if j = i then (s.train? j).map g else s.train? j := by
  have same : u.train? j = s.train? j := by rw [State.train?, h, State.train?]
  exact same ▸ updTrain_train? u i j g

theorem clearRoute_eq {s : State} {k : Nat} {r : ActiveRoute} (h : s.route? k = some r) :
    ∃ trains, s.clearRoute k = { s with
        iu := { s.iu with routes := s.iu.routes.put k { r with state := .cleared } },
        clp := s.clp.record .routeSet r.route 0, tr := { s.tr with trains := trains } } ∧
      ∀ j, trains.get? j = (s.train? j).map fun z => z.joinRoute (r.train = some j) k := by
  unfold State.clearRoute
  rw [h]
  dsimp only
  cases at_ : r.train with
  | none =>
    refine ⟨s.tr.trains, rfl, fun j => ?_⟩
    rw [← State.train?]
    cases s.train? j <;> simp [Train.joinRoute]
  | some i =>
    dsimp only
    refine ⟨_, updTrain_frame _ i _, fun j => ?_⟩
    · refine (updTrain_get? (s := s) (by rfl) i j _).trans ?_
      by_cases same : j = i
      · subst same
        rw [if_pos rfl]
        refine congrArg (fun g => (s.train? j).map g) (funext fun z => ?_)
        cases e : z.route <;> simp [Train.joinRoute, e]
        rw [← e]
      · rw [if_neg same]
        cases s.train? j <;> simp [Train.joinRoute, Ne.symm same]

/-! ### The drive outputs of commands (R78) -/

theorem command_out_other {s : State} {p bit : Nat} (h : ∀ r, s.plan.points.get? p = some r → ∀ o, r.drive o ≠ bit) (q : Pos) :
    (s.command p q).out bit = s.out bit := by
  unfold State.command
  split
  next => rfl
  next r rec =>
    have away : ∀ (u : State) o v, (u.setOut (r.drive o) v).out bit = u.out bit := fun u o v =>
      setOut_out_ne u v (h r rec o).symm
    dsimp only
    split
    next => rfl
    next =>
      refine (away _ q true).trans ?_
      split
      · split
        · rfl
        · exact away _ _ _
      · rfl

theorem command_out {s : State} {p : Nat} {q : Pos} {r : PointRec} (rec : s.plan.points.get? p = some r)
    (moves : (s.point p).state ≠ q.moving) : (s.command p q).out (r.drive q) = true := by
  unfold State.command
  rw [rec]
  dsimp only
  rw [if_neg moves]
  exact setOut_out_same _ _

theorem commands_out_other {bit : Nat} {l : List (Nat × Pos)} {s : State}
    (h : ∀ x ∈ l, ∀ r, s.plan.points.get? x.1 = some r → ∀ o, r.drive o ≠ bit) :
    (l.foldl (fun s x => s.command x.1 x.2) s).out bit = s.out bit := by
  induction l generalizing s with
  | nil => rfl
  | cons y l ih =>
    have plan : (s.command y.1 y.2).plan = s.plan := congrArg PM.plan (command_rail s y.1 y.2).pm
    rw [List.foldl_cons, ih fun x mem => plan ▸ h x (List.mem_cons_of_mem _ mem)]
    exact command_out_other (h y List.mem_cons_self) _

/-- R78: the drive output that a command sets stays set under commands to other points with drive outputs of their own. -/
theorem commands_out {l : List (Nat × Pos)} {s : State} (w : s.iu.points.Wf) (once : (l.map Prod.fst).Nodup) {p : Nat} {q : Pos}
    (mem : (p, q) ∈ l) {r : PointRec} (rec : s.plan.points.get? p = some r) (moves : (s.point p).state ≠ q.moving)
    (own : ∀ x ∈ l, x.1 ≠ p → ∀ r', s.plan.points.get? x.1 = some r' → ∀ o, r'.drive o ≠ r.drive q) :
    (l.foldl (fun s x => s.command x.1 x.2) s).out (r.drive q) = true := by
  induction l generalizing s with
  | nil => cases mem
  | cons y l ih =>
    obtain ⟨away, once⟩ := List.nodup_cons.1 once
    obtain ⟨wf, points⟩ := command_points w y.1 y.2
    have plan : (s.command y.1 y.2).plan = s.plan := congrArg PM.plan (command_rail s y.1 y.2).pm
    rw [List.foldl_cons]
    rcases List.mem_cons.1 mem with rfl | mem
    · rw [commands_out_other fun x there => plan ▸ own x (List.mem_cons_of_mem _ there) fun e => by
        have named : x.1 ∈ l.map Prod.fst := List.mem_map_of_mem there
        exact away (e ▸ named)]
      exact command_out rec moves
    · have other : p ≠ y.1 := fun e => away (e ▸ List.mem_map_of_mem mem)
      exact ih wf once mem (plan ▸ rec) (by rw [points, if_neg other]; exact moves) fun x there =>
        plan ▸ own x (List.mem_cons_of_mem _ there)

/-! ### What an activation leaves (R85, R86) -/

theorem clearRoute_fs (s : State) (k : Nat) : (s.clearRoute k).fs = s.fs := by
  cases h : s.route? k with
  | none => simp [State.clearRoute, h]
  | some r =>
    obtain ⟨_, e, -⟩ := clearRoute_eq h
    rw [e]

theorem lockedFor_point {s : State} (w : s.iu.points.Wf) {d : RouteRec} (once : ((d.points ++ d.flanks).map Prod.fst).Nodup)
    (k : Nat) (a : RouteAsk) {p : Nat} {q : Pos} (mem : (p, q) ∈ d.points ++ d.flanks) :
    (s.lockedFor d k a).point p = (s.point p).locked q :=
  editAll_once Prod.fst (fun (x : Nat × Pos) y => y.locked x.2) w once mem

/-- R78, R85: the drive output of a point that an activation commands, where no other point of the route has it. -/
theorem activate_drive {s : State} (w : s.iu.points.Wf) {d : RouteRec} (once : ((d.points ++ d.flanks).map Prod.fst).Nodup)
    (k : Nat) (a : RouteAsk) {p : Nat} {q : Pos} {r : PointRec} (mem : (p, q) ∈ d.points ++ d.flanks)
    (away : (s.point p).state ≠ q.settled) (moves : (s.point p).state ≠ q.moving) (rec : s.plan.points.get? p = some r)
    (own : ∀ p' q' r', (p', q') ∈ d.points ++ d.flanks → s.plan.points.get? p' = some r' →
      ∀ o, r'.drive o = r.drive q → p' = p ∧ o = q) : (s.activate d k a).out (r.drive q) = true := by
  have wl : (s.lockedFor d k a).iu.points.Wf := editAll_wf Prod.fst (fun (x : Nat × Pos) y => y.locked x.2) w _
  have driven : ((s.toMove d).foldl (fun s x => s.command x.1 x.2) (s.lockedFor d k a)).out (r.drive q) = true :=
    commands_out wl (once.sublist (List.filter_sublist.map _)) (List.mem_filter.2 ⟨mem, decide_eq_true away⟩) rec
      (by rw [lockedFor_point w once k a mem]; exact moves)
      fun x there other r' rec' o same => other (own x.1 x.2 r' (List.mem_filter.1 there).1 rec' o same).1
  rw [activate_eq s d k a rfl]
  split
  · exact (congrArg (fun fs : FS => Tab.getD false fs.image _) (clearRoute_fs _ k)).trans driven
  · exact driven

/-- R85, R86: the state that an activation leaves, with the trains that have the route as their current route. -/
structure Activates (s : State) (d : RouteRec) (k : Nat) (a : RouteAsk) (points : Tab Point) (t : State) : Prop where
  frame : ∃ trains image, t = { s with
    iu := { s.iu with
      routes := s.iu.routes.put k { s.newRoute d a with state := if s.toMove d = [] then .cleared else .setting },
      marks := s.marksWith d k, points := points },
    tr := { s.tr with trains := trains },
    clp := if s.toMove d = [] then s.clp.record .routeSet a.route 0 else s.clp,
    fs := { s.fs with image := image }, due := { s.due with arbitrate := true } }
  trains : ∀ j, t.train? j =
    (s.train? j).map fun z => z.joinRoute (s.toMove d = [] ∧ (s.newRoute d a).train = some j) k
  wf : points.Wf
  others : ∀ p, (∀ q, (p, q) ∉ d.points ++ d.flanks) → Tab.getD {} points p = s.point p
  taken : ∀ p q, (p, q) ∈ d.points ++ d.flanks → Tab.getD {} points p = s.plan.taken p q (s.point p)

theorem activate_activates {s : State} (wr : s.iu.routes.Wf) (wp : s.iu.points.Wf) {d : RouteRec}
    (once : ((d.points ++ d.flanks).map Prod.fst).Nodup) (k : Nat) (a : RouteAsk) :
    ∃ points, Activates s d k a points (s.activate d k a) := by
  obtain ⟨points, t, ⟨⟨image, frame⟩, wf, others, taken⟩, activated⟩ := activate_activated wp once k a
  refine ⟨points, ?_, ?_, wf, others, taken⟩
  · rw [activated]
    split
    next still =>
      have there : t.route? k = some (s.newRoute d a) := by
        rw [frame]
        exact Tab.get?_put_same ..
      obtain ⟨trains, cleared, -⟩ := clearRoute_eq there
      refine ⟨trains, image, ?_⟩
      rw [cleared, frame, Tab.put_put _ _ _ _ wr]
      rfl
    next => exact ⟨s.tr.trains, image, frame⟩
  · intro j
    have same : t.train? j = s.train? j := by rw [frame]; rfl
    rw [activated]
    split
    next still =>
      have there : t.route? k = some (s.newRoute d a) := by
        rw [frame]
        exact Tab.get?_put_same ..
      obtain ⟨trains, cleared, joined⟩ := clearRoute_eq there
      rw [cleared, ← same]
      refine (joined j).trans ?_
      simp [Train.joinRoute, still]
    next moves =>
      rw [same]
      cases s.train? j <;> simp [Train.joinRoute, moves]

/-! ### SET ROUTE (R82 to R86) -/

/-- An update of output bits, signals, lamps and hand-offs that leaves every train as it is looked up. -/
theorem FollowUp.of_lookups {s t : State} (pm : t.pm = s.pm) (mc : t.mc = s.mc) (tc : t.tc = s.tc) (clp : t.clp = s.clp)
    (pending : t.pending = s.pending) (order : t.order = s.order) (linkOut : t.linkOut = s.linkOut)
    (freeCount : t.freeCount = s.freeCount) (fs : t.fs = { s.fs with image := t.fs.image })
    (tr : t.tr = { s.tr with trains := t.tr.trains }) (iu : t.iu = { s.iu with signals := t.iu.signals })
    (awu : t.awu = { s.awu with lamps := t.awu.lamps }) (trains : ∀ j, t.train? j = s.train? j) : FollowUp s t :=
  ⟨pm, mc, tc, clp, pending, order, linkOut, freeCount, fs, tr, iu, awu,
    fun j x h => ⟨x.granted, Nat.le_refl _, (trains j).trans h⟩, fun j h => (trains j).trans h⟩

/-- What an event hands on finds nothing to do where it would have found nothing to do before. -/
theorem State.Still.settledAt {s t : State} (h : s.Still) (tc : t.tc = s.tc) (mc : t.mc = s.mc)
    (stack : t.iu.stack = s.iu.stack) (queue : t.awu.queue = s.awu.queue) (running : t.awu.running = s.awu.running)
    (ends : t.due.turnEnds = []) : t.Settled := by
  obtain ⟨-, scan, attempt, turn⟩ := h
  have scan' : t.scanIdle := by unfold State.scanIdle State.working at *; rw [mc, stack]; exact scan
  have attempt' : t.attemptIdle := by unfold State.attemptIdle at *; rw [mc, queue, running]; exact attempt
  have turn' : t.turnIdle := by unfold State.turnIdle State.free State.working at *; rw [mc, tc]; exact turn
  exact ⟨by simp [ends], fun _ => attempt', fun _ => scan', fun _ => attempt', .inl turn'⟩

/-- R83, R85: a SET ROUTE that passes every check finds its record and an empty slot. -/
theorem activateChecked_eq {s : State} {a : RouteAsk} (h : s.routeCheck a = none) {d : RouteRec}
    (rec : s.plan.routes.get? a.route = some d) : ∃ k, s.activateChecked a = (s.activate d k a, k) ∧
      1 ≤ k ∧ k ≤ 32 ∧ s.route? k = none ∧ ∀ j, 1 ≤ j → j < k → s.route? j ≠ none := by
  obtain ⟨d', k, rec', lowest, -⟩ := routeCheck_none h
  obtain ⟨low, high, empty, below⟩ := lowestFree_spec _ _ _ _ lowest
  refine ⟨k, ?_, low, Nat.le_of_lt_succ high, empty, fun j one lower =>
    Option.isSome_iff_ne_none.1 (below j one lower)⟩
  rw [State.activateChecked, rec, lowest]

/-- R85: the slot of the train that an activated route is assigned to. -/
theorem newRoute_train {s : State} (register : RegisterLaw s) (d : RouteRec) (a : RouteAsk) {slot : Option Nat}
    (h : (a.train = none ∧ slot = none) ∨ ∃ k x, s.train? k = some x ∧ a.train = some x.number ∧ slot = some k) :
    (s.newRoute d a).train = slot := by
  rcases h with ⟨none, rfl⟩ | ⟨k, x, train, number, rfl⟩
  · simp [State.newRoute, none]
  · simp [State.newRoute, number, slotOf_some register train rfl]

theorem taken_eq (pl : Plan) (p : Nat) (q : Pos) (x : Point) : pl.taken p q x =
    if x.state = q.settled ∨ x.state = q.moving then x.locked q
    else
      match pl.points.get? p with
      | none => x.locked q
      | some r => { x.locked q with state := q.moving, pulse := some (q, r.pulse), throw := some r.throw } := by
  unfold Plan.taken
  split
  next => rfl
  next away =>
    unfold Plan.commanded
    cases pl.points.get? p with
    | none => rfl
    | some r => exact if_neg fun moves => away (.inr moves)

/-- R78, R85, R86: a SET ROUTE that passes every check, to the end of its event. -/
theorem setRoute_activates (f : Frame) (st : Nat) (s : State) (rh rl th tl level stack : Byte)
    (train slotOfTrain : Option Nat) (d : RouteRec) (moving : Nat) (law : RouteLaw s) (register : RegisterLaw s)
    (wm : s.iu.marks.Wf) (wp : s.iu.points.Wf) (still : s.Still) (works : s.working = true) (k : s.listening)
    (flagged : stack = 0#8 ∨ stack = 1#8) (h : Carries f 0x40 st [rh, rl, th, tl, level, stack])
    (asks : s.asksFor st (pair th tl) train) (low : 1 ≤ pair rh rl) (high : pair rh rl ≤ 400)
    (within : ∀ n, train = some n → 1 ≤ n ∧ n ≤ 9999) (passes : ∀ c i, ¬s.failsCheck (pair rh rl) train c i)
    (rec : s.plan.routes.get? (pair rh rl) = some d) (once : (d.sections ++ d.overlap).Nodup)
    (onceP : ((d.points ++ d.flanks).map Prod.fst).Nodup)
    (assigned : (train = none ∧ slotOfTrain = none) ∨
      ∃ k x, s.train? k = some x ∧ train = some x.number ∧ slotOfTrain = some k)
    (count : moving = ((d.points ++ d.flanks).filter (fun x => decide ((s.point x.1).state ≠ x.2.settled))).length) :
    ∃ slot marks points w,
      exec (.setRoute f) s = .next (w.answeredWith f 0x40 (.accepted [0#8, byte slot])) ∧
      (1 ≤ slot ∧ slot ≤ 32 ∧ s.route? slot = none ∧ ∀ k, 1 ≤ k → k < slot → s.route? k ≠ none) ∧
      (∀ x, Tab.getD .free marks x =
        if x ∈ d.sections then .route slot else if x ∈ d.overlap then .overlap slot else s.mark x) ∧
      (∀ p, (∀ q, (p, q) ∉ d.points ++ d.flanks) → Tab.getD {} points p = s.point p) ∧
      (∀ p q, (p, q) ∈ d.points ++ d.flanks → Tab.getD {} points p = s.plan.taken p q (s.point p)) ∧
      FollowUp { s.openFrame f with
        iu := { s.iu with
          routes := s.iu.routes.put slot
            { route := pair rh rl, train := slotOfTrain, station := st,
              state := if moving = 0 then .cleared else .setting,
              marks := d.sections.map (fun _ => .reserved), moving := moving, approach := none },
          marks := marks, points := points },
        tr := { s.tr with trains := ⟨s.tr.trains.rows.map (fun r =>
          (r.1, if moving = 0 ∧ slotOfTrain = some r.1 ∧ r.2.route = none then { r.2 with route := some slot }
            else r.2))⟩ },
        clp := if moving = 0 then s.clp.record .routeSet (pair rh rl) 0 else s.clp } w ∧
      ∀ p q r, (p, q) ∈ d.points ++ d.flanks → (s.point p).state ≠ q.settled → (s.point p).state ≠ q.moving →
        s.plan.points.get? p = some r →
        (∀ p' q' r', (p', q') ∈ d.points ++ d.flanks → s.plan.points.get? p' = some r' →
          ∀ o, r'.drive o = r.drive q → p' = p ∧ o = q) →
        (∀ g ∈ s.plan.signals.rows, r.drive q ∉ g.2.lampBits) → (∀ b ∈ s.plan.buttons.rows, b.2.lamp ≠ r.drive q) →
        w.out (r.drive q) = true := by
  have number : (s.openFrame f).numberFor st (pair th tl) = .ok train := asks.number register
  have owns : ownSetRoute (s.openFrame f) st (pair rh rl, pair th tl, level.toNat, decide (stack = 1#8)) =
      (s.openFrame f).askRoute ⟨pair rh rl, train, st, level.toNat, decide (stack = 1#8)⟩ := by
    simp [ownSetRoute, number]
  generalize ask : (⟨pair rh rl, train, st, level.toNat, decide (stack = 1#8)⟩ : RouteAsk) = a at owns
  have check : (s.openFrame f).routeCheck a = none :=
    (routeCheck_none_iff law register a).2 (by rw [← ask]; exact passes)
  obtain ⟨slot, activated, one, last, empty, below⟩ := activateChecked_eq check (d := d) (by rw [← ask]; exact rec)
  have own := askRoute_checked (s := s.openFrame f) (a := a) works (by rw [← ask]; exact low) (by rw [← ask]; exact high)
    (by rw [← ask]; exact within)
  rw [check] at own
  dsimp only at own
  rw [activated] at own
  have executed := takeRequest_accepts h k (decode_setRoute rh rl th tl level stack flagged) (owns.trans own)
  obtain ⟨points, ⟨trains, image, frame⟩, joined, wf, others, taken⟩ :=
    activate_activates (s := s.openFrame f) law.rising wp onceP slot a
  have ends : s.due.turnEnds = [] := (settled_due still.1).2.2.1
  have settled : ((s.openFrame f).activate d slot a).Settled := by
    rw [frame]
    exact still.settledAt rfl rfl rfl rfl rfl ends
  have idle : moving = 0 ↔ (s.openFrame f).toMove d = [] := count ▸ List.length_eq_zero_iff
  have trained : ((s.openFrame f).newRoute d a).train = slotOfTrain :=
    newRoute_train register d a (by rw [← ask]; exact assigned)
  have named : a.route = pair rh rl := by rw [← ask]
  have record : { (s.openFrame f).newRoute d a with
      state := if (s.openFrame f).toMove d = [] then RouteState.cleared else .setting } =
      { route := pair rh rl, train := slotOfTrain, station := st, state := if moving = 0 then .cleared else .setting,
        marks := d.sections.map (fun _ => .reserved), moving := moving, approach := none } := by
    simp only [← trained, idle, ← ask]
    rw [count]
    rfl
  refine ⟨slot, (s.openFrame f).marksWith d slot, points, _, congrArg Host.Outcome.next executed, ⟨one, last, empty, below⟩,
    getD_marksWith (s := s.openFrame f) wm once slot, others, taken, ?_, fun p q r mem away moves rec own signals buttons => ?_⟩
  · refine FollowUp.trans ?_ (settled.finish _)
    rw [record, named] at frame
    simp only [← idle, trained] at frame joined
    rw [frame] at joined ⊢
    refine FollowUp.of_lookups rfl rfl rfl rfl rfl rfl rfl rfl rfl rfl rfl rfl fun j => (joined j).trans ?_
    refine Eq.trans ?_ (rowsGet_mapKeyed (fun i (z : Train) =>
      if moving = 0 ∧ slotOfTrain = some i ∧ z.route = none then { z with route := some slot } else z) _ j).symm
    refine congrArg (fun g => (s.train? j).map g) (funext fun z => ?_)
    unfold Train.joinRoute
    split
    next joins => rw [if_pos ⟨joins.1.1, joins.1.2, joins.2⟩]
    next apart => rw [if_neg fun joins => apart ⟨⟨joins.1, joins.2.1⟩, joins.2.2⟩]
  · have plan : ((s.openFrame f).activate d slot a).plan = s.plan := by rw [frame]; rfl
    exact (finish_out settled _ (plan.symm ▸ signals) (plan.symm ▸ buttons)).trans
      (activate_drive (s := s.openFrame f) wp onceP slot a mem away moves rec own)

end Sys2Proof.Machine
end

section
/-! PROOFS. The retry scan: the request it tries first, the one it grants, and the RESUME that runs it (R110 to R112, R157). -/
namespace Sys2Proof.Machine

/-! ### The request tried next (R111) -/

/-- R111: the lower of two entries, the first where they are level. -/
def takeLower (best : Option StackEntry) (e : StackEntry) : Option StackEntry :=
  match best with
  | none => some e
  | some b => if e.effective < b.effective then some e else some b

theorem nextTry_eq (untried : List Nat) (l : List StackEntry) :
    nextTry untried l = (l.filter (fun e => untried.contains e.route)).foldl takeLower none := rfl

theorem foldl_takeLower (l : List StackEntry) (b : StackEntry) : ∃ x, l.foldl takeLower (some b) = some x ∧
    x.effective ≤ b.effective ∧ (∀ y ∈ l, x.effective ≤ y.effective) ∧ (x = b ∨ (x ∈ l ∧ x.effective < b.effective)) := by
  induction l generalizing b with
  | nil => exact ⟨b, rfl, Nat.le_refl _, fun _ h => absurd h List.not_mem_nil, .inl rfl⟩
  | cons e l ih =>
    obtain ⟨c, taken, low, lowE, which⟩ : ∃ c, takeLower (some b) e = some c ∧ c.effective ≤ b.effective ∧
        c.effective ≤ e.effective ∧ (c = b ∨ (c = e ∧ c.effective < b.effective)) := by
      by_cases lower : e.effective < b.effective
      · exact ⟨e, if_pos lower, Nat.le_of_lt lower, Nat.le_refl _, .inr ⟨rfl, lower⟩⟩
      · exact ⟨b, if_neg lower, Nat.le_refl _, Nat.not_lt.1 lower, .inl rfl⟩
    obtain ⟨x, found, lowC, least, from_⟩ := ih c
    rw [List.foldl_cons, taken]
    refine ⟨x, found, lowC.trans low, List.forall_mem_cons.2 ⟨lowC.trans lowE, least⟩, ?_⟩
    rcases from_ with rfl | ⟨mem, less⟩
    · exact which.imp id fun ⟨same, less⟩ => ⟨same ▸ List.mem_cons_self, less⟩
    · exact .inr ⟨List.mem_cons_of_mem _ mem, Nat.lt_of_lt_of_le less low⟩

/-- R111: of two entries, the one tried first: the lower one, the older where they are level. -/
def triedBefore (pre post : List StackEntry) (e y : StackEntry) : Prop :=
  (y ∈ pre ∧ y.effective ≤ e.effective) ∨ (y ∈ post ∧ y.effective < e.effective)

/-- R111: the entries tried after one. -/
def triedAfter (pre post : List StackEntry) (e y : StackEntry) : Prop :=
  (y ∈ pre ∧ e.effective < y.effective) ∨ (y ∈ post ∧ e.effective ≤ y.effective)

/-- R111: of entries among which one stands, that one is tried first, or one that is tried before it. -/
theorem takeLower_split (pre post : List StackEntry) (e : StackEntry) :
    ∃ x, (pre ++ e :: post).foldl takeLower none = some x ∧
      ((x = e ∧ ∀ y ∈ pre ++ post, triedAfter pre post e y) ∨ triedBefore pre post e x) := by
  have first : ∃ b, takeLower (pre.foldl takeLower none) e = some b ∧
      ((b = e ∧ ∀ y ∈ pre, e.effective < y.effective) ∨ (b ∈ pre ∧ b.effective ≤ e.effective)) := by
    cases pre with
    | nil => exact ⟨e, rfl, .inl ⟨rfl, fun _ h => absurd h List.not_mem_nil⟩⟩
    | cons z pre =>
      obtain ⟨x, found, low, least, which⟩ := foldl_takeLower pre z
      have there : x ∈ z :: pre := which.elim (fun same => same ▸ List.mem_cons_self) fun h => List.mem_cons_of_mem _ h.1
      rw [List.foldl_cons, show takeLower none z = some z from rfl, found]
      by_cases lower : e.effective < x.effective
      · refine ⟨e, if_pos lower, .inl ⟨rfl, List.forall_mem_cons.2 ⟨Nat.lt_of_lt_of_le lower low, fun y mem =>
          Nat.lt_of_lt_of_le lower (least y mem)⟩⟩⟩
      · exact ⟨x, if_neg lower, .inr ⟨there, Nat.not_lt.1 lower⟩⟩
  obtain ⟨b, taken, which⟩ := first
  obtain ⟨x, found, -, least, from_⟩ := foldl_takeLower post b
  refine ⟨x, by rw [List.foldl_append, List.foldl_cons, taken, found], ?_⟩
  rcases which with ⟨rfl, above⟩ | ⟨mem, low⟩
  · rcases from_ with rfl | ⟨mem, less⟩
    · exact .inl ⟨rfl, fun y there => (List.mem_append.1 there).imp (fun h => ⟨h, above y h⟩) fun h => ⟨h, least y h⟩⟩
    · exact .inr (.inr ⟨mem, less⟩)
  · rcases from_ with rfl | ⟨mem', less⟩
    · exact .inr (.inl ⟨mem, low⟩)
    · exact .inr (.inr ⟨mem', Nat.lt_of_lt_of_le less low⟩)

/-- R111: the entry tried next is an untried one. -/
theorem nextTry_untried {untried : List Nat} {l : List StackEntry} {y : StackEntry} (h : nextTry untried l = some y) :
    y ∈ l ∧ y.route ∈ untried := by
  rw [nextTry_eq] at h
  cases cut : l.filter (fun e => untried.contains e.route) with
  | nil => rw [cut] at h; contradiction
  | cons z rest =>
    obtain ⟨x, found, -, -, which⟩ := foldl_takeLower rest z
    rw [cut, List.foldl_cons, show takeLower none z = some z from rfl, found] at h
    obtain rfl := Option.some.inj h
    have mem : x ∈ l.filter (fun e => untried.contains e.route) :=
      cut ▸ which.elim (fun same => same ▸ List.mem_cons_self) fun h => List.mem_cons_of_mem _ h.1
    simpa using List.mem_filter.1 mem

/-- R111: while an entry is untried it is tried next, or one that is tried before it. -/
theorem nextTry_split {untried : List Nat} {pre post : List StackEntry} {e : StackEntry} (h : e.route ∈ untried) :
    ∃ x, nextTry untried (pre ++ e :: post) = some x ∧
      ((x = e ∧ ∀ y ∈ pre ++ post, y.route ∈ untried → triedAfter pre post e y) ∨ triedBefore pre post e x) := by
  have stays : (pre ++ e :: post).filter (fun e => untried.contains e.route) =
      pre.filter (fun e => untried.contains e.route) ++ e :: post.filter (fun e => untried.contains e.route) := by
    rw [List.filter_append, List.filter_cons_of_pos (by simpa using h)]
  obtain ⟨x, found, which⟩ := takeLower_split (pre.filter (fun e => untried.contains e.route))
    (post.filter (fun e => untried.contains e.route)) e
  refine ⟨x, by rw [nextTry_eq, stays, found], ?_⟩
  rcases which with ⟨same, after⟩ | before
  · refine .inl ⟨same, fun y mem left => ?_⟩
    have kept : y ∈ pre.filter (fun e => untried.contains e.route) ++ post.filter (fun e => untried.contains e.route) := by
      rw [← List.filter_append]
      exact List.mem_filter.2 ⟨mem, by simpa using left⟩
    exact (after y kept).imp (fun h => ⟨(List.mem_filter.1 h.1).1, h.2⟩) fun h => ⟨(List.mem_filter.1 h.1).1, h.2⟩
  · exact .inr (before.imp (fun h => ⟨(List.mem_filter.1 h.1).1, h.2⟩) fun h => ⟨(List.mem_filter.1 h.1).1, h.2⟩)

/-! ### The retry scan (R111, R112) -/

theorem retryLoop_passed {s : State} {n : Nat} {untried : List Nat} {e : StackEntry} (found : nextTry untried s.iu.stack = some e)
    (check : s.routeCheck e.ask = none) : retryLoop (n + 1) untried s =
      retryLoop n (untried.filter fun r => !decide (r = e.route))
        (s.grantEntry e (untried.filter fun r => !decide (r = e.route))) := by
  rw [retryLoop, found]
  dsimp only
  rw [check]

theorem retryLoop_failed {s : State} {n : Nat} {untried : List Nat} {e : StackEntry} (found : nextTry untried s.iu.stack = some e)
    (check : s.routeCheck e.ask ≠ none) : retryLoop (n + 1) untried s =
      retryLoop n (untried.filter fun r => !decide (r = e.route)) s := by
  obtain ⟨c, check⟩ := Option.ne_none_iff_exists'.1 check
  rw [retryLoop, found]
  dsimp only
  rw [check]

/-- R111: a scan in which no untried request passes changes nothing. -/
theorem retryLoop_fruitless {s : State} (n : Nat) {untried : List Nat}
    (h : ∀ y ∈ s.iu.stack, y.route ∈ untried → s.routeCheck y.ask ≠ none) : retryLoop n untried s = s := by
  induction n generalizing untried with
  | zero => rfl
  | succ n ih =>
    cases found : nextTry untried s.iu.stack with
    | none => rw [retryLoop, found]
    | some y =>
      obtain ⟨mem, there⟩ := nextTry_untried found
      rw [retryLoop_failed found (h y mem there)]
      exact ih fun z mem' left => h z mem' (List.mem_filter.1 left).1

/-- R111, R112: a scan grants the first request that passes, and goes on with those tried after it. -/
theorem retryLoop_grants {s : State} {pre post : List StackEntry} {e : StackEntry} (split : s.iu.stack = pre ++ e :: post)
    (once : (s.iu.stack.map StackEntry.route).Nodup) (passes : s.routeCheck e.ask = none)
    (earlier : ∀ y, triedBefore pre post e y → s.routeCheck y.ask ≠ none) (n : Nat) {untried : List Nat}
    (mine : e.route ∈ untried) (fuel : untried.length ≤ n) :
    ∃ m rest, retryLoop n untried s = retryLoop m rest (s.grantEntry e rest) ∧
      (∀ y ∈ pre ++ post, y.route ∈ rest ↔ y.route ∈ untried ∧ triedAfter pre post e y) ∧
      ∀ r ∈ rest, r ∈ untried ∧ r ≠ e.route := by
  induction n generalizing untried with
  | zero => simp [List.length_eq_zero_iff.1 (Nat.le_zero.1 fuel)] at mine
  | succ n ih =>
    obtain ⟨x, found, which⟩ := nextTry_split (pre := pre) (post := post) mine
    rw [← split] at found
    have shorter : (untried.filter fun r => !decide (r = x.route)).length ≤ n := by
      have there : x.route ∈ untried := (nextTry_untried found).2
      have less : (untried.filter fun r => !decide (r = x.route)).length < untried.length :=
        List.length_filter_lt_length_iff_exists.2 ⟨x.route, there, by simp⟩
      omega
    have once' : ((pre ++ e :: post).map StackEntry.route).Nodup := split ▸ once
    have alone : ∀ y ∈ pre ++ e :: post, ∀ z ∈ pre ++ e :: post, y.route = z.route → y = z := fun y hy z hz same =>
      List.inj_on_of_nodup_map once' hy hz same
    have away : e ∉ pre ++ post := by
      have distinct := (List.nodup_middle.1 once'.of_map)
      exact (List.nodup_cons.1 distinct).1
    have apart : ∀ y, triedBefore pre post e y → triedAfter pre post e y → False := by
      have twice := List.disjoint_of_nodup_append (List.nodup_cons.1 (List.nodup_middle.1 once'.of_map)).2
      rintro y (⟨mem, low⟩ | ⟨mem, low⟩) (⟨mem', high⟩ | ⟨mem', high⟩)
      · omega
      · exact twice mem mem'
      · exact twice mem' mem
      · omega
    have among : ∀ y ∈ pre ++ post, y ∈ pre ++ e :: post := fun y mem => by
      simp only [List.mem_append, List.mem_cons] at mem ⊢
      tauto
    have left : ∀ r, r ∈ untried.filter (fun r => !decide (r = x.route)) ↔ r ∈ untried ∧ r ≠ x.route := by simp
    rcases which with ⟨rfl, after⟩ | before
    · refine ⟨n, _, retryLoop_passed found passes, fun y mem => ?_, fun r mem => (left r).1 mem⟩
      rw [left]
      refine ⟨fun ⟨there, _⟩ => ⟨there, after y mem there⟩, fun ⟨there, _⟩ => ⟨there, fun same => ?_⟩⟩
      exact away (alone y (among y mem) x (by simp) same ▸ mem)
    · have sits : x ∈ pre ++ post := List.mem_append.2 (before.imp And.left And.left)
      have other : e.route ≠ x.route := fun same => away (alone e (by simp) x (among x sits) same ▸ sits)
      rw [retryLoop_failed found (earlier x before)]
      obtain ⟨m, rest, scan, mem_rest, fewer⟩ := ih ((left _).2 ⟨mine, other⟩) shorter
      refine ⟨m, rest, scan, fun y mem => ?_, fun r mem => ?_⟩
      · rw [mem_rest y mem, left]
        refine ⟨fun ⟨⟨there, _⟩, after⟩ => ⟨there, after⟩, fun ⟨there, after⟩ => ⟨⟨there, fun same => ?_⟩, after⟩⟩
        obtain rfl := alone y (among y mem) x (among x sits) same
        exact apart y before after
      · exact ⟨((left r).1 (fewer r mem).1).1, (fewer r mem).2⟩

/-- R112: a grant activates the route, takes its entry off the stack and ages the untried entries that are older. -/
theorem grantEntry_eq {s : State} {pre post : List StackEntry} {e : StackEntry} (split : s.iu.stack = pre ++ e :: post)
    (older : ∀ y ∈ pre, y.route ≠ e.route) (untried : List Nat) : s.grantEntry e untried =
      { (s.activateChecked e.ask).1 with
        iu := { (s.activateChecked e.ask).1.iu with stack := ageOlder untried pre ++ post } } := by
  have keep : ∀ y ∈ pre, (!decide (y.route = e.route)) = true := fun y mem => by simp [older y mem]
  unfold State.grantEntry
  rw [split, List.takeWhile_append_of_pos keep, List.dropWhile_append_of_pos keep]
  simp

/-- R111: a scan in which no waiting request passes changes nothing. -/
theorem retryScan_none {s : State} (law : RouteLaw s) (register : RegisterLaw s)
    (h : ∀ y ∈ s.iu.stack, ¬∀ c i, ¬s.failsCheck y.route y.train c i) : s.retryScan = s :=
  retryLoop_fruitless _ fun y mem _ check => h y mem ((routeCheck_none_iff law register y.ask).1 check)

/-- R111, R112: a scan that grants one request. -/
theorem retryScan_one {s : State} (law : RouteLaw s) (register : RegisterLaw s) {pre post : List StackEntry} {e : StackEntry}
    (split : s.iu.stack = pre ++ e :: post) (works : s.working = true)
    (passes : ∀ c i, ¬s.failsCheck e.route e.train c i)
    (earlier : ∀ y, triedBefore pre post e y → ¬∀ c i, ¬s.failsCheck y.route y.train c i)
    (later : ∀ y, triedAfter pre post e y → ¬∀ c i, ¬(s.activateChecked e.ask).1.failsCheck y.route y.train c i) :
    s.retryScan = { (s.activateChecked e.ask).1 with iu := { (s.activateChecked e.ask).1.iu with
      stack := pre.map (fun y => if e.effective < y.effective then { y with effective := y.effective - 1 } else y) ++ post } } := by
  have once : ((pre ++ e :: post).map StackEntry.route).Nodup := split ▸ law.once
  have distinct := List.nodup_cons.1 (List.nodup_middle.1 once.of_map)
  have other : ∀ y ∈ pre, y.route ≠ e.route := fun y mem same => by
    have here : y = e := List.inj_on_of_nodup_map once (List.mem_append_left _ mem) (by simp) same
    exact distinct.1 (here ▸ List.mem_append_left _ mem)
  have check : s.routeCheck e.ask = none := (routeCheck_none_iff law register e.ask).2 passes
  have mode : s.mc.mode ≠ .setup := fun m => by simp [State.working, m] at works
  have rail := activateChecked_rail s e.ask check fun _ => mode
  have mine : e.route ∈ s.iu.stack.map StackEntry.route := List.mem_map_of_mem (by rw [split]; simp)
  obtain ⟨m, rest, scan, left, -⟩ := retryLoop_grants split law.once check
    (fun y before check => earlier y before ((routeCheck_none_iff law register y.ask).1 check)) s.iu.stack.length mine
    (by rw [List.length_map])
  have known : ∀ y ∈ pre ++ post, y.route ∈ s.iu.stack.map StackEntry.route := fun y mem => by
    rw [split]
    refine List.mem_map_of_mem ?_
    simp only [List.mem_append, List.mem_cons] at mem ⊢
    tauto
  have aged : ageOlder rest pre = pre.map fun y =>
      if e.effective < y.effective then { y with effective := y.effective - 1 } else y := by
    refine List.map_congr_left fun y mem => ?_
    have after : triedAfter pre post e y ↔ e.effective < y.effective := by
      refine ⟨fun h => h.elim And.right fun there => ?_, fun h => .inl ⟨mem, h⟩⟩
      exact absurd there.1 (List.disjoint_of_nodup_append distinct.2 mem)
    have which : rest.contains y.route = true ↔ e.effective < y.effective := by
      rw [List.contains_iff_mem, left y (List.mem_append_left _ mem), after]
      exact and_iff_right (known y (List.mem_append_left _ mem))
    by_cases waits : e.effective < y.effective
    · rw [if_pos waits, if_pos (which.2 waits)]
    · rw [if_neg waits, if_neg fun h => waits (which.1 h)]
  have granted := grantEntry_eq split other rest
  rw [aged] at granted
  unfold State.retryScan
  rw [scan, granted]
  refine retryLoop_fruitless m fun y mem left' check => ?_
  have law' := rail.routes law
  have register' := (rail.toWithin.register register).1
  have failing : ∀ z ∈ pre ++ post, z.route ∈ rest → (s.activateChecked e.ask).1.routeCheck z.ask ≠ none :=
    fun z mem left' check => later z ((left z mem).1 left').2 ((routeCheck_none_iff law' register' z.ask).1 check)
  rcases List.mem_append.1 mem with mem | mem
  · obtain ⟨z, older, rfl⟩ := List.mem_map.1 mem
    have same : (if e.effective < z.effective then { z with effective := z.effective - 1 } else z).route = z.route ∧
        (if e.effective < z.effective then { z with effective := z.effective - 1 } else z).ask = z.ask := by
      split <;> exact ⟨rfl, rfl⟩
    exact failing z (List.mem_append_left _ older) (same.1 ▸ left') (same.2 ▸ check)
  · exact failing y (List.mem_append_right _ mem) left' check

/-! ### The scan and what is due (R110) -/

/-- A state with the Speed Supervisor's part and the hand-offs replaced. -/
def State.withDue (s : State) (x : SS) (d : Due) : State := { s with ss := x, due := d }

/-- An operation of the Interlocking Unit that stands aside from the Speed Supervisor and the TC: it neither reads nor writes
the one's part, leaves the other's alone, and of what is due it reads nothing and marks an arbitration at most. -/
def Aside (f : State → State) : Prop := ∀ s x d, ∃ v, f (s.withDue x d) = (f s).withDue x { d with arbitrate := v } ∧
  (f s).tc = s.tc

theorem Aside.id : Aside fun s => s := fun _ _ d => ⟨d.arbitrate, rfl, rfl⟩

theorem Aside.comp {f g : State → State} (h : Aside f) (k : Aside g) : Aside fun s => g (f s) := fun s x d => by
  obtain ⟨v, e, tc⟩ := h s x d
  obtain ⟨v', e', tc'⟩ := k (f s) x { d with arbitrate := v }
  exact ⟨v', (congrArg g e).trans e', tc'.trans tc⟩

theorem Aside.foldl {α : Type} {f : State → α → State} (h : ∀ x, Aside fun s => f s x) (l : List α) :
    Aside fun s => l.foldl f s := by
  induction l with
  | nil => exact .id
  | cons y l ih => exact (h y).comp ih

theorem command_aside (p : Nat) (q : Pos) : Aside fun s => s.command p q := by
  refine fun s x d => ⟨d.arbitrate, ?_, ?_⟩
  · unfold State.command State.withDue State.point State.plan
    dsimp only
    cases s.pm.plan.points.get? p with
    | none => rfl
    | some r =>
      dsimp only
      split
      · rfl
      · cases (Tab.getD {} s.iu.points p).pulse with
        | none => rfl
        | some o =>
          dsimp only
          split <;> rfl
  · obtain ⟨_, frame⟩ := command_frame s p q
    have tc := congrArg State.tc frame
    exact tc

theorem updAssigned_aside (o : Option Nat) (g : Train → Train) : Aside fun s =>
    match o with
    | none => s
    | some k => s.updTrain k g := by
  cases o with
  | none => exact .id
  | some k =>
    refine fun s x d => ⟨d.arbitrate, ?_, (show (s.updTrain k g).tc = s.tc from by rw [updTrain_frame])⟩
    unfold State.updTrain State.withDue State.train?
    dsimp only
    cases s.tr.trains.get? k <;> rfl

theorem clearRoute_aside (k : Nat) : Aside fun s => s.clearRoute k := by
  intro s x d
  show ∃ v, (s.withDue x d).clearRoute k = (s.clearRoute k).withDue x { d with arbitrate := v } ∧ (s.clearRoute k).tc = s.tc
  unfold State.clearRoute
  rw [show (s.withDue x d).route? k = s.route? k from rfl]
  cases s.route? k with
  | none => exact ⟨d.arbitrate, rfl, rfl⟩
  | some r =>
    exact updAssigned_aside r.train (fun t => if t.route.isNone then { t with route := some k } else t)
      ((s.putRoute k { r with state := .cleared }).notice .routeSet r.route) x d

theorem wantArbitrate_aside : Aside State.wantArbitrate := fun _ _ _ => ⟨true, rfl, rfl⟩

theorem lockedFor_aside (d : RouteRec) (k : Nat) (a : RouteAsk) : Aside fun s => s.lockedFor d k a :=
  fun _ _ due => ⟨due.arbitrate, rfl, rfl⟩

theorem activate_aside (d : RouteRec) (k : Nat) (a : RouteAsk) : Aside fun s => s.activate d k a := by
  intro s x due
  have taken : Aside fun u => ((s.toMove d).foldl (fun s y => s.command y.1 y.2) (u.lockedFor d k a)).wantArbitrate :=
    ((lockedFor_aside d k a).comp (Aside.foldl (fun y : Nat × Pos => command_aside y.1 y.2) _)).comp wantArbitrate_aside
  show ∃ v, (s.withDue x due).activate d k a = (s.activate d k a).withDue x { due with arbitrate := v } ∧
    (s.activate d k a).tc = s.tc
  rw [activate_eq (s.withDue x due) d k a rfl, activate_eq s d k a rfl,
    show (s.withDue x due).toMove d = s.toMove d from rfl]
  split
  · exact taken.comp (clearRoute_aside k) s x due
  · exact taken s x due

theorem activateChecked_aside (a : RouteAsk) : Aside fun s => (s.activateChecked a).1 := by
  intro s x d
  show ∃ v, ((s.withDue x d).activateChecked a).1 = ((s.activateChecked a).1).withDue x { d with arbitrate := v } ∧
    (s.activateChecked a).1.tc = s.tc
  unfold State.activateChecked
  rw [show (s.withDue x d).plan = s.plan from rfl, show (s.withDue x d).iu = s.iu from rfl]
  cases s.plan.routes.get? a.route with
  | none => exact ⟨d.arbitrate, rfl, rfl⟩
  | some r =>
    cases lowestFree s.iu.routes 1 Config.routeSlots with
    | none => exact ⟨d.arbitrate, rfl, rfl⟩
    | some k => exact activate_aside r k a s x d

theorem grantEntry_aside (e : StackEntry) (untried : List Nat) : Aside fun s => s.grantEntry e untried := by
  intro s x d
  obtain ⟨v, granted, tc⟩ := activateChecked_aside e.ask s x d
  refine ⟨v, ?_, tc⟩
  show (s.withDue x d).grantEntry e untried = (s.grantEntry e untried).withDue x { d with arbitrate := v }
  unfold State.grantEntry
  dsimp only at granted ⊢
  rw [granted]
  rfl

theorem retryLoop_aside (n : Nat) (untried : List Nat) : Aside fun s => retryLoop n untried s := by
  induction n generalizing untried with
  | zero => exact .id
  | succ n ih =>
    intro s x d
    show ∃ v, retryLoop (n + 1) untried (s.withDue x d) = (retryLoop (n + 1) untried s).withDue x { d with arbitrate := v } ∧
      (retryLoop (n + 1) untried s).tc = s.tc
    have stack : (s.withDue x d).iu.stack = s.iu.stack := rfl
    cases found : nextTry untried s.iu.stack with
    | none =>
      rw [retryLoop, stack, found, retryLoop, found]
      exact Aside.id s x d
    | some e =>
      by_cases check : s.routeCheck e.ask = none
      · rw [retryLoop_passed found check, retryLoop_passed (s := s.withDue x d) found check]
        exact (grantEntry_aside e _).comp (ih _) s x d
      · rw [retryLoop_failed found check, retryLoop_failed (s := s.withDue x d) found check]
        exact ih _ s x d

theorem retryScan_aside : Aside State.retryScan := fun s =>
  retryLoop_aside s.iu.stack.length (s.iu.stack.map StackEntry.route) s

/-! ### RESUME (R110, R157) -/

theorem nodup_eraseDups (l : List Block) : l.eraseDups.Nodup := by
  match l with
  | [] => simp
  | b :: l =>
    rw [List.eraseDups_cons]
    refine List.nodup_cons.2 ⟨fun mem => ?_, nodup_eraseDups _⟩
    simpa using (List.mem_filter.1 (List.mem_eraseDups.1 mem)).2
termination_by l.length
decreasing_by exact Nat.lt_succ_of_le (List.length_filter_le _ _)

/-- R159: every block takes a mode once. -/
theorem fullOrder_nodup (l : List Block) : (fullOrder l).Nodup := by
  refine List.nodup_append'.2 ⟨nodup_eraseDups _, List.Nodup.filter _ (by decide), fun b mem mem' => ?_⟩
  have absent := (List.mem_filter.1 mem').2
  simp [List.mem_eraseDups.1 mem] at absent

/-- R150, R151: neither a visitor nor a demo waits for the AWU, nor a request or burst for the TC. -/
structure State.Waitless (s : State) : Prop where
  visitors : s.awu.queue = []
  demo : s.awu.running = none
  turn : s.turnIdle
  still : s.tc.state ≠ .halted

/-- R159: the part of a block other than the IU at the end of STOP, where nothing waits. -/
theorem modePart_waitless {s : State} (h : s.Waitless) {new : Mode} (which : new = .run ∨ new = .quiet) {b : Block}
    (other : b ≠ .iu) : ∃ x, s.modePart .stop new b = s.withDue x s.due := by
  obtain ⟨visitors, demo, turn, still⟩ := h
  cases b
  case tr => exact ⟨s.ss, rfl⟩
  case iu => contradiction
  case ss =>
    refine ⟨{ s.ss with broadcast := false }, ?_⟩
    rcases which with rfl | rfl <;> rfl
  case tc =>
    have resumes : s.tableResumes = s := by
      unfold State.tableResumes
      split
      · contradiction
      · exact arbitrate_idle s turn
    refine ⟨s.ss, Eq.trans ?_ resumes⟩
    rcases which with rfl | rfl <;> rfl
  case awu =>
    refine ⟨s.ss, ?_⟩
    rcases which with rfl | rfl
    · exact attemptStart_idle s (.inr (.inr visitors))
    · have ends : s.endDemo .stopped = s := by
        unfold State.endDemo
        rw [demo]
      show (s.endDemo .stopped).emptyVisitors = s
      rw [ends, State.emptyVisitors, ← visitors]

theorem State.Waitless.retryScan {s : State} (h : s.Waitless) : s.retryScan.Waitless := by
  obtain ⟨visitors, demo, turn, still⟩ := h
  obtain ⟨-, -, tc⟩ := retryScan_aside s s.ss s.due
  have rail := retryScan_rail s
  refine ⟨rail.awu ▸ visitors, rail.awu ▸ demo, ?_, tc ▸ still⟩
  unfold State.turnIdle State.free State.working at *
  rw [rail.mc, tc]
  exact turn

/-- R110, R159: leaving STOP where nothing waits runs one retry scan, whatever the order of the blocks. -/
theorem modeParts_waitless {new : Mode} (which : new = .run ∨ new = .quiet) {l : List Block} (once : l.Nodup) {s : State}
    (h : s.Waitless) : ∃ x v, l.foldl (State.modePart .stop new) s =
      (if .iu ∈ l then s.retryScan else s).withDue x { s.due with arbitrate := v } := by
  induction l generalizing s with
  | nil => exact ⟨s.ss, s.due.arbitrate, rfl⟩
  | cons b l ih =>
    obtain ⟨away, rest_once⟩ := List.nodup_cons.1 once
    rw [List.foldl_cons]
    by_cases iu : b = .iu
    · subst iu
      obtain ⟨x, v, rest⟩ := ih rest_once h.retryScan
      obtain ⟨v', scanned, -⟩ := retryScan_aside s s.ss s.due
      have due : s.retryScan.due = { s.due with arbitrate := v' } := congrArg State.due scanned
      rw [if_neg away, due] at rest
      rw [if_pos List.mem_cons_self]
      exact ⟨x, v, rest⟩
    · obtain ⟨x, part⟩ := modePart_waitless h which iu
      obtain ⟨visitors, demo, turn, still⟩ := h
      obtain ⟨x', v, rest⟩ := ih rest_once (s := s.withDue x s.due) ⟨visitors, demo, turn, still⟩
      obtain ⟨v', scanned, -⟩ := retryScan_aside s x s.due
      rw [part, rest]
      refine ⟨x', v, ?_⟩
      have mem : Block.iu ∈ b :: l ↔ Block.iu ∈ l := by simp [Ne.symm iu]
      simp only [mem]
      split
      · rw [scanned]
        rfl
      · rfl

/-- R110, R157: a RESUME where nothing waits runs one retry scan. -/
theorem resume_scans (f : Frame) (s : State) (new : Mode) (subject : Nat) (k : s.listening) (h : Carries f 0x23 0 [])
    (stop : s.mc.mode = .stop) (good : s.fs.chain ≠ .fault) (remembered : s.mc.remembered = some new)
    (which : (new = .run ∧ subject = 1) ∨ (new = .quiet ∧ subject = 2)) (settled : s.due.settled = true)
    (visitors : s.awu.queue = []) (demo : s.awu.running = none) (queue : s.tc.queue = []) (burst : s.tc.burst = none)
    (stopEnd : s.tc.stopEnd = false) (still : s.tc.state ≠ .halted) :
    ∃ w, exec (.resume f) s = .next (w.answeredWith f 0x23 (.done [])) ∧
      FollowUp (State.retryScan { s.openFrame f with
        mc := { s.mc with mode := new, remembered := none }, clp := s.clp.record .modeChanged subject 0 }) w := by
  have own : ownResume (s.openFrame f) 0 () = ((s.openFrame f).changeMode new none, .done []) := by
    simp [ownResume, stop, good, remembered]
  refine ⟨_, congrArg Host.Outcome.next (takeRequest_done h k decodeAll_noParams own), ?_⟩
  generalize base : ({ s.openFrame f with
    mc := { s.mc with mode := new, remembered := none }, clp := s.clp.record .modeChanged subject 0 } : State) = u
  have idle : u.turnIdle := by
    rw [← base]
    exact .inr ⟨queue, burst, stopEnd⟩
  have waitless : u.Waitless := ⟨by rw [← base]; exact visitors, by rw [← base]; exact demo, idle, by rw [← base]; exact still⟩
  have changes : (s.openFrame f).changeMode new none = (fullOrder f.order).foldl (State.modePart .stop new) u := by
    have mode : (s.openFrame f).mc = s.mc := rfl
    rcases which with ⟨rfl, rfl⟩ | ⟨rfl, rfl⟩ <;> rw [← base, State.changeMode, mode, stop] <;> rfl
  obtain ⟨x, v, scans⟩ := modeParts_waitless (which.imp And.left And.left) (fullOrder_nodup f.order) waitless
  rw [if_pos (mem_fullOrder _ _)] at scans
  rw [changes, scans]
  have due : u.due = s.due := by rw [← base]; rfl
  obtain ⟨scan, attempt, ends, -⟩ := settled_due settled
  obtain ⟨visitors', demo', turn', -⟩ := waitless.retryScan
  refine FollowUp.trans (t := u.retryScan.withDue x { u.due with arbitrate := v })
    (FollowUp.of_fields rfl rfl rfl rfl rfl rfl rfl rfl rfl rfl rfl rfl) (State.Settled.finish ?_ _)
  rw [due]
  exact ⟨by simp [State.withDue, ends], fun h => absurd ends h, fun h => absurd h (by simp [State.withDue, scan]),
    fun _ => .inr (.inr visitors'), .inl turn'⟩

/-- Settles O41: a SET ROUTE that passes is activated, a scan grants the first request that passes, and RESUME runs one. -/
theorem setRouteActivates : Obligations.SetRouteActivates := by
  refine ⟨?_, fun s passes law register same => ⟨fun none => ?_, ?_⟩, ?_⟩
  · intro f st s rh rl th tl level stack train slotOfTrain d moving law register wm wp still works k flagged h asks low high
      within passes rec once onceP assigned count
    obtain ⟨slot, marks, points, w, executed, place, marked, others, taken, follows, driven⟩ :=
      setRoute_activates f st s rh rl th tl level stack train slotOfTrain d moving law register wm wp still works k flagged h
        asks low high within passes rec once onceP assigned count
    exact ⟨slot, marks, points, w, executed, place, marked, others, fun p q mem => (taken p q mem).trans (taken_eq _ p q _),
      follows, driven⟩
  · exact retryScan_none law register fun y mem => (same s y).not.1 (none y mem)
  · intro pre e post granted split works low high within passed earlier equal grant later laterPost aged agedEq
    subst agedEq
    have check : s.routeCheck e.ask = none := (routeCheck_none_iff law register e.ask).2 ((same s e).1 passed)
    have asked := askRoute_checked (s := s) (a := e.ask) works low high within
    rw [check] at asked
    obtain rfl : granted = (s.activateChecked e.ask).1 := grant.trans (congrArg Prod.fst asked)
    refine retryScan_one law register split works ((same s e).1 passed) (fun y before => ?_) fun y after => ?_
    · exact (same s y).not.1 (before.elim (fun h => earlier y h.1 h.2) fun h => equal y h.1 h.2)
    · exact (same _ y).not.1 (after.elim (fun h => later y h.1 h.2) fun h => laterPost y h.1 h.2)
  · intro f s new subject k h _ stop good remembered which settled visitors demo queue burst stopEnd still
    exact resume_scans f s new subject k h stop good remembered which settled visitors demo queue burst stopEnd still

end Sys2Proof.Machine
end

section
/-! PROOFS. The end of a pulse, a throw that fails, a detection report, and a section that becomes occupied (R78 to R81, R86,
R87). -/
namespace Sys2Proof.Machine

/-! ### The route that waits on a throw (R85 to R87) -/

/-- R86: the route in a slot is SETTING and waits on throws, among whose points is one. -/
def State.waitsOn (s : State) (k p : Nat) : Prop :=
  ∃ r d q, s.route? k = some r ∧ s.routeRec r = some d ∧ r.state = .setting ∧ r.moving ≠ 0 ∧ (p, q) ∈ d.points ++ d.flanks

theorem waitingOn_waits {s : State} (w : s.iu.routes.Wf) {p k : Nat} (h : s.waitingOn p = some k) : s.waitsOn k p := by
  obtain ⟨⟨k', r⟩, found, rfl⟩ := Option.map_eq_some_iff.1 h
  have route := get?_of_mem _ _ _ (List.mem_of_find?_eq_some found) w
  have here := List.find?_some found
  simp only [Bool.and_eq_true, decide_eq_true_eq] at here
  obtain ⟨⟨setting, moving⟩, named⟩ := here
  cases rec : s.routeRec r with
  | none => simp [rec] at named
  | some d =>
    simp only [rec, List.any_eq_true, decide_eq_true_eq] at named
    obtain ⟨⟨p', q⟩, mem, rfl⟩ := named
    exact ⟨r, d, q, route, rec, setting, moving, mem⟩

theorem waitingOn_ne_none {s : State} {p k : Nat} (h : s.waitsOn k p) : s.waitingOn p ≠ none := by
  obtain ⟨r, d, q, route, rec, setting, moving, mem⟩ := h
  intro none
  have absent := List.find?_eq_none.1 (Option.map_eq_none_iff.1 none) (k, r) (rowsGet_mem _ _ _ route)
  simp only [setting, moving, rec, ne_eq, not_false_eq_true, and_self, decide_true, Bool.true_and, List.any_eq_true,
    decide_eq_true_eq] at absent
  exact absent ⟨(p, q), mem, rfl⟩

theorem waitingOn_none {s : State} (w : s.iu.routes.Wf) {p : Nat} (h : ∀ k, ¬s.waitsOn k p) : s.waitingOn p = none := by
  by_contra some
  obtain ⟨k, found⟩ := Option.ne_none_iff_exists'.1 some
  exact h k (waitingOn_waits w found)

theorem waitingOn_some {s : State} (w : s.iu.routes.Wf) {p k : Nat} (h : s.waitsOn k p) (alone : ∀ j, s.waitsOn j p → j = k) :
    s.waitingOn p = some k := by
  obtain ⟨j, found⟩ := Option.ne_none_iff_exists'.1 (waitingOn_ne_none h)
  rw [found, alone j (waitingOn_waits w found)]

/-! ### A throw that is abandoned (R78, R80) -/

/-- R80: a point whose throw is abandoned. -/
def Point.abandoned (x : Point) : Point := { x with state := .failed, fault := true, throw := none, pulse := none }

/-- R80: the throw of a point abandoned, with its notice. -/
def State.abandon (s : State) (p : Nat) : State :=
  ((s.endPulse p).putPoint p { (s.endPulse p).point p with state := .failed, fault := true, throw := none }).notice .pointFailed p

theorem failThrow_eq (s : State) (p : Nat) : s.failThrow p =
    match s.waitingOn p with
    | none => s.abandon p
    | some k => (s.abandon p).retireRoute k .routeFailed reasonPoint := rfl

/-- R78: the end of a pulse: the point without its pulse, and its drive output at 0. -/
structure PulseEnds (s : State) (p : Nat) (t : State) : Prop where
  frame : ∃ image, t = { s with iu := { s.iu with points := t.iu.points }, fs := { s.fs with image := image } }
  wf : t.iu.points.Wf
  points : ∀ j, t.point j = if j = p then { s.point p with pulse := none } else s.point j
  form : s.fs.image.Wf → t.fs.image.Wf
  dark : ∀ b, s.fs.image.Wf → s.out b = false → t.out b = false
  drive : ∀ r q n, s.fs.image.Wf → s.plan.points.get? p = some r → (s.point p).pulse = some (q, n) →
    t.out (r.drive q) = false

theorem endPulse_of_none {s : State} {p : Nat} (h : (s.point p).pulse = none) : s.endPulse p = s := by
  simp [State.endPulse, h]

theorem endPulse_of_some {s : State} {p n : Nat} {q : Pos} (h : (s.point p).pulse = some (q, n)) : s.endPulse p =
    match s.plan.points.get? p with
    | none => s.putPoint p { s.point p with pulse := none }
    | some r => (s.putPoint p { s.point p with pulse := none }).setOut (r.drive q) false := by
  unfold State.endPulse
  simp only [h]
  rfl

theorem endPulse_ends {s : State} (w : s.iu.points.Wf) (p : Nat) : PulseEnds s p (s.endPulse p) := by
  cases pulse : (s.point p).pulse with
  | none =>
    rw [endPulse_of_none pulse]
    refine ⟨⟨s.fs.image, rfl⟩, w, fun j => ?_, id, fun _ _ => id, fun _ _ _ _ _ none => by rw [pulse] at none; contradiction⟩
    split
    next same => rw [same, ← pulse]
    next => rfl
  | some x =>
    obtain ⟨q, n⟩ := x
    rw [endPulse_of_some pulse]
    have wf : (s.putPoint p { s.point p with pulse := none }).iu.points.Wf := putD_wf _ _ _ _ w
    have points := fun j => putPoint_point w p j { s.point p with pulse := none }
    cases rec : s.plan.points.get? p with
    | none => exact ⟨⟨s.fs.image, rfl⟩, wf, points, id, fun _ _ => id, fun _ _ _ _ known => by rw [rec] at known; contradiction⟩
    | some r =>
      refine ⟨⟨_, rfl⟩, wf, points, fun form => setOut_image_wf _ _ _ form, fun b form off => ?_,
        fun r' q' n' form rec' pulse' => ?_⟩
      · rw [setOut_out _ _ _ _ (show (s.putPoint p { s.point p with pulse := none }).fs.image.Wf from form)]
        split
        · rfl
        · exact off
      · rw [rec] at rec'
        rw [pulse] at pulse'
        cases rec'
        cases pulse'
        rw [setOut_out _ _ _ _ (show (s.putPoint p { s.point p with pulse := none }).fs.image.Wf from form), if_pos rfl]

/-- R80: what an abandoned throw leaves. -/
structure Abandons (s : State) (p : Nat) (t : State) : Prop where
  frame : ∃ image, t = { s with
    iu := { s.iu with points := t.iu.points }, fs := { s.fs with image := image }, clp := s.clp.record .pointFailed p 0 }
  wf : t.iu.points.Wf
  points : ∀ j, t.point j = if j = p then (s.point p).abandoned else s.point j
  form : s.fs.image.Wf → t.fs.image.Wf
  dark : ∀ b, s.fs.image.Wf → s.out b = false → t.out b = false
  drive : ∀ r q n, s.fs.image.Wf → s.plan.points.get? p = some r → (s.point p).pulse = some (q, n) →
    t.out (r.drive q) = false

theorem abandon_abandons {s : State} (w : s.iu.points.Wf) (p : Nat) : Abandons s p (s.abandon p) := by
  obtain ⟨⟨image, frame⟩, wf, points, form, dark, drive⟩ := endPulse_ends w p
  refine ⟨⟨image, ?_⟩, putD_wf _ _ _ _ wf, fun j => ?_, form, dark, drive⟩
  · rw [State.abandon, frame]
    rfl
  · refine (putPoint_point wf p j _).trans ?_
    rw [points, points, if_pos rfl]
    split
    next => rfl
    next => rfl

/-! ### A route that leaves the table with all its sections RESERVED (R100) -/

theorem stillLocked_reserved {d : RouteRec} {r : ActiveRoute} (h : ∀ m ∈ r.marks, m = .reserved) (pl : Plan) :
    stillLocked pl d r = (d.points ++ d.flanks).map Prod.fst := by
  have none : releasedSections d r = [] := by
    rw [releasedSections, List.map_eq_nil_iff, List.filter_eq_nil_iff]
    rintro ⟨x, m⟩ mem
    simp [h m (List.of_mem_zip mem).2]
  rw [stillLocked, none, List.map_append, List.filter_eq_self.2]
  intro x _
  split <;> rfl

theorem givesUp_of_reserved {s : State} (wm : s.iu.marks.Wf) (wp : s.iu.points.Wf) {k : Nat} {r : ActiveRoute} {d : RouteRec}
    (rec : s.routeRec r = some d) (reserved : ∀ m ∈ r.marks, m = .reserved)
    (once : ((d.points ++ d.flanks).map Prod.fst).Nodup) :
    s.GivesUp k d (s.marksWithout k) (unlockAll s.iu.points (s.lockedBy r)) := by
  have locked : s.lockedBy r = (d.points ++ d.flanks).map Prod.fst := by
    rw [State.lockedBy, rec]
    exact stillLocked_reserved reserved _
  rw [locked]
  exact ⟨getD_marksWithout wm k, fun p => getD_unlockAll wp once p⟩

theorem State.GivesUp.of_lookups {s t : State} {k : Nat} {d : RouteRec} {marks : Tab Mark} {points : Tab Point}
    (h : s.GivesUp k d marks points) (mark : ∀ x, t.mark x = s.mark x) (point : ∀ p, t.point p = s.point p) :
    t.GivesUp k d marks points := by
  obtain ⟨marked, unlocked⟩ := h
  exact ⟨fun x => by rw [marked, mark], fun p => by rw [unlocked, point]⟩

/-! ### Detection reports (R79, R81, R86) -/

/-- R79: the state a point takes by its state, its fault flag and what its pair shows; its own where it does not move. -/
def Point.shows (x : Point) (shown : Option Pos) : PointState :=
  match x.state, shown with
  | .normal, some .reverse | .undetected, some .reverse | .movingR, some .reverse => .reverse
  | .reverse, some .normal | .undetected, some .normal | .movingN, some .normal => .normal
  | .normal, none | .reverse, none => .undetected
  | .failed, some .normal => if x.fault = true then .failed else .normal
  | .failed, some .reverse => if x.fault = true then .failed else .reverse
  | y, _ => y

theorem pointMove_eq (x : Point) (shown : Option Pos) :
    pointMove x shown = if x.shows shown = x.state then none else some (x.shows shown) := by
  unfold pointMove Point.shows
  cases x.state <;> rcases shown with _ | _ | _ <;> try rfl
  all_goals cases x.fault <;> rfl

theorem detection_eq {s : State} {p : Nat} {r : PointRec} (rec : s.plan.points.get? p = some r) : s.detection p =
    match pointMove (s.point p) (s.detected r) with
    | none =>
      if (s.point p).state = .failed ∧ (s.point p).fault = false ∧ s.detected r = none then
        (s.putPoint p { s.point p with fault := true }).notice .pointFailed p
      else s
    | some after =>
      let s' := s.putPoint p { s.point p with state := after, throw := none }
      let s' := if loses (s.point p) after then s'.notice .pointLost p else s'
      let s' := if (s.point p).state.inFlight then s'.throwEnded p else s'
      if after = .normal ∨ after = .reverse then s'.wantScan else s' := by
  unfold State.detection
  rw [rec] <;> rfl

/-- R81: the notices once a point has taken another state. -/
def State.lostAt (s : State) (p : Nat) (x : Point) : CLP :=
  match x.demand with
  | none => s.clp
  | some q => if 0 < x.locks ∧ x.state = q.settled then s.clp.record .pointLost p 0 else s.clp

theorem loses_eq {s : State} {p : Nat} {x : Point} {after : PointState} (moves : after ≠ x.state) (y : Point) :
    (if loses x after then (s.putPoint p y).notice .pointLost p else s.putPoint p y) =
      { s.putPoint p y with clp := s.lostAt p x } := by
  unfold loses State.lostAt
  cases x.demand with
  | none => rfl
  | some q =>
    by_cases left : 0 < x.locks ∧ x.state = q.settled
    · have away : after ≠ q.settled := left.2 ▸ moves
      simp only [left, away, ne_eq, not_false_eq_true, and_self, decide_true, if_true]
      rfl
    · have kept : ¬(0 < x.locks ∧ x.state = q.settled ∧ after ≠ q.settled) := fun h => left ⟨h.1, h.2.1⟩
      simp only [decide_eq_true_eq, if_neg kept, if_neg left]
      rfl

/-- R79, R81: a report that moves a point on whose throw no route waits. -/
theorem detection_moves {s : State} {p : Nat} {r : PointRec} (rec : s.plan.points.get? p = some r) {after : PointState}
    (shows : (s.point p).shows (s.detected r) = after) (moves : after ≠ (s.point p).state) : s.detection p =
    (if after = .normal ∨ after = .reverse then State.wantScan else id)
      (if (s.point p).state.inFlight then
        State.throwEnded { s.putPoint p { s.point p with state := after, throw := none } with clp := s.lostAt p (s.point p) } p
      else { s.putPoint p { s.point p with state := after, throw := none } with clp := s.lostAt p (s.point p) }) := by
  rw [detection_eq rec, pointMove_eq, shows, if_neg moves]
  dsimp only
  rw [loses_eq moves]
  by_cases settles : after = .normal ∨ after = .reverse
  · rw [if_pos settles, if_pos settles]
  · rw [if_neg settles, if_neg settles]
    rfl

theorem throwEnded_of_none {s : State} {p : Nat} (h : s.waitingOn p = none) : s.throwEnded p = s := by
  unfold State.throwEnded
  rw [h]

theorem throwEnded_of_some {s : State} {p k : Nat} {y : ActiveRoute} (h : s.waitingOn p = some k) (route : s.route? k = some y) :
    s.throwEnded p = if y.moving - 1 = 0 then (s.putRoute k { y with moving := y.moving - 1 }).clearRoute k
      else s.putRoute k { y with moving := y.moving - 1 } := by
  unfold State.throwEnded
  rw [h]
  dsimp only
  rw [route]

theorem lostAt_of_moving (s : State) (p : Nat) {x : Point} (moves : x.state.inFlight = true) : s.lostAt p x = s.clp := by
  unfold State.lostAt
  cases x.demand with
  | none => rfl
  | some q =>
    refine if_neg fun h => ?_
    rw [h.2, settled_not_inFlight] at moves
    contradiction

theorem shows_of_moving {x : Point} {shown : Option Pos} (moves : x.state.inFlight = true) (moved : x.shows shown ≠ x.state) :
    x.shows shown = .normal ∨ x.shows shown = .reverse := by
  rcases (inFlight_iff _).1 moves with e | e
  all_goals
    unfold Point.shows at moved ⊢
    rw [e] at moved ⊢
    rcases shown with _ | _ | _ <;> simp at moved ⊢

/-- R79, R81: a report that moves a point whose end of a throw no route waits for. -/
theorem detection_settles {s : State} {p : Nat} {r : PointRec} (rec : s.plan.points.get? p = some r) {after : PointState}
    (shows : (s.point p).shows (s.detected r) = after) (moves : after ≠ (s.point p).state) (w : s.iu.routes.Wf)
    (alone : (s.point p).state.inFlight = true → ∀ k, ¬s.waitsOn k p) : s.detection p =
    { s.putPoint p { s.point p with state := after, throw := none } with
      clp := s.lostAt p (s.point p),
      due := if after = .normal ∨ after = .reverse then { s.due with scan := true } else s.due } := by
  rw [detection_moves rec shows moves]
  have ended : (if (s.point p).state.inFlight then
      State.throwEnded { s.putPoint p { s.point p with state := after, throw := none } with clp := s.lostAt p (s.point p) } p
      else { s.putPoint p { s.point p with state := after, throw := none } with clp := s.lostAt p (s.point p) }) =
      { s.putPoint p { s.point p with state := after, throw := none } with clp := s.lostAt p (s.point p) } := by
    split
    next flies => exact throwEnded_of_none (waitingOn_none w (alone flies))
    next => rfl
  rw [ended]
  split <;> rfl

/-- R79, R86: a report that ends a throw that one route waits for. -/
theorem detection_ends {s : State} {p k : Nat} {r : PointRec} {y : ActiveRoute} (rec : s.plan.points.get? p = some r)
    {after : PointState} (shows : (s.point p).shows (s.detected r) = after) (moves : after ≠ (s.point p).state)
    (flies : (s.point p).state.inFlight = true) (waits : s.waitingOn p = some k) (route : s.route? k = some y) : s.detection p =
    (if y.moving - 1 = 0 then
      State.clearRoute ({ s.putPoint p { s.point p with state := after, throw := none } with clp := s.clp }.putRoute k
        { y with moving := y.moving - 1 }) k
    else { s.putPoint p { s.point p with state := after, throw := none } with clp := s.clp }.putRoute k
      { y with moving := y.moving - 1 }).wantScan := by
  have settles : after = .normal ∨ after = .reverse := shows ▸ shows_of_moving flies (shows ▸ moves)
  rw [detection_moves rec shows moves, if_pos settles, if_pos flies, lostAt_of_moving s p flies]
  exact congrArg State.wantScan (throwEnded_of_some waits route)

/-! ### Throws abandoned one after another (R80) -/

/-- R167: POINT_FAILED of a point stands in the notice table, or a notice was lost. -/
def CLP.tellsFailed (c : CLP) (p : Nat) : Prop := noticed c.notices .pointFailed p = true ∨ c.noticeLost = true

theorem noticed_map_raise (c : Cause) (n d : Nat) (l : List Notice) (c' : Cause) (n' : Nat) :
    noticed (l.map (raiseNotice c n d)) c' n' = noticed l c' n' := by
  unfold noticed
  rw [List.any_map]
  refine congrArg l.any (funext fun x => ?_)
  obtain ⟨cause, subject⟩ := raiseNotice_same c n d x
  rw [Function.comp, cause, subject]

theorem record_tellsFailed (c : CLP) (p n : Nat) (h : c.tellsFailed p ∨ p = n) : (c.record .pointFailed n 0).tellsFailed p := by
  unfold CLP.record CLP.tellsFailed at *
  split
  next there =>
    rw [noticed_map_raise]
    exact h.elim id fun same => .inl (same ▸ there)
  next =>
    split
    next =>
      rcases h with (there | lost) | same
      · exact .inl (by unfold noticed at *; rw [List.any_append, there, Bool.true_or])
      · exact .inr lost
      · exact .inl (by simp [noticed, same])
    next => split <;> exact .inr rfl

/-- R80: what throws abandoned one after another leave, those of the points that `gone` holds of. -/
structure AbandonsAll (s : State) (gone : Nat → Prop) (t : State) : Prop where
  frame : ∃ image clp, t = { s with
    iu := { s.iu with points := t.iu.points }, fs := { s.fs with image := image }, clp := clp }
  wf : t.iu.points.Wf
  taken : ∀ j, gone j → t.point j = (s.point j).abandoned
  kept : ∀ j, ¬gone j → t.point j = s.point j
  told : ∀ j, gone j ∨ s.clp.tellsFailed j → t.clp.tellsFailed j
  form : s.fs.image.Wf → t.fs.image.Wf
  dark : ∀ b, s.fs.image.Wf → s.out b = false → t.out b = false
  drive : ∀ j r q n, gone j → s.fs.image.Wf → s.plan.points.get? j = some r → (s.point j).pulse = some (q, n) →
    t.out (r.drive q) = false

theorem AbandonsAll.refl {s : State} (w : s.iu.points.Wf) : AbandonsAll s (fun _ => False) s :=
  ⟨⟨s.fs.image, s.clp, rfl⟩, w, fun _ => False.elim, fun _ _ => rfl, fun _ h => h.resolve_left not_false, id, fun _ _ => id,
    fun _ _ _ _ => False.elim⟩

theorem AbandonsAll.congr {s t : State} {gone gone' : Nat → Prop} (h : AbandonsAll s gone t) (same : ∀ j, gone' j ↔ gone j) :
    AbandonsAll s gone' t := by
  obtain rfl : gone' = gone := funext fun j => propext (same j)
  exact h

theorem AbandonsAll.trans {s t u : State} {gone gone' : Nat → Prop} (h : AbandonsAll s gone t) (k : AbandonsAll t gone' u)
    (apart : ∀ j, gone' j → ¬gone j) : AbandonsAll s (fun j => gone j ∨ gone' j) u := by
  obtain ⟨image, clp, frame⟩ := h.frame
  obtain ⟨image', clp', frame'⟩ := k.frame
  have plan : t.plan = s.plan := by rw [frame]; rfl
  refine ⟨⟨image', clp', by rw [frame', frame]⟩, k.wf, fun j there => ?_, fun j away => ?_, fun j there => k.told j ?_,
    fun w => k.form (h.form w), fun b w off => k.dark b (h.form w) (h.dark b w off), fun j r q n there w rec pulse => ?_⟩
  · by_cases later : gone' j
    · rw [k.taken j later, h.kept j (apart j later)]
    · rw [k.kept j later, h.taken j (there.resolve_right later)]
  · obtain ⟨away, later⟩ := not_or.1 away
    rw [k.kept j later, h.kept j away]
  · exact there.elim (fun there => there.elim (fun first => .inr (h.told j (.inl first))) .inl)
      fun told => .inr (h.told j (.inr told))
  · by_cases later : gone' j
    · exact k.drive j r q n later (h.form w) (plan ▸ rec) (by rw [h.kept j (apart j later)]; exact pulse)
    · exact k.dark _ (h.form w) (h.drive j r q n (there.resolve_right later) w rec pulse)

theorem Abandons.all {s t : State} {p : Nat} (h : Abandons s p t) : AbandonsAll s (fun j => j = p) t := by
  obtain ⟨image, frame⟩ := h.frame
  refine ⟨⟨image, _, frame⟩, h.wf, fun j same => ?_, fun j other => ?_, fun j told => ?_, h.form, h.dark, ?_⟩
  · rw [h.points, if_pos same, same]
  · rw [h.points, if_neg other]
  · rw [frame]
    exact record_tellsFailed _ _ _ told.symm
  · rintro j r q n rfl
    exact h.drive r q n

/-- R80: the points of a list whose throws are abandoned. -/
def State.abandonList (s : State) (l : List (Nat × PointRec)) : State :=
  l.foldl (fun s r => if (s.point r.1).state.inFlight then s.failThrow r.1 else s) s

theorem abandonList_still {s : State} {l : List (Nat × PointRec)} (h : ∀ r ∈ l, (s.point r.1).state.inFlight = false) :
    s.abandonList l = s := by
  induction l with
  | nil => rfl
  | cons r l ih =>
    have still : ¬(s.point r.1).state.inFlight = true := Bool.eq_false_iff.1 (h r List.mem_cons_self)
    rw [State.abandonList, List.foldl_cons, if_neg still]
    exact ih fun x mem => h x (List.mem_cons_of_mem _ mem)

/-- R80: throws that no route waits for, abandoned one after another. -/
theorem abandonList_all {l : List (Nat × PointRec)} {s : State} (w : s.iu.points.Wf) (wr : s.iu.routes.Wf)
    (once : (l.map Prod.fst).Nodup)
    (alone : ∀ r ∈ l, (s.point r.1).state.inFlight = true → ∀ k, ¬s.waitsOn k r.1) :
    AbandonsAll s (fun j => j ∈ l.map Prod.fst ∧ (s.point j).state.inFlight = true) (s.abandonList l) := by
  induction l generalizing s with
  | nil => exact (AbandonsAll.refl w).congr fun j => by simp
  | cons r l ih =>
    obtain ⟨away, once⟩ := List.nodup_cons.1 once
    rw [State.abandonList, List.foldl_cons]
    by_cases flies : (s.point r.1).state.inFlight = true
    · have first := (abandon_abandons w r.1).all
      obtain ⟨image, clp, frame⟩ := first.frame
      rw [if_pos flies, failThrow_eq, waitingOn_none wr (alone r List.mem_cons_self flies)]
      dsimp only
      have later : ∀ j, j ∈ l.map Prod.fst → (s.abandon r.1).point j = s.point j := fun j mem =>
        first.kept j fun same => away (same ▸ mem)
      have waits : ∀ k j, (s.abandon r.1).waitsOn k j → s.waitsOn k j := fun k j h => by rw [frame] at h; exact h
      have rest := ih first.wf (by rw [frame]; exact wr) once fun x mem flies' k waits' =>
        alone x (List.mem_cons_of_mem _ mem) (by rw [← later x.1 (List.mem_map_of_mem mem)]; exact flies') k (waits k x.1 waits')
      refine (first.trans rest fun j there same => away (same ▸ there.1)).congr fun j => ?_
      constructor
      · rintro ⟨mem, moves⟩
        rcases List.mem_cons.1 mem with rfl | mem
        · exact .inl rfl
        · exact .inr ⟨mem, by rw [later j mem]; exact moves⟩
      · rintro (rfl | ⟨mem, moves⟩)
        · exact ⟨List.mem_cons_self, flies⟩
        · exact ⟨List.mem_cons_of_mem _ mem, by rw [← later j mem]; exact moves⟩
    · rw [if_neg flies]
      refine (ih w wr once fun x mem => alone x (List.mem_cons_of_mem _ mem)).congr fun j => ?_
      constructor
      · rintro ⟨mem, moves⟩
        rcases List.mem_cons.1 mem with rfl | mem
        · exact absurd moves flies
        · exact ⟨mem, moves⟩
      · exact fun ⟨mem, moves⟩ => ⟨List.mem_cons_of_mem _ mem, moves⟩

/-- R80: where one point of a list moves, its throw alone is abandoned. -/
theorem abandonList_one {l : List (Nat × PointRec)} {s : State} (once : (l.map Prod.fst).Nodup) {p : Nat}
    (mem : p ∈ l.map Prod.fst) (flies : (s.point p).state.inFlight = true)
    (alone : ∀ r ∈ l, r.1 ≠ p → (s.point r.1).state.inFlight = false)
    (still : ∀ r ∈ l, r.1 ≠ p → ((s.failThrow p).point r.1).state.inFlight = false) : s.abandonList l = s.failThrow p := by
  obtain ⟨r, row, rfl⟩ := List.mem_map.1 mem
  obtain ⟨before, after, split⟩ := List.append_of_mem row
  subst split
  have other : ∀ x ∈ before ++ after, x.1 ≠ r.1 := fun x there same => by
    rw [List.map_append, List.map_cons, List.nodup_middle, ← List.map_append] at once
    exact (List.nodup_cons.1 once).1 (same ▸ List.mem_map_of_mem there)
  have all : ∀ x ∈ before ++ after, x ∈ before ++ r :: after := fun x there => by
    simp only [List.mem_append, List.mem_cons] at there ⊢
    tauto
  have first : s.abandonList before = s := abandonList_still fun x there =>
    alone x (all x (List.mem_append_left _ there)) (other x (List.mem_append_left _ there))
  have rest : (s.failThrow r.1).abandonList after = s.failThrow r.1 := abandonList_still fun x there =>
    still x (all x (List.mem_append_right _ there)) (other x (List.mem_append_right _ there))
  unfold State.abandonList at first rest ⊢
  rw [List.foldl_append, List.foldl_cons, first, if_pos flies, rest]

/-- R80: the points of a section, in the order in which their throws are abandoned. -/
def State.pointsIn (s : State) (sec : Nat) : List (Nat × PointRec) :=
  s.plan.points.rows.filter (fun r => decide (r.2.sect = sec))

theorem pointsIn_once {s : State} (w : s.plan.points.Wf) (sec : Nat) : ((s.pointsIn sec).map Prod.fst).Nodup :=
  (w.imp Nat.ne_of_lt).sublist (List.filter_sublist.map _)

theorem mem_pointsIn {s : State} (w : s.plan.points.Wf) {sec p : Nat} :
    p ∈ (s.pointsIn sec).map Prod.fst ↔ ∃ r, s.plan.points.get? p = some r ∧ r.sect = sec := by
  simp only [State.pointsIn, List.mem_map, List.mem_filter, decide_eq_true_eq]
  constructor
  · rintro ⟨⟨p', r⟩, ⟨row, there⟩, rfl⟩
    exact ⟨r, get?_of_mem _ _ _ row w, there⟩
  · rintro ⟨r, rec, there⟩
    exact ⟨(p, r), ⟨rowsGet_mem _ _ _ rec, there⟩, rfl⟩

/-! ### A failed throw and the route that waits for it (R80, R87) -/

/-- R80, R87: a throw that fails with a route waiting for it, all of whose sections are RESERVED. -/
theorem failThrow_retires {s : State} (wp : s.iu.points.Wf) (wm : s.iu.marks.Wf) {p k : Nat} {r : ActiveRoute} {d : RouteRec}
    (waits : s.waitingOn p = some k) (route : s.route? k = some r) (rec : s.routeRec r = some d)
    (reserved : ∀ m ∈ r.marks, m = .reserved) (once : ((d.points ++ d.flanks).map Prod.fst).Nodup) :
    ∃ marks points due, (s.abandon p).GivesUp k d marks points ∧ due.scan = true ∧ due.turnEnds = s.due.turnEnds ∧
      s.failThrow p = { (s.abandon p).withoutRoute k marks points .routeFailed r.route 1 with due := due } := by
  have gone := abandon_abandons wp p
  obtain ⟨image, frame⟩ := gone.frame
  have route' : (s.abandon p).route? k = some r := by rw [frame]; exact route
  have rec' : (s.abandon p).routeRec r = some d := by rw [frame]; exact rec
  have marked : (s.abandon p).iu.marks.Wf := by rw [frame]; exact wm
  obtain ⟨due, retired, scan, ends⟩ := retireRoute_eq route' .routeFailed reasonPoint
  refine ⟨_, _, due, givesUp_of_reserved marked gone.wf rec' reserved once, scan, ends.trans (by rw [frame]), ?_⟩
  rw [failThrow_eq, waits]
  exact retired

/-! ### The end of a throw's time (R80) -/

theorem execThrowTimeout_last {s : State} {p n : Nat} (order : List Block) (h : (s.point p).throw = some n) (last : n ≤ 1) :
    exec (.throwTimeout p order) s = .next ((State.failThrow { s with order := order } p).finish s.ss.urgent) := by
  show execThrowTimeout p order s = _
  unfold execThrowTimeout
  have h' : (State.point { s with order := order } p).throw = some n := h
  dsimp only
  rw [h']
  exact if_pos last

/-- R78, R80, R87: a throw that times out in a still machine. -/
theorem throwTimeout_fails {s : State} {p n : Nat} (order : List Block) (h : (s.point p).throw = some n) (last : n ≤ 1)
    (wp : s.iu.points.Wf) (wm : s.iu.marks.Wf) (wr : s.iu.routes.Wf) (still : s.Still) {points : Tab Point} {failed : State}
    (same : ∀ j, Tab.getD {} points j = if j = p then (s.point p).abandoned else s.point j)
    (left : failed = { s with
      order := order, clp := s.clp.record .pointFailed p 0, iu := { s.iu with points := points } }) :
    ((∀ k, ¬s.waitsOn k p) → ∃ points' w, (∀ j, Tab.getD {} points' j = Tab.getD {} points j) ∧
      exec (.throwTimeout p order) s = .next w ∧ FollowUp { failed with iu := { s.iu with points := points' } } w ∧
      ∀ rec q m, s.fs.image.Wf → s.plan.points.get? p = some rec → (s.point p).pulse = some (q, m) →
        (∀ g ∈ s.plan.signals.rows, rec.drive q ∉ g.2.lampBits) → (∀ b ∈ s.plan.buttons.rows, b.2.lamp ≠ rec.drive q) →
        w.out (rec.drive q) = false) ∧
    (∀ k r d, s.waitsOn k p → (∀ j, s.waitsOn j p → j = k) → s.route? k = some r → s.routeRec r = some d →
      (∀ m ∈ r.marks, m = .reserved) → ((d.points ++ d.flanks).map Prod.fst).Nodup →
      ∃ marks points' w, failed.GivesUp k d marks points' ∧ exec (.throwTimeout p order) s = .next w ∧
        FollowUp (failed.withoutRoute k marks points' .routeFailed r.route 1) w ∧
        ∀ rec o m, s.fs.image.Wf → s.plan.points.get? p = some rec → (s.point p).pulse = some (o, m) →
          (∀ g ∈ s.plan.signals.rows, rec.drive o ∉ g.2.lampBits) → (∀ b ∈ s.plan.buttons.rows, b.2.lamp ≠ rec.drive o) →
          w.out (rec.drive o) = false) := by
  subst left
  have gone := abandon_abandons (s := { s with order := order }) wp p
  obtain ⟨image, frame⟩ := gone.frame
  have ends : s.due.turnEnds = [] := (settled_due still.1).2.2.1
  have executed := execThrowTimeout_last order h last
  constructor
  · intro alone
    rw [failThrow_eq, waitingOn_none (s := { s with order := order }) wr alone] at executed
    have settled : (State.abandon { s with order := order } p).Settled := by
      rw [frame]
      exact still.settledAt rfl rfl rfl rfl rfl ends
    refine ⟨_, _, fun j => (gone.points j).trans (same j).symm, executed, ?_, fun rec q m w known pulse signals buttons => ?_⟩
    · refine FollowUp.trans ?_ (settled.finish _)
      rw [frame]
      apply FollowUp.of_fields <;> rfl
    · have plan : (State.abandon { s with order := order } p).plan = s.plan := by rw [frame]; rfl
      exact (finish_out settled _ (plan.symm ▸ signals) (plan.symm ▸ buttons)).trans (gone.drive rec q m w known pulse)
  · intro k r d waits alone route rec reserved once
    obtain ⟨marks, points', due, gives, -, ends', retired⟩ := failThrow_retires (s := { s with order := order }) wp wm
      (waitingOn_some (s := { s with order := order }) wr waits alone) route rec reserved once
    rw [retired] at executed
    have settled : State.Settled { (State.abandon { s with order := order } p).withoutRoute k marks points' .routeFailed r.route 1 with
        due := due } := by
      rw [frame]
      exact still.settledAt rfl rfl rfl rfl rfl (ends'.trans ends)
    refine ⟨marks, points', _, State.GivesUp.of_lookups gives (fun x => ?_) fun j => (same j).trans (gone.points j).symm, executed, ?_,
      fun rec o m w known pulse signals buttons => ?_⟩
    · rw [frame]
      rfl
    · refine FollowUp.trans ?_ (settled.finish _)
      rw [frame]
      apply FollowUp.of_fields <;> rfl
    · have plan : (State.abandon { s with order := order } p).plan = s.plan := by rw [frame]; rfl
      exact (finish_out settled _ (plan.symm ▸ signals) (plan.symm ▸ buttons)).trans (gone.drive rec o m w known pulse)

/-! ### A section that becomes occupied (R80) -/

section
variable {s : State} {sec : Nat} {abandoned waits : Nat → Prop}

theorem sectionOccupied_of_none (wpl : s.plan.points.Wf)
    (names : ∀ p, abandoned p ↔ (∃ r, s.plan.points.get? p = some r ∧ r.sect = sec) ∧
      ((s.point p).state = .movingN ∨ (s.point p).state = .movingR)) (none : ∀ p, ¬abandoned p) :
    s.sectionOccupied sec = s :=
  abandonList_still fun r mem => Bool.eq_false_iff.2 fun flies =>
    none r.1 ((names r.1).2 ⟨(mem_pointsIn wpl).1 (List.mem_map_of_mem mem), (inFlight_iff _).1 flies⟩)

/-- R80: the throws that a newly occupied section abandons, where no route waits for any. -/
theorem sectionOccupied_all (wpl : s.plan.points.Wf) (wp : s.iu.points.Wf) (wr : s.iu.routes.Wf)
    (names : ∀ p, abandoned p ↔ (∃ r, s.plan.points.get? p = some r ∧ r.sect = sec) ∧
      ((s.point p).state = .movingN ∨ (s.point p).state = .movingR)) (alone : ∀ p, abandoned p → ∀ k, ¬s.waitsOn k p) :
    AbandonsAll s abandoned (s.sectionOccupied sec) :=
  (abandonList_all wp wr (pointsIn_once wpl sec) fun r mem flies => alone r.1 ((names r.1).2
    ⟨(mem_pointsIn wpl).1 (List.mem_map_of_mem mem), (inFlight_iff _).1 flies⟩)).congr fun j => by
      rw [names, mem_pointsIn wpl, inFlight_iff]

/-- R80: a newly occupied section in which one point moves. -/
theorem sectionOccupied_one (wpl : s.plan.points.Wf)
    (names : ∀ p, abandoned p ↔ (∃ r, s.plan.points.get? p = some r ∧ r.sect = sec) ∧
      ((s.point p).state = .movingN ∨ (s.point p).state = .movingR)) {p : Nat} (gone : abandoned p)
    (only : ∀ j, abandoned j → j = p)
    (states : ∀ j, j ≠ p → ((s.failThrow p).point j).state = (s.point j).state) : s.sectionOccupied sec = s.failThrow p := by
  obtain ⟨there, flies⟩ := (names p).1 gone
  have still : ∀ r ∈ s.pointsIn sec, r.1 ≠ p → (s.point r.1).state.inFlight = false := fun r mem other =>
    Bool.eq_false_iff.2 fun flies => other (only r.1 ((names r.1).2
      ⟨(mem_pointsIn wpl).1 (List.mem_map_of_mem mem), (inFlight_iff _).1 flies⟩))
  exact abandonList_one (pointsIn_once wpl sec) ((mem_pointsIn wpl).2 there) ((inFlight_iff _).2 flies) still
    fun r mem other => by rw [states r.1 other]; exact still r mem other

end

theorem withoutRoute_point_state {s : State} {k : Nat} {d : RouteRec} {marks : Tab Mark} {points : Tab Point}
    (h : s.GivesUp k d marks points) (c : Cause) (n m j : Nat) :
    ((s.withoutRoute k marks points c n m).point j).state = (s.point j).state := by
  obtain ⟨-, unlocked⟩ := h
  show (Tab.getD {} points j).state = _
  rw [unlocked]
  split <;> rfl

/-- R80: what a newly occupied section leaves where one point moves. -/
theorem sectionOccupied_fails {s : State} {sec p : Nat} {abandoned : Nat → Prop} (wpl : s.plan.points.Wf)
    (wp : s.iu.points.Wf) (wm : s.iu.marks.Wf) (wr : s.iu.routes.Wf)
    (names : ∀ p, abandoned p ↔ (∃ r, s.plan.points.get? p = some r ∧ r.sect = sec) ∧
      ((s.point p).state = .movingN ∨ (s.point p).state = .movingR)) (there : abandoned p)
    (only : ∀ j, abandoned j → j = p) {points : Tab Point} {failed : State}
    (same : ∀ j, Tab.getD {} points j = if j = p then (s.point p).abandoned else s.point j)
    (left : failed = { s with clp := s.clp.record .pointFailed p 0, iu := { s.iu with points := points } }) :
    ((∀ k, ¬s.waitsOn k p) → ∃ points' image, (∀ j, Tab.getD {} points' j = Tab.getD {} points j) ∧
      s.sectionOccupied sec = { failed with iu := { s.iu with points := points' }, fs := { s.fs with image := image } }) ∧
    ∀ k r d, s.waitsOn k p → (∀ j, s.waitsOn j p → j = k) → s.route? k = some r → s.routeRec r = some d →
      (∀ m ∈ r.marks, m = .reserved) → ((d.points ++ d.flanks).map Prod.fst).Nodup →
      ∃ marks points' image due, failed.GivesUp k d marks points' ∧ due.scan = true ∧ s.sectionOccupied sec =
        { failed.withoutRoute k marks points' .routeFailed r.route 1 with fs := { s.fs with image := image }, due := due } := by
  subst left
  have gone := abandon_abandons wp p
  obtain ⟨image, frame⟩ := gone.frame
  constructor
  · intro alone
    have fails : s.failThrow p = s.abandon p := by rw [failThrow_eq, waitingOn_none wr alone]
    refine ⟨(s.abandon p).iu.points, image, fun j => (gone.points j).trans (same j).symm, ?_⟩
    rw [sectionOccupied_one wpl names there only fun j other => by rw [fails, gone.points, if_neg other], fails]
    exact frame
  · intro k r d waits alone route rec reserved once
    obtain ⟨marks, points', due, gives, scan, -, retired⟩ :=
      failThrow_retires wp wm (waitingOn_some wr waits alone) route rec reserved once
    refine ⟨marks, points', image, due, State.GivesUp.of_lookups gives (fun x => ?_) fun j => (same j).trans (gone.points j).symm,
      scan, ?_⟩
    · rw [frame]
      rfl
    · have states : ∀ j, j ≠ p → ((s.failThrow p).point j).state = (s.point j).state := fun j other => by
        rw [retired]
        refine (withoutRoute_point_state gives .routeFailed r.route 1 j).trans ?_
        rw [gone.points, if_neg other]
      rw [sectionOccupied_one wpl names there only states, retired, frame]
      rfl

/-- R80: a section that becomes occupied. -/
theorem section_occupied (s : State) (sec : Nat) (abandoned waits : Nat → Prop) (wpl : s.plan.points.Wf)
    (wp : s.iu.points.Wf) (wm : s.iu.marks.Wf) (wr : s.iu.routes.Wf)
    (names : ∀ p, abandoned p ↔ (∃ r, s.plan.points.get? p = some r ∧ r.sect = sec) ∧
      ((s.point p).state = .movingN ∨ (s.point p).state = .movingR))
    (waited : ∀ k, waits k ↔ ∃ p q r d, abandoned p ∧ s.route? k = some r ∧ s.routeRec r = some d ∧ r.state = .setting ∧
      r.moving ≠ 0 ∧ (p, q) ∈ d.points ++ d.flanks) :
    ((∀ p, ¬abandoned p) → s.sectionOccupied sec = s) ∧
    ((∀ k, ¬waits k) → (s.sectionOccupied sec).iu.routes = s.iu.routes ∧
      (∀ p, ¬abandoned p → (s.sectionOccupied sec).point p = s.point p) ∧
      ∀ p, abandoned p →
        (s.sectionOccupied sec).point p = (s.point p).abandoned ∧ (s.sectionOccupied sec).clp.tellsFailed p ∧
        ∀ r q n, s.fs.image.Wf → s.plan.points.get? p = some r → (s.point p).pulse = some (q, n) →
          (s.sectionOccupied sec).out (r.drive q) = false) ∧
    ∀ p points failed, abandoned p → (∀ j, abandoned j → j = p) →
      (∀ j, Tab.getD {} points j = if j = p then (s.point p).abandoned else s.point j) →
      failed = { s with clp := s.clp.record .pointFailed p 0, iu := { s.iu with points := points } } →
      ((∀ k, ¬waits k) → ∃ points' image, (∀ j, Tab.getD {} points' j = Tab.getD {} points j) ∧
        s.sectionOccupied sec =
          { failed with iu := { s.iu with points := points' }, fs := { s.fs with image := image } }) ∧
      ∀ k r d, waits k → (∀ j, waits j → j = k) → s.route? k = some r → s.routeRec r = some d →
        (∀ m ∈ r.marks, m = .reserved) → ((d.points ++ d.flanks).map Prod.fst).Nodup →
        ∃ marks points' image due, failed.GivesUp k d marks points' ∧ due.scan = true ∧ s.sectionOccupied sec =
          { failed.withoutRoute k marks points' .routeFailed r.route 1 with
            fs := { s.fs with image := image }, due := due } := by
  have waiting : ∀ k, waits k ↔ ∃ p, abandoned p ∧ s.waitsOn k p := fun k => by
    rw [waited]
    constructor
    · rintro ⟨p, q, r, d, gone, route, rec, setting, moving, mem⟩
      exact ⟨p, gone, r, d, q, route, rec, setting, moving, mem⟩
    · rintro ⟨p, gone, r, d, q, route, rec, setting, moving, mem⟩
      exact ⟨p, q, r, d, gone, route, rec, setting, moving, mem⟩
  refine ⟨sectionOccupied_of_none wpl names, fun unwaited => ?_, fun p points failed gone only same left => ?_⟩
  · have all := sectionOccupied_all wpl wp wr names fun p gone k h => unwaited k ((waiting k).2 ⟨p, gone, h⟩)
    obtain ⟨image, clp, frame⟩ := all.frame
    exact ⟨by rw [frame], all.kept, fun p gone => ⟨all.taken p gone, all.told p (.inl gone), fun r q n w rec pulse =>
      all.drive p r q n gone w rec pulse⟩⟩
  · obtain ⟨unwaited, retires⟩ := sectionOccupied_fails wpl wp wm wr names gone only same left
    refine ⟨fun alone => unwaited fun k h => alone k ((waiting k).2 ⟨p, gone, h⟩), fun k r d waits_ alone => retires k r d ?_ ?_⟩
    · obtain ⟨p', gone', h⟩ := (waiting k).1 waits_
      exact only p' gone' ▸ h
    · exact fun j h => alone j ((waiting j).2 ⟨p, gone, h⟩)

/-! ### The statement -/

/-- Settles O45: timers at their last tick end what they time; a report moves a point by the table; a throw that fails takes
out the route that waits for it. -/
theorem pointTimers : Obligations.PointTimers := by
  refine ⟨fun p s => ⟨fun idle => ?_, fun q n r pulse last rec => ?_⟩, fun p order s => ⟨fun idle => ?_, ?_⟩, ?_⟩
  · show execPulseExpiry p s = _
    unfold execPulseExpiry
    rcases idle with none | ⟨q, n, pulse, more⟩
    · rw [none]
    · rw [pulse]
      exact if_neg (Nat.not_le.2 more)
  · show execPulseExpiry p s = _
    unfold execPulseExpiry
    rw [pulse, endPulse_of_some pulse, rec]
    exact if_pos last
  · show execThrowTimeout p order s = _
    unfold execThrowTimeout
    have same : (State.point { s with order := order } p) = s.point p := rfl
    dsimp only
    rw [same]
    rcases idle with none | ⟨n, throw, more⟩
    · rw [none]
    · rw [throw]
      exact if_neg (Nat.not_le.2 more)
  · rintro n throw last wp wm wr still clp points failed rfl same left
    obtain ⟨unwaited, waited⟩ := throwTimeout_fails order throw last wp wm wr still same left
    refine ⟨fun alone => unwaited ?_, fun k r d q route rec setting moving mem reserved once alone => waited k r d
      ⟨r, d, q, route, rec, setting, moving, mem⟩ ?_ route rec reserved once⟩
    · rintro k ⟨r, d, q, route, rec, setting, moving, mem⟩
      exact alone k r d q route rec setting moving mem
    · rintro j ⟨r', d', q', route', rec', setting', moving', mem'⟩
      exact alone j r' d' q' route' rec' setting' moving' mem'
  · rintro s p r x shown after rec rfl wp wr shownEq afterEq
    obtain rfl : shown = s.detected r := shownEq
    have shows : (s.point p).shows (s.detected r) = after := afterEq.symm
    refine ⟨fun same dark => ?_, fun failed sound dark => ?_, fun moves clp due lost settles => ⟨fun unwaited => ?_,
      fun k y d q n flies route known setting moving mem alone settled left => ?_⟩, section_occupied⟩
    · rw [detection_eq rec, pointMove_eq, shows, if_pos same]
      exact if_neg dark
    · have stays : pointMove (s.point p) (s.detected r) = none := by simp [pointMove, failed, dark]
      rw [detection_eq rec, stays]
      exact if_pos ⟨failed, sound, dark⟩
    · have noticed : clp = s.lostAt p (s.point p) := lost
      rw [noticed, settles]
      refine detection_settles rec shows moves wr fun moving k h => ?_
      rcases unwaited with ⟨notN, notR⟩ | none
      · exact ((inFlight_iff _).1 moving).elim notN notR
      · obtain ⟨y, d, q, route, known, setting, waits, mem⟩ := h
        exact none k y d q route known setting waits mem
    · have inFlight := (inFlight_iff _).2 flies
      have waits : s.waitingOn p = some k := by
        refine waitingOn_some wr ⟨y, d, q, route, known, setting, by omega, mem⟩ ?_
        rintro j ⟨y', d', q', route', known', setting', waits', mem'⟩
        exact alone j y' d' q' route' known' setting' waits' mem'
      have ends := detection_ends rec shows moves inFlight waits route
      rw [if_pos (shows ▸ shows_of_moving inFlight (shows ▸ moves))] at settles
      subst settles left
      rw [show y.moving - 1 = n by omega] at ends
      refine ⟨fun more => ?_, fun last => ?_⟩
      · rw [ends, if_neg more]
        rfl
      · subst last
        rw [if_pos rfl] at ends
        obtain ⟨trains, cleared, joined⟩ := clearRoute_eq (k := k) (r := { y with moving := 0 })
          (s := State.putRoute { s.putPoint p { s.point p with state := after, throw := none } with clp := s.clp } k
            { y with moving := 0 }) (Tab.get?_put_same ..)
        rw [ends, cleared]
        refine ⟨Tab.get?_put_same .., rfl, (putPoint_point wp p p _).trans (if_pos rfl), fun j z train => ?_⟩
        refine (joined j).trans ?_
        rw [show State.train? (State.putRoute { s.putPoint p { s.point p with state := after, throw := none } with
          clp := s.clp } k { y with moving := 0 }) j = s.train? j from rfl, train]
        rfl

end Sys2Proof.Machine
end

section
/-! PROOFS. What a part of an event keeps of the laws of sections and of moving points (R76, R80): the relation, and the
operations of the Interlocking Unit. -/
namespace Sys2Proof.Machine

/-! ### The relation -/

/-- What a part of an event keeps of a checked plan and of the laws of routes and of sections (R75, R76, R157). -/
structure Steady (s t : State) : Prop where
  checked : CheckedLaw s → CheckedLaw t
  sound : s.Sound → t.Sound
  routes : RouteLaw s → RouteLaw t
  sections : RouteLaw s → s.Sound → ReservationLaw s → ReservationLaw t

theorem Steady.refl (s : State) : Steady s s := ⟨id, id, id, fun _ _ => id⟩

theorem Steady.trans {s t u : State} (h : Steady s t) (k : Steady t u) : Steady s u where
  checked := fun c => k.checked (h.checked c)
  sound := fun a => k.sound (h.sound a)
  routes := fun r => k.routes (h.routes r)
  sections := fun r a l => k.sections (h.routes r) (h.sound a) (h.sections r a l)

/-- What a part of an event keeps of the laws, with that of moving points: whatever section reports still wait (R80). -/
structure Guards (s t : State) : Prop extends Steady s t where
  moving : ∀ waits, RouteLaw s → s.Sound → MovingBut waits s → MovingBut waits t

theorem Guards.refl (s : State) : Guards s s := ⟨.refl s, fun _ _ _ => id⟩

theorem Guards.trans {s t u : State} (h : Guards s t) (k : Guards t u) : Guards s u where
  toSteady := h.toSteady.trans k.toSteady
  moving := fun w r a l => k.moving w (h.routes r) (h.sound a) (h.moving w r a l)

theorem Guards.foldl {α : Type} {f : State → α → State} (h : ∀ s x, Guards s (f s x)) (l : List α) (s : State) :
    Guards s (l.foldl f s) := by
  induction l generalizing s with
  | nil => exact .refl s
  | cons x l ih => exact (h s x).trans (ih _)

theorem Guards.ite {s t u : State} {c : Prop} [Decidable c] (h : Guards s t) (k : Guards s u) :
    Guards s (if c then t else u) := by
  split
  · exact h
  · exact k

theorem Guards.fst_ite {s : State} {x y : State × Answer} {c : Prop} [Decidable c] (h : Guards s x.1) (k : Guards s y.1) :
    Guards s (if c then x else y).1 := by
  split
  · exact h
  · exact k

section
variable {s t : State}

theorem Inner.plan (h : Inner s t) : t.plan = s.plan := congrArg PM.plan h.pm

theorem occupied_of_image (pm : t.pm = s.pm) (fs : t.fs = { s.fs with image := t.fs.image }) (x : Nat) :
    t.occupied x = s.occupied x := by
  have input : ∀ b, t.input b = s.input b := fun b => by
    unfold State.input
    rw [fs]
  unfold State.occupied State.plan
  simp only [input, pm]

theorem Inner.occupied (h : Inner s t) (x : Nat) : t.occupied x = s.occupied x := occupied_of_image h.pm h.fs x

theorem Inner.sound (h : Inner s t) (sound : s.Sound) : t.Sound := by
  unfold State.Sound
  rw [h.mc, h.plan]
  exact sound

theorem Inner.checked (h : Inner s t) (checked : CheckedLaw s) : CheckedLaw t := by
  unfold CheckedLaw
  rw [h.mc, h.pm]
  exact checked

/-- A part of an event that eases the points. -/
theorem Inner.guards (h : Inner s t) (sections : RouteLaw s → s.Sound → ReservationLaw s → ReservationLaw t)
    (points : EasesAll s.iu.points t.iu.points) : Guards s t where
  checked := h.checked
  sound := h.sound
  routes := h.routes
  sections := sections
  moving := fun _ _ _ l => l.eased h.plan (fun x full => h.occupied x ▸ full) points

/-- A part of an event that keeps the reservation marks, and what each route holds. -/
theorem Inner.guards_holds (h : Inner s t) (marks : t.iu.marks = s.iu.marks)
    (holds : ∀ k, (t.route? k).map ActiveRoute.hold = (s.route? k).map ActiveRoute.hold)
    (points : EasesAll s.iu.points t.iu.points) : Guards s t :=
  h.guards (fun r _ l => l.of_holds h.plan (h.routes r).rising marks holds) points

/-- A part of an event that writes nothing of the Interlocking Unit but points. -/
theorem Inner.guards_points (h : Inner s t) (points : EasesAll s.iu.points t.iu.points)
    (iu : t.iu = { s.iu with points := t.iu.points }) : Guards s t :=
  h.guards_holds (by rw [iu]) (fun k => by rw [State.route?, iu, State.route?]) points

/-- A part of an event that writes nothing of the Interlocking Unit. -/
theorem Inner.guards_iu (h : Inner s t) (iu : t.iu = s.iu) : Guards s t :=
  h.guards_points (by rw [iu]; exact .refl _) (by rw [iu])

/-- An update of other parts than the plan and the mode, and of the signals. -/
theorem Steady.of_fields (plan : t.plan = s.plan) (valid : t.pm.valid = s.pm.valid) (mode : t.mc.mode = s.mc.mode)
    (iu : t.iu = { s.iu with signals := t.iu.signals }) : Steady s t where
  checked := by unfold CheckedLaw; rw [mode, valid]; exact id
  sound := by unfold State.Sound; rw [plan, mode]; exact id
  routes := RouteLaw.congr (by rw [iu]) (by rw [iu]) plan (by rw [mode]; exact id)
  sections := fun r _ l => l.of_holds plan (by rw [iu]; exact r.rising) (by rw [iu]) fun k => by
    rw [State.route?, iu, State.route?]

/-- An update that leaves the occupancy too. -/
theorem Guards.of_fields (plan : t.plan = s.plan) (valid : t.pm.valid = s.pm.valid) (mode : t.mc.mode = s.mc.mode)
    (occupied : ∀ x, t.occupied x = true → s.occupied x = true) (iu : t.iu = { s.iu with signals := t.iu.signals }) :
    Guards s t where
  toSteady := .of_fields plan valid mode iu
  moving := fun _ _ _ l => l.eased plan occupied (by rw [iu]; exact .refl _)

end

/-! ### Updates -/

theorem putAwu_guards (s : State) (a : AWU) : Guards s { s with awu := a } := .of_fields rfl rfl rfl (fun _ => id) rfl

theorem putTr_guards (s : State) (x : TR) : Guards s { s with tr := x } := .of_fields rfl rfl rfl (fun _ => id) rfl

theorem putSs_guards (s : State) (x : SS) : Guards s { s with ss := x } := .of_fields rfl rfl rfl (fun _ => id) rfl

theorem putClp_guards (s : State) (x : CLP) : Guards s { s with clp := x } := .of_fields rfl rfl rfl (fun _ => id) rfl

theorem setTc_guards (s : State) (x : TC) : Guards s (s.setTc x) := .of_fields rfl rfl rfl (fun _ => id) rfl

@[simp] theorem updTrain_iu (s : State) (k : Nat) (g : Train → Train) : (s.updTrain k g).iu = s.iu := by
  unfold State.updTrain
  split <;> rfl

theorem notice_guards (s : State) (c : Cause) (n : Nat) : Guards s (s.notice c n) := putClp_guards s _

theorem putDue_guards (s : State) (d : Due) : Guards s { s with due := d } :=
  .of_fields rfl rfl rfl (fun _ => id) rfl

theorem wantScan_guards (s : State) : Guards s s.wantScan := putDue_guards s _

theorem wantArbitrate_guards (s : State) : Guards s s.wantArbitrate := putDue_guards s _

theorem wantAttempt_guards (s : State) : Guards s s.wantAttempt := putDue_guards s _

theorem handRelease_guards (s : State) : Guards s s.handRelease := putDue_guards s _

theorem putTrain_guards (s : State) (k : Nat) (x : Train) : Guards s (s.putTrain k x) := putTr_guards s _

theorem updTrain_guards (s : State) (k : Nat) (g : Train → Train) : Guards s (s.updTrain k g) := by
  unfold State.updTrain
  split
  · exact .refl s
  · exact putTrain_guards s k _

theorem setOut_guards (s : State) (b : Nat) (v : Bool) : Guards s (s.setOut b v) :=
  .of_fields rfl rfl rfl (fun _ => id) rfl

theorem putPoint_guards (s : State) (p : Nat) (x : Point) (h : (s.point p).Eases x) : Guards s (s.putPoint p x) :=
  (putPoint_rail s p x).guards_points (.put h) rfl

/-- A point that no longer moves. -/
theorem putStill_guards (s : State) (p : Nat) (x : Point) (h : x.state.inFlight = false) : Guards s (s.putPoint p x) :=
  putPoint_guards s p x (.of_still h)

/-- A point that keeps its state, its locks and what they demand. -/
theorem putTimers_guards (s : State) (p : Nat) (x : Point) (state : x.state = (s.point p).state)
    (locks : x.locks = (s.point p).locks) (demand : x.demand = (s.point p).demand) : Guards s (s.putPoint p x) :=
  putPoint_guards s p x fun _ => ⟨state, fun held => ⟨locks ▸ held, demand⟩⟩

/-- An active record rewritten with its route id and its section marks kept. -/
theorem putRoute_guards (s : State) (k : Nat) (r q : ActiveRoute) (h : s.route? k = some q) (e : r.hold = q.hold) :
    Guards s (s.putRoute k r) := by
  refine (putRoute_rail s k r q h (congrArg Prod.fst e)).guards_holds rfl (fun j => ?_) (.refl _)
  rw [putRoute_route?]
  split
  next same => rw [same, h, Option.map_some, e]; rfl
  next => rfl

/-! ### Routes that clear -/

theorem clearRoute_guards (s : State) (k : Nat) : Guards s (s.clearRoute k) := by
  unfold State.clearRoute
  split
  · exact .refl s
  · next r e =>
    have base := (putRoute_guards s k { r with state := .cleared } r e rfl).trans (notice_guards _ .routeSet r.route)
    dsimp only
    split
    · exact base
    · exact base.trans (updTrain_guards _ _ _)

theorem throwEnded_guards (s : State) (p : Nat) : Guards s (s.throwEnded p) := by
  unfold State.throwEnded
  split
  · exact .refl s
  · split
    · exact .refl s
    · next r e =>
      have put := putRoute_guards s _ { r with moving := r.moving - 1 } r e rfl
      exact Guards.ite (put.trans (clearRoute_guards _ _)) put

/-! ### Release and retirement (R99, R100) -/

theorem unlock_guards (s : State) (p : Nat) : Guards s (s.unlock p) :=
  (putPoint_guards s p _ (Point.eases_unlocked _)).trans (handRelease_guards _)

theorem retireRoute_guards (s : State) (k : Nat) (c : Cause) (n : Nat) : Guards s (s.retireRoute k c n) := by
  cases h : s.route? k with
  | none => rw [retireRoute_absent h]; exact .refl s
  | some r =>
    have rail := retireRoute_rail s k c n
    obtain ⟨due, e, -⟩ := retireRoute_eq h c n
    rw [e] at rail ⊢
    refine rail.guards (fun _ _ l => ?_) (easesAll_unlockAll _ _)
    exact l.without rfl rfl (marksWithout_wf l.marks k) (getD_marksWithout l.marks k)

/-- Under the law of the routes, SETUP has none. -/
theorem RouteLaw.busy {s : State} (law : RouteLaw s) {k : Nat} {r : ActiveRoute} (h : s.route? k = some r) :
    s.mc.mode ≠ .setup := fun m => by
  have row := rowsGet_mem _ _ _ h
  rw [(law.setup m).1] at row
  contradiction

theorem getElem?_of_placeOf {x : Nat} {l : List Nat} {i : Nat} (h : placeOf x l = some i) : l[i]? = some x := by
  induction l generalizing i with
  | nil => contradiction
  | cons y l ih =>
    unfold placeOf at h
    split at h
    next e => cases h; rw [e]; rfl
    next =>
      obtain ⟨j, place, rfl⟩ := Option.map_eq_some_iff.1 h
      exact ih place

/-- What the routes hold once a mark of one record is rewritten. -/
theorem putMarks_holds (s : State) {k : Nat} {r q : ActiveRoute} (route : q.route = r.route) {i : Nat} {m : SectionMark}
    (marks : q.marks = r.marks.set i m) : HoldsRewritten s (s.putRoute k q) k r i m := fun j => by
  rw [putRoute_route?]
  split
  next => rw [Option.map_some, ActiveRoute.hold, route, marks]
  next => rfl

/-- R99: the section of a route that is released, with its locks still held. -/
def State.freed (s : State) (k sec i : Nat) (r : ActiveRoute) : State :=
  (s.putRoute k { r with marks := r.marks.set i .released }).putMark sec .free

theorem freed_rail {s : State} {k : Nat} {r : ActiveRoute} (h : s.route? k = some r) (sec i : Nat) :
    Rail s (s.freed k sec i r) :=
  (putRoute_rail s k { r with marks := r.marks.set i .released } r h rfl).trans (putMark_rail _ _ _)

theorem freed_guards {s : State} {k sec i : Nat} {r : ActiveRoute} {d : RouteRec} (h : s.route? k = some r)
    (rec : s.routeRec r = some d) (place : d.sections[i]? = some sec) (mine : s.mark sec = .route k) :
    Guards s (s.freed k sec i r) := by
  have rail := freed_rail h sec i
  refine rail.guards (fun law sound l => ?_) (.refl _)
  have once : d.sections.Nodup := (List.nodup_append.1 (sound (law.busy h) _ d rec).1).1
  have holds : HoldsRewritten s (s.freed k sec i r) k r i .released :=
    putMarks_holds s (r := r) (q := { r with marks := r.marks.set i .released }) rfl rfl
  exact l.released rfl (rail.routes law).rising (putD_wf _ _ _ _ l.marks) h rec place once mine
    holds (mark_putMark (s := s.putRoute k _) l.marks sec · .free)

/-- R99: what is released of a route: nothing, or one section and the locks of the points that lie in it. -/
theorem releaseMark_cases (s : State) (k sec : Nat) : s.releaseMark k sec = s ∨ ∃ r d i, ∃ lying : List (Nat × Pos),
    s.route? k = some r ∧ s.routeRec r = some d ∧ d.sections[i]? = some sec ∧
      s.releaseMark k sec = (lying.foldl (fun s x => s.unlock x.1) (s.freed k sec i r)).handRelease := by
  unfold State.releaseMark
  split
  · exact .inl rfl
  · next r h =>
    split
    · exact .inl rfl
    · next d rec =>
      split
      · exact .inl rfl
      · next i place => exact .inr ⟨r, d, i, _, h, rec, getElem?_of_placeOf place, rfl⟩

theorem releaseMark_guards {s : State} {k sec : Nat} (mine : s.mark sec = .route k) : Guards s (s.releaseMark k sec) := by
  rcases releaseMark_cases s k sec with e | ⟨r, d, i, lying, h, rec, place, e⟩
  · rw [e]; exact .refl s
  · rw [e]
    exact ((freed_guards h rec place mine).trans (Guards.foldl (fun s (x : Nat × Pos) => unlock_guards s x.1) _ _)).trans
      (handRelease_guards _)

theorem releaseMark_mark (s : State) (k sec : Nat) {x : Nat} (other : x ≠ sec) :
    (s.releaseMark k sec).mark x = s.mark x := by
  have unlocked : ∀ (l : List (Nat × Pos)) (u : State), (l.foldl (fun s x => s.unlock x.1) u).mark x = u.mark x := by
    intro l
    induction l with
    | nil => exact fun _ => rfl
    | cons y l ih => exact fun u => ih (u.unlock y.1)
  rcases releaseMark_cases s k sec with e | ⟨r, d, i, lying, -, -, -, e⟩
  · rw [e]
  · rw [e]
    exact (unlocked lying _).trans (Tab.getD_putD_ne _ _ _ other)

theorem releaseMarks_guards {k : Nat} {l : List Nat} (once : l.Nodup) {s : State} (mine : ∀ x ∈ l, s.mark x = .route k) :
    Guards s (l.foldl (fun s x => s.releaseMark k x) s) := by
  induction l generalizing s with
  | nil => exact .refl s
  | cons x l ih =>
    obtain ⟨away, once⟩ := List.nodup_cons.1 once
    refine (releaseMark_guards (mine x List.mem_cons_self)).trans (ih once fun y mem => ?_)
    rw [releaseMark_mark s k x fun e => away (e ▸ mem)]
    exact mine y (List.mem_cons_of_mem _ mem)

theorem retireIfReleased_guards (s : State) (k : Nat) : Guards s (s.retireIfReleased k) := by
  unfold State.retireIfReleased
  split
  · exact .refl s
  · exact Guards.ite (retireRoute_guards _ _ _ _) (.refl s)

theorem releaseEntered_guards (s : State) (x : Nat) : Guards s (s.releaseEntered x) := by
  unfold State.releaseEntered
  split
  · next k mine =>
    split
    · exact .refl s
    · exact Guards.ite ((releaseMark_guards mine).trans (retireIfReleased_guards _ _)) (.refl s)
  · exact .refl s

theorem approachTest_guards (s : State) : Guards s s.approachTest := by
  refine Guards.foldl (fun s j => ?_) _ s
  split
  · exact .refl s
  · exact Guards.ite (retireRoute_guards _ _ _ _) (.refl s)

theorem sectionLeft_guards (s : State) (x : Nat) : Guards s (s.sectionLeft x) :=
  ((releaseEntered_guards s x).trans (wantScan_guards _)).trans (approachTest_guards _)

theorem strayCleared_guards (s : State) (x : Nat) : Guards s (s.strayCleared x) :=
  ((wantScan_guards s).trans (wantArbitrate_guards _)).trans (approachTest_guards _)

/-! ### Failed throws and detection (R79 to R81, R87) -/

theorem endPulse_guards (s : State) (p : Nat) : Guards s (s.endPulse p) := by
  unfold State.endPulse
  dsimp only
  split
  · exact .refl s
  · have put := putTimers_guards s p { s.point p with pulse := none } rfl rfl rfl
    split
    · exact put
    · exact put.trans (setOut_guards _ _ _)

theorem failThrow_guards (s : State) (p : Nat) : Guards s (s.failThrow p) := by
  have failed : Guards s (s.abandon p) :=
    ((endPulse_guards s p).trans (putStill_guards _ _ _ rfl)).trans (notice_guards _ _ _)
  unfold State.failThrow
  dsimp only
  split
  · exact failed
  · exact failed.trans (retireRoute_guards _ _ _ _)

theorem sectionOccupied_guards (s : State) (x : Nat) : Guards s (s.sectionOccupied x) :=
  Guards.foldl (fun s (r : Nat × PointRec) => Guards.ite (failThrow_guards s r.1) (.refl s)) _ s

theorem pointMove_not_inFlight {x : Point} {shown : Option Pos} {y : PointState} (h : pointMove x shown = some y) :
    y.inFlight = false := by
  have moved : ∀ {z : PointState}, some z = some y → z.inFlight = false → y.inFlight = false := fun e still =>
    Option.some.inj e ▸ still
  unfold pointMove at h
  split at h
  case h_1 | h_2 | h_3 | h_4 | h_6 | h_7 => exact moved h rfl
  case h_5 => exact moved h (settled_not_inFlight _)
  case h_8 =>
    split at h
    · contradiction
    · exact moved h (settled_not_inFlight _)
  case h_9 => contradiction

theorem detection_guards (s : State) (p : Nat) : Guards s (s.detection p) := by
  unfold State.detection
  split
  · exact .refl s
  · dsimp only
    split
    · exact Guards.ite ((putTimers_guards s p { s.point p with fault := true } rfl rfl rfl).trans (notice_guards _ _ _)) (.refl s)
    · next after move =>
      have put := putStill_guards s p { s.point p with state := after, throw := none } (pointMove_not_inFlight move)
      have lost := put.trans (Guards.ite (c := loses (s.point p) after = true) (notice_guards _ .pointLost p) (.refl _))
      have ended := lost.trans (Guards.ite (c := (s.point p).state.inFlight = true) (throwEnded_guards _ p) (.refl _))
      exact ended.trans (Guards.ite (wantScan_guards _) (.refl _))

end Sys2Proof.Machine
end

section
/-! PROOFS. What activation, the route stack, cancelling and entry keep of the laws of sections and of moving points (R76,
R80, R85, R98, R101 to R112). -/
namespace Sys2Proof.Machine

/-! ### Activation (R83, R85) -/

theorem commands_frame (l : List (Nat × Pos)) (s : State) : ∃ points image, l.foldl (fun s x => s.command x.1 x.2) s =
    { s with iu := { s.iu with points := points }, fs := { s.fs with image := image } } := by
  induction l generalizing s with
  | nil => exact ⟨s.iu.points, s.fs.image, rfl⟩
  | cons x l ih =>
    obtain ⟨image, one⟩ := command_frame s x.1 x.2
    obtain ⟨points', image', rest⟩ := ih (s.command x.1 x.2)
    exact ⟨points', image', by rw [List.foldl_cons, rest, one]⟩

/-- R85: what an activation writes, whatever the points. -/
theorem activate_frame {s : State} (wr : s.iu.routes.Wf) (d : RouteRec) (k : Nat) (a : RouteAsk) :
    ∃ state trains clp image points, s.activate d k a = { s with
      iu := { s.iu with
        routes := s.iu.routes.put k { s.newRoute d a with state := state }, marks := s.marksWith d k, points := points },
      tr := { s.tr with trains := trains }, clp := clp, fs := { s.fs with image := image },
      due := { s.due with arbitrate := true } } := by
  obtain ⟨points, image, frame⟩ := commands_frame (s.toMove d) (s.lockedFor d k a)
  rw [activate_eq s d k a rfl, frame]
  split
  next =>
    have there : (s.lockedFor d k a).route? k = some (s.newRoute d a) := Tab.get?_put_same ..
    obtain ⟨trains, cleared, -⟩ := clearRoute_eq (s := State.wantArbitrate { s.lockedFor d k a with
      iu := { (s.lockedFor d k a).iu with points := points }, fs := { s.fs with image := image } }) there
    refine ⟨.cleared, trains, s.clp.record .routeSet a.route 0, image, points, cleared.trans ?_⟩
    unfold State.lockedFor State.wantArbitrate
    dsimp only
    rw [Tab.put_put _ _ _ _ wr]
    rfl
  next => exact ⟨.setting, s.tr.trains, s.clp, image, points, rfl⟩

theorem ReservationLaw.activate {s : State} (h : ReservationLaw s) {d : RouteRec} {k : Nat} {a : RouteAsk}
    (empty : s.route? k = none) (rec : s.plan.routes.get? a.route = some d) (once : (d.sections ++ d.overlap).Nodup)
    (free : ∀ x ∈ d.sections ++ d.overlap, s.mark x = .free) : ReservationLaw (s.activate d k a) := by
  obtain ⟨state, trains, clp, image, points, frame⟩ := activate_frame h.routes d k a
  rw [frame]
  refine h.activated (r := { s.newRoute d a with state := state }) rfl (Tab.put_wf _ _ _ h.routes) (marksWith_wf h.marks d k)
    empty rec rfl once free (fun j => ?_) (getD_marksWith h.marks once k)
  refine (congrArg (Option.map ActiveRoute.hold) (putRoute_route? s k j { s.newRoute d a with state := state })).trans ?_
  split
  · rfl
  · rfl

theorem moving_inj {q q' : Pos} (h : q.moving = q'.moving) : q = q' := by
  revert h
  cases q <;> cases q' <;> decide

theorem settled_ne_moving (q q' : Pos) : q.settled ≠ q'.moving := fun e => by
  have moves := inFlight_moving q'
  rw [← e, settled_not_inFlight] at moves
  contradiction

theorem taken_demand (pl : Plan) (p : Nat) (q : Pos) (x : Point) : (pl.taken p q x).demand = some q := by
  unfold Plan.taken Plan.commanded Point.locked
  repeat' split
  all_goals rfl

/-- R85: a taken point stands where its route wants it, moves there as it did, or is commanded there. -/
theorem taken_state {pl : Plan} {p : Nat} {q : Pos} {x : Point} (known : x.state = q.settled ∨ pl.points.get? p ≠ none) :
    ((pl.taken p q x).state = q.settled ∨ (pl.taken p q x).state = q.moving) := by
  unfold Plan.taken Plan.commanded Point.locked
  split
  · assumption
  next away =>
    split
    next none => exact absurd (known.resolve_left fun e => away (.inl e)) (by simp [none])
    next =>
      dsimp only
      split
      next moves => exact .inr moves
      next => exact .inr rfl

/-- R80, R83 check 5: a point that a route may take is moved by it in a clear section alone. -/
theorem MovingBut.activate {waits : Nat → Prop} {s t : State} (h : MovingBut waits s) {d : RouteRec} {k : Nat} {a : RouteAsk}
    {points : Tab Point} (done : Activates s d k a points t) (inner : Inner s t)
    (may : ∀ x ∈ d.settings, s.placed x.1 x.2 = true ∨ s.movable x.1 = true) : MovingBut waits t := by
  have same : ∀ p, t.point p = Tab.getD {} points p := by
    obtain ⟨trains, image, frame⟩ := done.frame
    intro p
    rw [frame]
    rfl
  have standing : ∀ {p q}, s.placed p q = true → (s.point p).state = q.settled := fun placed => by
    unfold State.placed at placed
    exact of_decide_eq_true (Bool.and_eq_true_iff.1 placed).1
  have known : ∀ {p}, s.movable p = true → ∃ r, s.plan.points.get? p = some r ∧ s.occupied r.sect = false := fun movable => by
    unfold State.movable at movable
    split at movable
    · contradiction
    next r rec =>
      simp only [State.sectionFree, Bool.and_eq_true, Bool.not_eq_true'] at movable
      exact ⟨r, rec, movable.2.1.1.2⟩
  have stateOf : ∀ p q, (p, q) ∈ d.points ++ d.flanks → (t.point p).state = q.settled ∨ (t.point p).state = q.moving := by
    intro p q mem
    rw [same, done.taken p q mem]
    refine taken_state ((may (p, q) mem).imp standing fun movable => ?_)
    obtain ⟨r, rec, -⟩ := known movable
    simp [rec]
  refine ⟨?_, fun p r rec moves full => ?_, fun p q' r rec moves held => ?_⟩
  · obtain ⟨trains, image, frame⟩ := done.frame
    rw [frame]
    exact done.wf
  · rw [inner.plan] at rec
    rw [inner.occupied] at full
    by_cases taken : ∃ q, (p, q) ∈ d.points ++ d.flanks
    · obtain ⟨q, mem⟩ := taken
      rcases may (p, q) mem with placed | movable
      · have still : (t.point p).state = q.settled := by
          rw [same, done.taken p q mem, Plan.taken, if_pos (.inl (standing placed))]
          exact standing placed
        rw [still, settled_not_inFlight] at moves
        contradiction
      · obtain ⟨r', rec', clear⟩ := known movable
        obtain rfl : r' = r := Option.some.inj (rec'.symm.trans rec)
        rw [clear] at full
        contradiction
    · rw [same, done.others p fun q mem => taken ⟨q, mem⟩] at moves
      exact h.clear p r rec moves full
  · rw [inner.plan] at rec
    by_cases taken : ∃ q, (p, q) ∈ d.points ++ d.flanks
    · obtain ⟨q, mem⟩ := taken
      have aim : q = q' := (stateOf p q mem).elim (fun e => absurd (e.symm.trans moves) (settled_ne_moving q q'))
        fun e => moving_inj (e.symm.trans moves)
      rw [same, done.taken p q mem, taken_demand, aim]
    · rw [same, done.others p fun q mem => taken ⟨q, mem⟩] at moves held ⊢
      exact h.demand p q' r rec moves held

theorem activateChecked_guards {s : State} {a : RouteAsk} (h : s.routeCheck a = none) (mode : s.mc.mode ≠ .setup) :
    Guards s (s.activateChecked a).1 := by
  have rail := activateChecked_rail s a h fun _ => mode
  obtain ⟨d, -, rec, -, -, free, may, -⟩ := routeCheck_none h
  obtain ⟨k, e, -, -, empty, -⟩ := activateChecked_eq h rec
  rw [e] at rail ⊢
  refine ⟨⟨rail.checked, rail.sound, rail.routes, fun _ sound l => ?_⟩, fun waits law sound l => ?_⟩
  · refine l.activate empty rec (sound mode _ _ rec).1 fun x mem => ?_
    have open_ := free x mem
    simp only [State.sectionFree, Bool.and_eq_true, decide_eq_true_eq] at open_
    exact open_.1.1.1
  · obtain ⟨points, done⟩ := activate_activates law.rising l.points (sound mode _ _ rec).2 k a
    exact l.activate done rail.toInner may

/-! ### The route stack (R106 to R112) -/

theorem putStack_guards {s : State} {l : List StackEntry} (rail : Rail s { s with iu := { s.iu with stack := l } }) :
    Guards s { s with iu := { s.iu with stack := l } } := rail.guards_holds rfl (fun _ => rfl) (.refl _)

theorem askRoute_guards (s : State) (a : RouteAsk) : Guards s (s.askRoute a).1 := by
  unfold State.askRoute
  split
  · exact .refl s
  · next works =>
    have mode := working_not_setup (s := s) (by simpa using works)
    split
    · exact .refl s
    · split
      · next h => exact activateChecked_guards h mode
      · next c i _ =>
        have rail := offer_rail s a c i mode
        have offered : Guards s (s.offer a c i).1 := by
          unfold State.offer at rail ⊢
          split
          · exact .refl s
          · split
            · exact .refl s
            · next new few =>
              rw [if_neg new, if_neg few] at rail
              exact putStack_guards rail
        exact Guards.fst_ite (.refl s) (Guards.fst_ite offered (Guards.fst_ite (.refl s) (.refl s)))

theorem grantEntry_guards {s : State} {e : StackEntry} (u : List Nat) (mem : e ∈ s.iu.stack)
    (h : s.routeCheck e.ask = none) : Guards s (s.grantEntry e u) := by
  have rail := grantEntry_rail s e u mem h
  have base : RouteLaw s → Guards s (s.activateChecked e.ask).1 := fun law =>
    activateChecked_guards h fun m => by rw [(law.setup m).2] at mem; contradiction
  refine ⟨⟨rail.checked, rail.sound, rail.routes, fun law sound l => ?_⟩, fun waits law sound l => ?_⟩
  · exact ((base law).sections law sound l).of_holds rfl (rail.routes law).rising rfl fun _ => rfl
  · exact ((base law).moving waits law sound l).eased rfl (fun _ => id) (.refl _)

theorem retryLoop_guards (n : Nat) (u : List Nat) (s : State) : Guards s (retryLoop n u s) := by
  induction n generalizing u s with
  | zero => exact .refl s
  | succ n ih =>
    unfold retryLoop
    split
    · exact .refl s
    · next e found =>
      dsimp only
      split
      · next h => exact (grantEntry_guards _ (nextTry_mem found) h).trans (ih _ _)
      · exact ih _ _

theorem retryScan_guards (s : State) : Guards s s.retryScan := retryLoop_guards _ _ _

theorem dropStacked_guards (s : State) (n : Nat) : Guards s (s.dropStacked n) := putStack_guards (dropStacked_rail s n)

/-! ### Cancelling (R101 to R105) -/

/-- R104, R105: the sections of a route that are still RESERVED, but for one place. -/
def reservedSections (d : RouteRec) (r : ActiveRoute) (keep : Option Nat) : List Nat :=
  ((d.sections.zip r.marks).zipIdx.filter (fun x => decide (x.1.2 = .reserved ∧ some x.2 ≠ keep))).map (fun x => x.1.1)

theorem map_fst_zip_sublist {α β : Type} (l : List α) (m : List β) : ((l.zip m).map Prod.fst).Sublist l := by
  induction l generalizing m with
  | nil => exact .slnil
  | cons x l ih =>
    cases m with
    | nil => exact List.nil_sublist _
    | cons y m => exact (ih m).cons_cons x

theorem reservedSections_sublist (d : RouteRec) (r : ActiveRoute) (keep : Option Nat) :
    (reservedSections d r keep).Sublist d.sections := by
  have zipped : ((d.sections.zip r.marks).zipIdx.map (fun x => x.1.1)).Sublist d.sections := by
    rw [show (fun x : (Nat × SectionMark) × Nat => x.1.1) = Prod.fst ∘ Prod.fst from rfl, ← List.map_map,
      List.zipIdx_map_fst]
    exact map_fst_zip_sublist _ _
  exact (List.filter_sublist.map _).trans zipped

theorem reservedSections_place {d : RouteRec} {r : ActiveRoute} {keep : Option Nat} {x : Nat}
    (h : x ∈ reservedSections d r keep) : ∃ i : Nat, d.sections[i]? = some x ∧ r.marks[i]? = some .reserved := by
  obtain ⟨⟨⟨y, m⟩, i⟩, mem, rfl⟩ := List.mem_map.1 h
  obtain ⟨there, reserved⟩ := List.mem_filter.1 mem
  obtain ⟨at_, mark⟩ := List.getElem?_zip_eq_some.1 (List.mem_zipIdx_iff_getElem?.1 there)
  exact ⟨i, at_, by rw [mark, (of_decide_eq_true reserved).1]⟩

theorem releaseMark_moving {waits : Nat → Prop} {s : State} (k x : Nat) (law : RouteLaw s) (sound : s.Sound)
    (h : MovingBut waits s) : MovingBut waits (s.releaseMark k x) := by
  rcases releaseMark_cases s k x with e | ⟨r, d, i, lying, route, rec, place, e⟩
  · rw [e]; exact h
  · rw [e]
    have rail := freed_rail route x i
    have unlocked := (Guards.foldl (fun s (x : Nat × Pos) => unlock_guards s x.1) lying (s.freed k x i r)).trans
      (handRelease_guards _)
    exact unlocked.moving waits (rail.routes law) (rail.sound sound) (h.eased rail.plan (fun _ => id) (.refl _))

theorem releaseMarks_moving {waits : Nat → Prop} (k : Nat) (l : List Nat) {s : State} (law : RouteLaw s) (sound : s.Sound)
    (h : MovingBut waits s) : MovingBut waits (l.foldl (fun s x => s.releaseMark k x) s) := by
  induction l generalizing s with
  | nil => exact h
  | cons x l ih =>
    have rail := releaseMark_rail s k x
    exact ih (rail.routes law) (rail.sound sound) (releaseMark_moving k x law sound h)

theorem releaseReserved_guards (s : State) (k : Nat) (keep : Option Nat) : Guards s (s.releaseReserved k keep) := by
  unfold State.releaseReserved
  split
  · exact .refl s
  · next r h =>
    split
    · exact .refl s
    · next d rec =>
      have rail := Rail.foldl (fun s x => releaseMark_rail s k x) (reservedSections d r keep) s
      refine Guards.trans ⟨⟨rail.checked, rail.sound, rail.routes, fun law sound l => ?_⟩,
        fun _ law sound l => releaseMarks_moving k _ law sound l⟩ (retireIfReleased_guards _ k)
      have once : (reservedSections d r keep).Nodup :=
        (List.nodup_append.1 (sound (law.busy h) _ d rec).1).1.sublist (reservedSections_sublist d r keep)
      refine (releaseMarks_guards once fun x mem => ?_).sections law sound l
      obtain ⟨i, place, mark⟩ := reservedSections_place mem
      exact l.held k r d i x _ h rec place mark (by simp)

theorem cancelActive_guards (s : State) (k : Nat) : Guards s (s.cancelActive k).1 := by
  unfold State.cancelActive
  split
  · exact .refl s
  · next r e =>
    split
    · exact retireRoute_guards _ _ _ _
    · exact Guards.fst_ite (retireRoute_guards _ _ _ _) (putRoute_guards s k _ r e rfl)
    · exact .refl s
    · exact releaseReserved_guards _ _ _

theorem cancelParts_guards (s : State) (n : Nat) (drops : Bool) (slot : Option Nat) :
    Guards s (s.cancelParts n drops slot).1 := by
  have base : Guards s (if drops = true then s.dropStacked n else s) := Guards.ite (dropStacked_guards s n) (.refl s)
  unfold State.cancelParts
  cases slot with
  | none => exact base
  | some k => exact base.trans (cancelActive_guards _ _)

theorem reverseRoutes_guards (s : State) (k : Nat) : Guards s (s.reverseRoutes k) := by
  refine Guards.foldl (fun s j => ?_) _ s
  split
  · exact .refl s
  · exact Guards.ite (releaseReserved_guards _ _ _) (.refl s)

theorem approachExpired_guards (s : State) (k : Nat) : Guards s (s.approachExpired k) := by
  unfold State.approachExpired
  split
  · exact .refl s
  · exact Guards.ite (retireRoute_guards _ _ _ _) (.refl s)

/-! ### Entry of a train (R63, R98) -/

/-- R63: a section is reserved as `how` says on the record of its route, which the slot still has. -/
def State.ReservedAs (s : State) (sec : Nat) : Reserved → Prop
  | .own k => ∃ r d, s.route? k = some r ∧ s.routeRec r = some d ∧ s.mark sec = .route k
  | .first k => ∃ r d, s.route? k = some r ∧ s.routeRec r = some d ∧ s.mark sec = .route k ∧ d.sections[0]? = some sec

theorem reservedFor_reserved {s : State} {train sec : Nat} {d : Dir} {how : Reserved} (law : ReservationLaw s)
    (h : s.reservedFor train sec d = some how) : s.ReservedAs sec how := by
  unfold State.reservedFor at h
  split at h
  next k t mine _ =>
    split at h
    · contradiction
    next r route =>
      obtain ⟨d', rec, -⟩ := law.known k r route
      split at h
      · cases h
        exact ⟨r, d', route, rec, mine⟩
      · split at h
        · contradiction
        next def_ rec' =>
          split at h
          next first =>
            cases h
            exact ⟨r, def_, route, rec', mine, by rw [← List.head?_eq_getElem?]; exact first.1⟩
          · contradiction
  · contradiction

/-- R98: a section of a route's record is marked ENTERED. -/
theorem enter_guards {s : State} {k i sec : Nat} {r q : ActiveRoute} {d : RouteRec} (h : s.route? k = some r)
    (rec : s.routeRec r = some d) (place : d.sections[i]? = some sec) (mine : s.mark sec = .route k)
    (route : q.route = r.route) (marks : q.marks = r.marks.set i .entered) : Guards s (s.putRoute k q) := by
  have rail := putRoute_rail s k q r h route
  refine rail.guards (fun law _ l => ?_) (.refl _)
  exact l.entered rfl (rail.routes law).rising h rec place mine (putMarks_holds s route marks) rfl

theorem headEntry_guards {s : State} {train sec : Nat} {how : Reserved} (h : s.ReservedAs sec how) :
    Guards s (s.headEntry train sec how) := by
  unfold State.headEntry
  cases how with
  | own k =>
    obtain ⟨r, d, route, rec, mine⟩ := h
    dsimp only
    rw [route]
    dsimp only
    rw [rec]
    split
    · exact .refl s
    · next i place => exact enter_guards route rec (getElem?_of_placeOf place) mine rfl rfl
  | first k =>
    obtain ⟨r, d, route, rec, mine, head⟩ := h
    dsimp only
    rw [route]
    exact (enter_guards (q := ActiveRoute.enter { r with train := some train, state := .occupied, approach := none } 0)
      route rec head mine rfl rfl).trans (updTrain_guards _ train (fun t => { t with route := some k }))

/-! ### The tick of the Interlocking Unit -/

theorem pulseTick_guards (s : State) (p : Nat) : Guards s (s.pulseTick p) := by
  unfold State.pulseTick
  split
  · exact .refl s
  · exact Guards.ite (endPulse_guards _ _) (putTimers_guards _ _ _ rfl rfl rfl)

theorem throwTick_guards (s : State) (p : Nat) : Guards s (s.throwTick p) := by
  unfold State.throwTick
  split
  · exact .refl s
  · exact Guards.ite (failThrow_guards _ _) (putTimers_guards _ _ _ rfl rfl rfl)

theorem approachTick_guards (s : State) (k : Nat) : Guards s (s.approachTick k) := by
  unfold State.approachTick
  split
  · exact .refl s
  · next r e =>
    split
    · exact .refl s
    · exact Guards.ite (approachExpired_guards _ _) (putRoute_guards s k _ r e rfl)

theorem interlockingTick_guards (s : State) : Guards s s.interlockingTick :=
  ((Guards.foldl (fun s p => (pulseTick_guards s p).trans (throwTick_guards _ p)) _ s).trans
    (Guards.foldl approachTick_guards _ _)).trans (approachTest_guards _)

end Sys2Proof.Machine
end

section
/-! PROOFS. What the Turntable Controller, the Automatic Working Unit and the end of an event keep of the laws of sections and
of moving points (R76, R80). -/
namespace Sys2Proof.Machine

theorem iu_ite {s t u : State} {c : Prop} [Decidable c] (h : t.iu = s.iu) (k : u.iu = s.iu) :
    (if c then t else u).iu = s.iu := by
  split
  · exact h
  · exact k

/-! ### The Turntable Controller writes nothing of the Interlocking Unit -/

@[simp] theorem driveTable_iu (s : State) (a b c : Bool) : (s.driveTable a b c).iu = s.iu := iu_ite rfl rfl

@[simp] theorem driveTurning_iu (s : State) (d : Turning) : (s.driveTurning d).iu = s.iu := driveTable_iu _ _ _ _

@[simp] theorem testSpan_iu (s : State) (k : Nat) : (s.testSpan k).iu = s.iu := by
  unfold State.testSpan State.loseTrain
  repeat' split
  all_goals simp

@[simp] theorem handBack_iu (s : State) (e : TurnReq) : (s.handBack e).iu = s.iu := by
  unfold State.handBack
  repeat' split
  all_goals simp

@[simp] theorem removeTurn_iu (s : State) (i : Nat) : (s.removeTurn i).iu = s.iu := rfl

@[simp] theorem handTurnEnd_iu (s : State) (e : TurnReq) (c : Bool) : (s.handTurnEnd e c).iu = s.iu := rfl

@[simp] theorem endRequest_iu (s : State) (i : Nat) (e : TurnReq) : (s.endRequest i e).iu = s.iu := by
  simp [State.endRequest]

@[simp] theorem becomeLocked_iu (s : State) : s.becomeLocked.iu = s.iu := rfl

@[simp] theorem faultTable_iu (s : State) (n : Nat) : (s.faultTable n).iu = s.iu := by
  unfold State.faultTable
  dsimp only
  split <;> simp

@[simp] theorem grantTurn_iu (s : State) (i : Nat) (e : TurnReq) : (s.grantTurn i e).iu = s.iu := by
  have opened : (s.openGrant i e).iu = s.iu := rfl
  have started : ∀ (u : State) (m : Move), (u.startMove i e m).iu = u.iu := fun u m => by
    unfold State.startMove
    dsimp only
    split <;> simp
  unfold State.grantTurn State.serveTurn
  repeat' split
  all_goals simp [opened, started]

@[simp] theorem arbitrate_iu (s : State) : s.arbitrate.iu = s.iu := by
  have loop : ∀ (n : Nat) (s : State), (arbitrateLoop n s).iu = s.iu := by
    intro n
    induction n with
    | zero => exact fun _ => rfl
    | succ n ih =>
      intro s
      unfold arbitrateLoop
      repeat' split
      all_goals simp [ih]
  exact loop _ s

@[simp] theorem askTurn_iu (s : State) (a : TurnAsk) : (s.askTurn a).1.iu = s.iu := by
  unfold State.askTurn
  split
  · rfl
  · exact arbitrate_iu _

@[simp] theorem dropTurn_iu (s : State) (i : Nat) : (s.dropTurn i).iu = s.iu := iu_ite (s := s) rfl rfl

@[simp] theorem askHome_iu (s : State) (n : Nat) : (s.askHome n).1.iu = s.iu := by
  unfold State.askHome
  dsimp only
  repeat' split
  all_goals simp [State.seek]

@[simp] theorem sensors_iu (s : State) (i h c d : Bool) : (s.sensors i h c d).iu = s.iu := by
  have arrives : ∀ s : State, (s.arrival i h).iu = s.iu := fun s => by
    unfold State.arrival State.engage State.countIndex State.stepIndex
    dsimp only
    repeat' split
    all_goals simp
  have confirmed : ∀ s : State, s.lockConfirmed.iu = s.iu := fun s => by
    unfold State.lockConfirmed
    repeat' split
    all_goals simp
  have dropped : ∀ s : State, s.lockDropped.iu = s.iu := fun s => by
    unfold State.lockDropped State.seek
    repeat' split
    all_goals simp
  simp [State.sensors, apply_ite State.iu, arrives, confirmed, dropped]

@[simp] theorem tableTimeout_iu (s : State) : s.tableTimeout.iu = s.iu := by
  unfold State.tableTimeout
  split <;> simp

@[simp] theorem tableTick_iu (s : State) : s.tableTick.iu = s.iu := by
  unfold State.tableTick
  repeat' split
  all_goals simp

@[simp] theorem tableStops_iu (s : State) : s.tableStops.iu = s.iu := by
  unfold State.tableStops
  split <;> simp

@[simp] theorem tableResumes_iu (s : State) : s.tableResumes.iu = s.iu := by
  unfold State.tableResumes
  dsimp only
  repeat' split
  all_goals simp

theorem arbitrate_guards (s : State) : Guards s s.arbitrate := (arbitrate_rail s).guards_iu (arbitrate_iu s)

theorem askTurn_guards (s : State) (a : TurnAsk) : Guards s (s.askTurn a).1 := (askTurn_rail s a).guards_iu (askTurn_iu s a)

/-! ### The Automatic Working Unit -/

theorem requestGrade_guards (s : State) (k g : Nat) : Guards s (s.requestGrade k g) := updTrain_guards s k _

theorem triggerRoute_guards (s : State) (k r : Nat) : Guards s (s.triggerRoute k r) := by
  unfold State.triggerRoute
  split
  · exact .refl s
  · exact askRoute_guards _ _

theorem putDwell_guards (s : State) (k : Nat) (d : Option (Nat × DwellRec)) : Guards s (s.putDwell k d) :=
  (updTrain_guards s k _).trans (putAwu_guards _ _)

theorem startDwell_guards (s : State) (k n r : Nat) : Guards s (s.startDwell k n r) := by
  unfold State.startDwell
  split
  · exact .refl s
  · exact (putDwell_guards _ _ _).trans (requestGrade_guards _ _ _)

theorem endDwell_guards (s : State) (k : Nat) : Guards s (s.endDwell k) := by
  unfold State.endDwell
  split
  · exact .refl s
  · exact ((requestGrade_guards _ _ _).trans (putDwell_guards _ _ _)).trans (triggerRoute_guards _ _ _)

theorem startCooldown_guards (s : State) (p : Nat) : Guards s (s.startCooldown p) :=
  Guards.ite (.refl s) (putAwu_guards s _)

theorem cancelClearedOf_guards (s : State) (k n : Nat) : Guards s (s.cancelClearedOf k n) := by
  refine Guards.foldl (fun s j => ?_) _ s
  split
  · exact .refl s
  · exact Guards.ite (cancelParts_guards _ _ _ _) (.refl s)

theorem withdrawWaiting_guards (s : State) (n : Nat) : Guards s (s.withdrawWaiting n) := by
  refine (withdrawWaiting_rail s n).guards_iu ?_
  unfold State.withdrawWaiting
  repeat' split
  all_goals simp

theorem endDemo_guards (s : State) (why : DemoEnd) : Guards s (s.endDemo why) := by
  have stopped : ∀ (s : State) (k : Nat), Guards s ((s.requestGrade k 0).putDwell k none) := fun s k =>
    (requestGrade_guards s k 0).trans (putDwell_guards _ k none)
  unfold State.endDemo
  split
  · exact .refl s
  · next d _ =>
    have halted : Guards s (match s.slotOf d.train with
        | none => s
        | some slot => if why = DemoEnd.complete then (s.requestGrade slot 0).putDwell slot none
          else ((s.requestGrade slot 0).putDwell slot none).cancelClearedOf slot d.train) := by
      split
      · exact .refl s
      · exact Guards.ite (stopped s _) ((stopped s _).trans (cancelClearedOf_guards _ _ _))
    have cooled : ∀ u : State, Guards u (((u.startCooldown d.panel).noticeWith .demoEnded d.demo why.detail)) := fun u =>
      (startCooldown_guards u d.panel).trans (putClp_guards _ _)
    exact (((Guards.ite (halted.trans (withdrawWaiting_guards _ d.train)) halted).trans (cooled _)).trans
      (putAwu_guards _ _)).trans (wantAttempt_guards _)

theorem attemptStart_guards (s : State) : Guards s s.attemptStart := by
  have asked : ∀ d : DemoRec, Guards s (s.demoRequest d).1 := fun d => by
    unfold State.demoRequest
    split
    · exact askRoute_guards _ _
    · exact askTurn_guards _ _
  have started : ∀ (u : State) (v : Visitor) (d : DemoRec) (k : Nat), Guards u (u.startDemo v d k) := fun u v d k => by
    unfold State.startDemo
    dsimp only
    refine Guards.trans ?_ (notice_guards _ _ _)
    split
    · exact (putAwu_guards u _).trans (requestGrade_guards _ _ _)
    · exact putAwu_guards u _
  unfold State.attemptStart
  split
  · exact .refl s
  · split
    · exact .refl s
    · split
      · exact .refl s
      · split
        · exact .refl s
        · split
          · exact .refl s
          · exact Guards.ite (Guards.ite ((asked _).trans (started _ _ _ _)) (.refl s)) (.refl s)

theorem turnEnded_guards (s : State) (e : TurnEnd) : Guards s (s.turnEnded e) :=
  Guards.trans (Guards.ite (endDemo_guards _ _) (.refl s)) (wantAttempt_guards _)

theorem press_guards (s : State) (p b : Nat) (r : ButtonRec) : Guards s (s.press p b r) :=
  Guards.ite (.refl s) (Guards.ite (.refl s) (Guards.ite ((putAwu_guards s _).trans (wantAttempt_guards _)) (putAwu_guards s _)))

/-! ### Hand-offs -/

theorem awuTakes_guards (s : State) : Guards s s.awuTakes := by
  unfold State.awuTakes
  split
  · exact (putDue_guards s _).trans (turnEnded_guards _ _)
  · exact (putDue_guards s _).trans (attemptStart_guards _)

theorem iuTakes_guards (s : State) : Guards s s.iuTakes :=
  Guards.ite ((putDue_guards s _).trans (retryScan_guards _)) (putDue_guards s _)

theorem tcTakes_guards (s : State) : Guards s s.tcTakes := (putDue_guards s _).trans (arbitrate_guards _)

theorem settle_guards (n : Nat) (s : State) : Guards s (settle n s) := by
  induction n generalizing s with
  | zero => exact .refl s
  | succ n ih =>
    unfold settle
    exact Guards.ite ((iuTakes_guards s).trans (ih _)) (Guards.ite ((awuTakes_guards s).trans (ih _))
      (Guards.ite ((tcTakes_guards s).trans (ih _)) (.refl s)))

theorem handOn_guards (s : State) : Guards s s.handOn := settle_guards _ _

theorem scanNow_guards (s : State) : Guards s s.scanNow := Guards.ite (iuTakes_guards s) (.refl s)

/-! ### Speeds, aspects, lamps and the port -/

theorem joinUrgent_guards (s : State) (k : Nat) : Guards s (s.joinUrgent k) := Guards.ite (.refl s) (putSs_guards s _)

theorem grant_guards (s : State) (k g : Nat) (x : Train) : Guards s (s.grant k x g) := by
  have base := (putTrain_guards s k { x with granted := g }).trans (joinUrgent_guards _ k)
  exact Guards.ite (base.trans (wantArbitrate_guards _)) base

theorem recompute_guards (s : State) (k : Nat) : Guards s (s.recompute k) := by
  unfold State.recompute
  split
  · exact .refl s
  · exact Guards.ite ((putSs_guards s _).trans (grant_guards _ _ _ _)) (putSs_guards s _)

theorem recomputeAll_guards (s : State) : Guards s s.recomputeAll := Guards.foldl recompute_guards _ s

theorem rampAll_guards (s : State) : Guards s s.rampAll := by
  refine Guards.foldl (fun s k => ?_) _ s
  unfold State.ramp
  split
  · exact .refl s
  · exact Guards.ite ((putSs_guards s _).trans (grant_guards _ _ _ _)) (.refl s)

theorem settleSpeeds_guards (n : Nat) (s : State) : Guards s (settleSpeeds n s) := by
  induction n generalizing s with
  | zero => exact .refl s
  | succ n ih =>
    have base := (handOn_guards s).trans (recomputeAll_guards _)
    exact Guards.ite base (base.trans (ih _))

theorem setOut?_guards (s : State) (b : Option Nat) (v : Bool) : Guards s (s.setOut? b v) := by
  unfold State.setOut?
  split
  · exact .refl s
  · exact setOut_guards _ _ _

theorem showAspect_guards (s : State) (k : Nat) (g : SignalRec) (a : Aspect) : Guards s (s.showAspect k g a) := by
  have shown : Guards s { s with iu := { s.iu with signals := Tab.putD {} s.iu.signals k ⟨a, lampsFor g.kind a⟩ } } :=
    .of_fields rfl rfl rfl (fun _ => id) rfl
  exact ((((shown.trans (setOut_guards _ _ _)).trans (setOut?_guards _ _ _)).trans (setOut?_guards _ _ _)).trans
    (setOut?_guards _ _ _)).trans (setOut?_guards _ _ _)

theorem refreshAspects_guards (s : State) : Guards s s.refreshAspects :=
  Guards.foldl (fun s (g : Nat × SignalRec) => Guards.ite (.refl s) (showAspect_guards s g.1 g.2 _)) _ s

theorem stopSignals_guards (s : State) : Guards s s.stopSignals :=
  Guards.foldl (fun s (g : Nat × SignalRec) => showAspect_guards s g.1 g.2 _) _ s

theorem finish_guards (s : State) (before : List Nat) : Guards s (s.finish before) :=
  (((settleSpeeds_guards _ s).trans (refreshAspects_guards _)).trans
    ((refreshLamps_inner _).guards_iu (refreshLamps_frame _).1)).trans
    ((closePort_rail before _).guards_iu (closePort_frame before _).1)

end Sys2Proof.Machine
end

section
/-! PROOFS. What Train Tracking, the changes of mode and the tick keep of the laws of sections and of moving points (R61 to
R73, R76, R80, R156). -/
namespace Sys2Proof.Machine

/-! ### Tail movement (R68, R70) -/

theorem leavesSpan_guards (s : State) (x : Nat) : Guards s (s.leavesSpan x) := Guards.ite (wantArbitrate_guards s) (.refl s)

theorem tailDeparture_guards (s : State) (x : Nat) : Guards s (s.tailDeparture x) :=
  ((leavesSpan_guards s x).trans (sectionLeft_guards _ _)).trans (scanNow_guards _)

theorem trimSteps_guards (n k : Nat) (s : State) : Guards s (trimSteps n k s) := by
  induction n generalizing s with
  | zero => exact .refl s
  | succ n ih =>
    unfold trimSteps
    split
    · exact .refl s
    · split
      · exact Guards.ite (.refl s) (((putTrain_guards s k _).trans (tailDeparture_guards _ _)).trans (ih _))
      · exact .refl s

theorem trim_guards (s : State) (k : Nat) : Guards s (s.trim k) :=
  (trimSteps_guards _ _ _).trans ((testSpan_rail _ _).guards_iu (testSpan_iu _ _))

theorem dropTail_guards (s : State) (k : Nat) : Guards s (s.dropTail k) := by
  unfold State.dropTail
  split
  · exact .refl s
  · split
    · exact Guards.ite (.refl s) (Guards.ite ((putTrain_guards s k _).trans (leavesSpan_guards _ _))
        ((putTrain_guards s k _).trans (tailDeparture_guards _ _)))
    · exact .refl s

theorem overrun_guards (s : State) (k : Nat) (x : Train) : Guards s (s.overrun k x) :=
  (updTrain_guards s k _).trans (notice_guards _ _ _)

/-! ### Head movement (R64, R98) -/

theorem clearStray_guards (s : State) (x : Nat) : Guards s (s.clearStray x) :=
  Guards.ite ((putTr_guards s _).trans (strayCleared_guards _ _)) (.refl s)

theorem retireRoute_route? {s : State} (law : RouteLaw s) {k j : Nat} {c : Cause} {n : Nat} {r : ActiveRoute}
    (h : (s.retireRoute k c n).route? j = some r) : s.route? j = some r := by
  cases route : s.route? k with
  | none => rwa [retireRoute_absent route] at h
  | some q =>
    obtain ⟨due, e, -⟩ := retireRoute_eq route c n
    rw [e] at h
    change (s.iu.routes.erase k).get? j = some r at h
    by_cases same : j = k
    · rw [same, Tab.get?_erase_same _ _ law.rising] at h
      contradiction
    · rwa [Tab.get?_erase_ne _ same] at h

/-- R103: an approach test leaves no route that was not there. -/
theorem approachTest_route? {s : State} (law : RouteLaw s) {j : Nat} {r : ActiveRoute} (h : s.approachTest.route? j = some r) :
    s.route? j = some r := by
  suffices fewer : ∀ (l : List Nat) (s : State), RouteLaw s → (l.foldl (fun s slot =>
      match s.route? slot with
      | none => s
      | some r => if r.state = .cancelling ∧ s.approachFree r then s.retireRoute slot .routeFailed reasonCancelled else s)
        s).route? j = some r → s.route? j = some r from fewer _ s law h
  intro l
  induction l with
  | nil => exact fun _ _ => id
  | cons k l ih =>
    intro s law h
    rw [List.foldl_cons] at h
    split at h
    next => exact ih s law h
    next q _ =>
      split at h
      · exact retireRoute_route? law (ih _ ((retireRoute_rail s k _ _).routes law) h)
      · exact ih s law h

theorem clearStray_route? {s : State} (law : RouteLaw s) {x j : Nat} {r : ActiveRoute}
    (h : (s.clearStray x).route? j = some r) : s.route? j = some r := by
  unfold State.clearStray at h
  split at h
  · exact approachTest_route? (s := (s.putStray x false).wantScan.wantArbitrate)
      (((putTr_guards s _).trans (wantScan_guards _)).trans (wantArbitrate_guards _) |>.routes law) h
  · exact h

/-- R63: the slot whose route a section is reserved on. -/
def Reserved.slot : Reserved → Nat
  | .own k => k
  | .first k => k

/-- R63: as long as its route is in the table, a section stays reserved for the train as it was. -/
theorem State.ReservedAs.later {s u : State} {sec : Nat} {how : Reserved} (h : s.ReservedAs sec how) (plan : u.plan = s.plan)
    (law : ReservationLaw s) (law' : ReservationLaw u) (fewer : ∀ k r, u.route? k = some r → s.route? k = some r) :
    u.ReservedAs sec how ∨ u.route? how.slot = none := by
  have recs : u.routeRec = s.routeRec := by funext r; rw [State.routeRec, State.routeRec, plan]
  have bears : ∀ {k r d}, u.route? k = some r → s.route? k = some r → s.routeRec r = some d → s.mark sec = .route k →
      u.mark sec = .route k := by
    intro k r d there route rec mine
    obtain ⟨r', d', m, i, route', rec', place, mark, held⟩ := law.backed sec k mine
    obtain rfl : r = r' := Option.some.inj (route.symm.trans route')
    exact law'.held k r d' i sec m there (recs ▸ rec') place mark held
  cases how with
  | own k =>
    obtain ⟨r, d, route, rec, mine⟩ := h
    cases there : u.route? k with
    | none => exact .inr there
    | some q =>
      obtain rfl : r = q := Option.some.inj (route.symm.trans (fewer k q there))
      exact .inl ⟨r, d, there, recs ▸ rec, bears there route rec mine⟩
  | first k =>
    obtain ⟨r, d, route, rec, mine, head⟩ := h
    cases there : u.route? k with
    | none => exact .inr there
    | some q =>
      obtain rfl : r = q := Option.some.inj (route.symm.trans (fewer k q there))
      exact .inl ⟨r, d, there, recs ▸ rec, bears there route rec mine, head⟩

theorem headEntry_absent {s : State} {train sec : Nat} {how : Reserved} (h : s.route? how.slot = none) :
    s.headEntry train sec how = s := by
  unfold State.headEntry
  cases how with
  | own k => dsimp only; rw [show s.route? k = none from h]
  | first k => dsimp only; rw [show s.route? k = none from h]

theorem headEntry_points (s : State) (train sec : Nat) (how : Reserved) :
    (s.headEntry train sec how).iu.points = s.iu.points := by
  unfold State.headEntry
  repeat' split
  all_goals simp [State.putRoute]

/-- R98: the entry of a section that was reserved before other parts of the event. -/
theorem headEntry_later {s u : State} {train sec : Nat} {how : Reserved} (base : Guards s u)
    (reserved : RouteLaw s → ReservationLaw s → ReservationLaw u → u.ReservedAs sec how ∨ u.route? how.slot = none) :
    Guards s (u.headEntry train sec how) := by
  have rail := headEntry_rail u train sec how
  refine ⟨⟨fun c => rail.checked (base.checked c), fun a => rail.sound (base.sound a),
    fun r => rail.routes (base.routes r), fun law sound l => ?_⟩, fun w law sound l => ?_⟩
  · have l' := base.sections law sound l
    rcases reserved law l l' with there | gone
    · exact (headEntry_guards there).sections (base.routes law) (base.sound sound) l'
    · rw [headEntry_absent gone]
      exact l'
  · exact (base.moving w law sound l).eased rail.plan (fun x full => rail.occupied x ▸ full)
      (by rw [headEntry_points]; exact .refl _)

theorem append_guards (s : State) (k : Nat) (t : Train) (sec : Nat) (d : Dir) : Guards s (s.append k t sec d) := by
  have base : Guards s (s.putTrain k { t with span := t.span ++ [sec], dir := d }) := putTrain_guards s k _
  have cleared := base.trans (clearStray_guards _ sec)
  have plan : ((s.putTrain k { t with span := t.span ++ [sec], dir := d }).clearStray sec).plan = s.plan :=
    congrArg PM.plan (clearStray_calm (s.putTrain k { t with span := t.span ++ [sec], dir := d }) sec).pm
  have entered : ∀ {u : State} {how : Reserved}, s.reservedFor k sec d = some how → Guards s u → u.plan = s.plan →
      (∀ j r, RouteLaw s → u.route? j = some r → s.route? j = some r) → Guards s (u.headEntry k sec how) :=
    fun e guards plan fewer => headEntry_later guards fun law l l' =>
      (reservedFor_reserved l e).later plan l l' fun j r => fewer j r law
  have fewer : ∀ j r, RouteLaw s →
      ((s.putTrain k { t with span := t.span ++ [sec], dir := d }).clearStray sec).route? j = some r →
      s.route? j = some r := fun j r law h => clearStray_route? (base.routes law) h
  have arrives : ∀ u : State, Guards u (((u.dropTail k).trim k).scanNow.headArrival k sec) := fun u => by
    refine (((dropTail_guards u k).trans (trim_guards _ k)).trans (scanNow_guards _)).trans ?_
    unfold State.headArrival
    split
    · exact .refl _
    · exact putDue_guards _ _
  unfold State.append
  dsimp only
  refine Guards.trans ?_ (arrives _)
  split
  next how e =>
    split
    · exact entered e (cleared.trans (wantArbitrate_guards _)) plan fewer
    · exact entered e cleared plan fewer
  next => exact (Guards.ite (cleared.trans (wantArbitrate_guards _)) cleared).trans (overrun_guards _ _ _)

/-! ### Section reports (R61, R62, R72, R80) -/

/-- R80: what a part of an event keeps in which the Interlocking Unit takes the reports of the sections that `l` holds of. -/
structure Takes (l : Nat → Prop) (s t : State) : Prop extends Guards s t where
  taken : ∀ waits, RouteLaw s → s.Sound → MovingBut waits s → MovingBut (fun x => waits x ∧ ¬l x) t

theorem MovingBut.mono {waits waits' : Nat → Prop} {s : State} (h : MovingBut waits s) (sub : ∀ x, waits x → waits' x) :
    MovingBut waits' s := ⟨h.points, fun p r rec moves full => sub _ (h.clear p r rec moves full), h.demand⟩

section
variable {s t u : State} {l m : Nat → Prop}

theorem Takes.mono (h : Takes l s t) (sub : ∀ x, m x → l x) : Takes m s t where
  toGuards := h.toGuards
  taken := fun w r a k => (h.taken w r a k).mono fun x => And.imp_right (mt (sub x))

theorem Guards.takes (h : Guards s t) : Takes (fun _ => False) s t where
  toGuards := h
  taken := fun w r a k => (h.moving w r a k).mono fun _ waits => ⟨waits, id⟩

theorem Takes.trans (h : Takes l s t) (k : Takes m t u) : Takes (fun x => l x ∨ m x) s u where
  toGuards := h.toGuards.trans k.toGuards
  taken := fun w r a law => (k.taken _ (h.routes r) (h.sound a) (h.taken w r a law)).mono fun _ waits =>
    ⟨waits.1.1, fun either => either.elim waits.1.2 waits.2⟩

theorem Takes.before (h : Guards s t) (k : Takes m t u) : Takes m s u := (h.takes.trans k).mono fun _ => .inr

theorem Takes.after (h : Takes l s t) (k : Guards t u) : Takes l s u := (h.trans k.takes).mono fun _ => .inl

end

theorem EasesAll.still {t u : Tab Point} (h : EasesAll t u) (w : t.Wf) {p : Nat}
    (still : (Tab.getD {} t p).state.inFlight = false) : (Tab.getD {} u p).state.inFlight = false :=
  Bool.eq_false_iff.2 fun moves => Bool.eq_false_iff.1 still (((h w).2 p moves).1 ▸ moves)

/-- R80: a throw that fails eases the points, and stops its own. -/
theorem failThrow_points {s : State} (w : s.iu.points.Wf) (p : Nat) :
    EasesAll s.iu.points (s.failThrow p).iu.points ∧ ((s.failThrow p).point p).state.inFlight = false := by
  have gone := abandon_abandons w p
  have same : ∀ j, Tab.getD {} (s.abandon p).iu.points j = if j = p then (s.point p).abandoned else s.point j := gone.points
  have abandoned : EasesAll s.iu.points (s.abandon p).iu.points := fun _ => by
    refine ⟨gone.wf, fun j => ?_⟩
    rw [same]
    split
    · exact .of_still rfl
    · exact .refl _
  have still : (Tab.getD {} (s.abandon p).iu.points p).state.inFlight = false := by
    rw [same, if_pos rfl]
    rfl
  rw [failThrow_eq]
  split
  next => exact ⟨abandoned, still⟩
  next k _ =>
    cases route : (s.abandon p).route? k with
    | none => rw [retireRoute_absent route]; exact ⟨abandoned, still⟩
    | some r =>
      obtain ⟨due, e, -⟩ := retireRoute_eq route .routeFailed reasonPoint
      rw [e]
      have eased := easesAll_unlockAll ((s.abandon p).lockedBy r) (s.abandon p).iu.points
      exact ⟨abandoned.trans eased, eased.still gone.wf still⟩

/-- R80: the points of a list, their throws abandoned one after another, stand still. -/
theorem abandonList_points (l : List (Nat × PointRec)) {s : State} (w : s.iu.points.Wf) :
    EasesAll s.iu.points (s.abandonList l).iu.points ∧
      ∀ x ∈ l, ((s.abandonList l).point x.1).state.inFlight = false := by
  induction l generalizing s with
  | nil => exact ⟨.refl _, fun _ h => absurd h List.not_mem_nil⟩
  | cons x l ih =>
    have first : EasesAll s.iu.points (if (s.point x.1).state.inFlight then s.failThrow x.1 else s).iu.points ∧
        ((if (s.point x.1).state.inFlight then s.failThrow x.1 else s).point x.1).state.inFlight = false := by
      split
      next => exact failThrow_points w x.1
      next still => exact ⟨.refl _, Bool.eq_false_iff.2 still⟩
    obtain ⟨eased, still⟩ := first
    have next := (eased w).1
    obtain ⟨rest, all⟩ := ih next
    refine ⟨eased.trans rest, fun y mem => ?_⟩
    rcases List.mem_cons.1 mem with rfl | mem
    · exact rest.still next still
    · exact all y mem

theorem sectionOccupied_takes (s : State) (x : Nat) : Takes (· = x) s (s.sectionOccupied x) where
  toGuards := sectionOccupied_guards s x
  taken := fun waits law sound l => by
    have kept := (sectionOccupied_guards s x).moving waits law sound l
    have rail := sectionOccupied_rail s x
    refine ⟨kept.points, fun p r rec moves full => ⟨kept.clear p r rec moves full, fun here => ?_⟩, kept.demand⟩
    rw [rail.plan] at rec
    have still := (abandonList_points (s.pointsIn x) l.points).2 (p, r)
      (List.mem_filter.2 ⟨rowsGet_mem _ _ _ rec, by simpa using here⟩)
    exact Bool.eq_false_iff.1 still moves

theorem decision_guards (live s : State) (x : Nat) : Guards s (s.decision live x) := by
  unfold State.decision
  split
  · exact Guards.ite (Guards.ite ((putTrain_guards s _ _).trans (Guards.ite (wantArbitrate_guards _) (.refl _)))
      (notice_guards s _ _)) (.refl s)
  · split
    · split
      · exact .refl s
      · exact append_guards _ _ _ _ _
    · exact Guards.ite (.refl s) ((putTr_guards s _).trans (notice_guards _ _ _))

theorem takeOccupied_takes (live s : State) (x : Nat) : Takes (· = x) s (State.takeOccupied live s x) := by
  rw [takeOccupied_eq]
  exact .before ((decision_guards live s x).trans (scanNow_guards _)) ((sectionOccupied_takes _ x).after (scanNow_guards _))

theorem takeAll_takes (live : State) (l : List Nat) (s : State) : Takes (· ∈ l) s (l.foldl (State.takeOccupied live) s) := by
  induction l generalizing s with
  | nil => exact (Guards.refl s).takes.mono fun _ h => absurd h List.not_mem_nil
  | cons x l ih => exact ((takeOccupied_takes live s x).trans (ih _)).mono fun _ => List.mem_cons.1

theorem onePass_takes (live : State) (l : List Nat) (s : State) :
    Takes (fun x => x ∈ l ∧ x ∉ (onePass live l s).2) s (onePass live l s).1 := by
  induction l generalizing s with
  | nil => exact (Guards.refl s).takes.mono fun _ h => absurd h.1 List.not_mem_nil
  | cons x l ih =>
    unfold onePass
    split
    · refine ((takeOccupied_takes live s x).trans (ih _)).mono fun y ⟨mem, left⟩ => ?_
      exact (List.mem_cons.1 mem).imp_right fun mem => ⟨mem, left⟩
    · refine (ih s).mono fun y ⟨mem, left⟩ => ?_
      obtain ⟨other, left⟩ := List.ne_and_not_mem_of_not_mem_cons left
      exact ⟨List.mem_of_ne_of_mem other mem, left⟩

theorem passes_takes (live : State) (n : Nat) (l : List Nat) (s : State) : Takes (· ∈ l) s (passes live n l s) := by
  have either : ∀ {l w : List Nat} {x : Nat}, x ∈ l → (x ∈ l ∧ x ∉ w) ∨ x ∈ w := fun {_ w x} mem => by
    by_cases left : x ∈ w
    · exact .inr left
    · exact .inl ⟨mem, left⟩
  induction n generalizing l s with
  | zero => exact takeAll_takes live l s
  | succ n ih =>
    unfold passes
    dsimp only
    split
    · exact ((onePass_takes live l s).trans (ih _ _)).mono fun _ => either
    · exact ((onePass_takes live l s).trans (takeAll_takes live _ _)).mono fun _ => either

theorem takeClear_guards (s : State) (x : Nat) : Guards s (s.takeClear x) := by
  unfold State.takeClear
  split
  · exact ((clearStray_guards s x).trans (sectionLeft_guards _ _)).trans (scanNow_guards _)
  · exact (trim_guards _ _).trans (scanNow_guards _)

theorem act_guards (s : State) (k id : Nat) (a : Action) : Guards s (s.act k id a) := by
  unfold State.act
  split
  · exact triggerRoute_guards _ _ _
  · exact startDwell_guards _ _ _ _
  · exact requestGrade_guards _ _ _
  · split
    · exact Guards.ite (endDemo_guards _ _) (.refl s)
    · exact .refl s
  · exact notice_guards _ _ _

/-- R61, R80: TR takes a section report, and with it the Interlocking Unit the sections that became occupied. -/
theorem takeReport_takes (s : State) (a b : List Nat) : Takes (· ∈ a) s (s.takeReport a b) := by
  have track : Takes (· ∈ a) s (s.trackReport a b) :=
    (Takes.before (putDue_guards s _) (passes_takes _ _ _ _)).after (Guards.foldl takeClear_guards _ _)
  have arrivals : ∀ u : State, Guards u u.takeArrivals := fun u =>
    (putDue_guards u _).trans (Guards.foldl (fun u (x : Arrival) => (act_guards u x.slot x.trigger x.action).trans
      (handOn_guards _)) _ _)
  exact ((track.after (Guards.ite (.refl _) (handOn_guards _))).after (arrivals _)).after (handOn_guards _)

/-! ### Changes of mode (R156, R159) -/

theorem modePart_guards (old new : Mode) (s : State) (b : Block) : Guards s (State.modePart old new s b) := by
  cases b with
  | tr => exact Guards.ite (Guards.foldl (fun s x => Guards.ite (t := s.putStray x true) (putTr_guards s _) (.refl s)) _ _) (.refl s)
  | iu => exact Guards.ite (retryScan_guards s) (.refl s)
  | ss => exact Guards.ite (putSs_guards s _) (Guards.ite (putSs_guards s _) (.refl s))
  | tc =>
    exact Guards.ite ((tableStops_rail s).guards_iu (tableStops_iu s))
      (Guards.ite ((tableResumes_rail s).guards_iu (tableResumes_iu s)) (.refl s))
  | awu =>
    show Guards s (s.modeForAwu old new)
    unfold State.modeForAwu
    split
    · exact endDemo_guards s _
    · exact (endDemo_guards s _).trans (putAwu_guards _ _)
    · exact Guards.ite (attemptStart_guards s) (.refl s)
    · exact .refl s

/-- R156, R157: a change of mode to any but SETUP, on a valid plan whose routes name nothing twice. -/
theorem changeMode_guards (s : State) (new : Mode) (m : Option Mode) (h : new ≠ .setup)
    (valid : CheckedLaw s → s.pm.valid = true) (distinct : s.Sound → s.plan.Distinct) : Guards s (s.changeMode new m) := by
  have begins : Guards s { s with mc := { s.mc with mode := new, remembered := m } } :=
    { checked := fun checked _ => valid checked
      sound := fun sound _ => distinct sound
      routes := RouteLaw.congr rfl rfl rfl fun e => absurd e h
      sections := fun law _ l => l.of_holds rfl law.rising rfl fun _ => rfl
      moving := fun _ _ _ l => l.eased rfl (fun _ => id) (.refl _) }
  exact (begins.trans (notice_guards _ _ _)).trans (Guards.foldl (modePart_guards _ _) _ _)

theorem requestStop_guards (s : State) : Guards s s.requestStop := by
  have stops : s.mc.mode ≠ .setup → ∀ m, Guards s (s.changeMode .stop m) := fun mode m =>
    changeMode_guards s _ m (by decide) (fun checked => checked mode) fun sound => sound mode
  unfold State.requestStop
  split
  next e => exact stops (by simp [e]) _
  next e => exact stops (by simp [e]) _
  · exact .refl s
  · exact .refl s

/-! ### The tick (R156) -/

theorem expireCab_guards (s : State) (c : Nat) : Guards s (s.expireCab c) :=
  ((Guards.foldl (fun s k => requestGrade_guards s k 0) _ s).trans (notice_guards _ _ _)).trans (putTr_guards _ _)

theorem registerTick_guards (s : State) : Guards s s.registerTick := by
  refine Guards.foldl (fun s c => ?_) _ s
  unfold State.keepAliveTick
  split
  · exact Guards.ite (expireCab_guards s c) (putTr_guards s _)
  · exact .refl s

theorem consoleTick_guards (s : State) (raw : ConsoleLevels) : Guards s (s.consoleTick raw) := by
  have acts : ∀ (s : State) (c : Nat) (a b : ConsoleLine), Guards s (s.lineActs c a b).handOn := fun s c a b => by
    refine Guards.trans (Guards.ite (Guards.ite (requestStop_guards s) ?_) (.refl s)) (handOn_guards _)
    exact Guards.ite (putAwu_guards s _) (Guards.ite ((endDemo_guards s _).trans (putAwu_guards _ _)) (.refl s))
  exact (((putAwu_guards s _).trans (acts _ _ _ _)).trans (acts _ _ _ _)).trans (acts _ _ _ _)

theorem awuTick_guards (s : State) (raw : ConsoleLevels) : Guards s (s.awuTick raw) := by
  have dwell : ∀ (s : State) (k : Nat), Guards s (s.dwellTick k) := fun s k => by
    unfold State.dwellTick
    split
    · exact Guards.ite ((endDwell_guards s k).trans (handOn_guards _)) (putDwell_guards s k _)
    · exact .refl s
  have demo : ∀ s : State, Guards s s.demoTick := fun s => by
    unfold State.demoTick
    split
    · exact .refl s
    · exact Guards.ite ((endDemo_guards s _).trans (handOn_guards _)) (putAwu_guards s _)
  have view : ∀ (s : State) (b : Nat) (v : List BoardLine), Guards s (s.showView b v) := fun s b v =>
    Guards.ite (.refl s) ((putAwu_guards s _).trans (notice_guards _ _ _))
  have boards : ∀ s : State, Guards s s.refreshBoards := fun s =>
    Guards.ite (Guards.foldl (fun s (b : Nat × BoardRec) => view s b.1 _) _ s)
      (Guards.ite (.refl s) (Guards.foldl (fun s (b : Nat × BoardRec) => view s b.1 _) _ s))
  have flash : ∀ s : State, Guards s s.flashLamps := fun s =>
    Guards.foldl (fun s (b : Nat × ButtonRec) => Guards.ite (setOut_guards s _ _) (.refl s)) _ s
  have base := (Guards.foldl (f := State.cooldownTick) (fun s p => putAwu_guards s _) s.awu.cooldown.keys s).trans
    (consoleTick_guards _ raw)
  exact (((Guards.ite (base.trans (Guards.foldl dwell _ _)) base).trans (demo _)).trans (flash _)).trans (boards _)

theorem tick_guards (s : State) (raw : ConsoleLevels) : Guards s (s.tick raw) := by
  have part : ∀ (s : State) (b : Block), Guards s (s.tickPart raw b) := fun s b => by
    cases b with
    | tr => exact registerTick_guards s
    | iu => exact (interlockingTick_guards s).trans (handOn_guards _)
    | tc => exact ((tableTick_rail s).guards_iu (tableTick_iu s)).trans (handOn_guards _)
    | awu => exact awuTick_guards s raw
    | ss => exact (recomputeAll_guards s).trans (rampAll_guards _)
  have counted : Guards s { s with mc := { s.mc with ticks := s.mc.ticks + 1 } } := .of_fields rfl rfl rfl (fun _ => id) rfl
  exact (counted.trans (Guards.foldl part _ _)).trans (finish_guards _ _)

end Sys2Proof.Machine
end

section
/-! PROOFS. What the requests that leave the plan alone keep of the laws of routes, of sections and of moving points (R45 to
R58, R75, R76, R80, R82, R89, R101, R128 to R148, R157). -/
namespace Sys2Proof.Machine

/-! ### Train Register -/

theorem dropHandle_guards (s : State) (o : Owner) : Guards s (s.dropHandle o) := by
  rw [dropHandle_frame]
  exact putTr_guards s _

theorem giveToCab_guards (s : State) (k c : Nat) : Guards s (s.giveToCab k c) := by
  rw [giveToCab_frame]
  exact putTr_guards s _

theorem giveTo_guards (s : State) (k : Nat) (x : Train) (o : Owner) : Guards s (s.giveTo k x o) :=
  (dropHandle_guards s _).trans (updTrain_guards _ _ _)

theorem putSpeed_guards (s : State) (k : Nat) (r : SpeedRec) : Guards s (s.putSpeed k r) := putSs_guards s _

theorem ownEnterTrain_guards (s : State) (st : Nat) (a : EnterAsk) : Guards s (ownEnterTrain s st a).1 := by
  have entered : ∀ k, Guards s (s.enter st k a) := fun k => by
    have put : ∀ o, Guards s (s.putTrain k (a.train o)) := fun o => putTrain_guards s k _
    have given : ∀ o, Guards s (if st ≠ 0 then (s.putTrain k (a.train o)).giveToCab k st else s.putTrain k (a.train o)) :=
      fun o => Guards.ite ((put o).trans (giveToCab_guards _ _ _)) (put o)
    have cleared : ∀ u : State, Guards u (a.span.foldl State.clearStray ((u.putSpeed k {}).joinUrgent k)) := fun u =>
      ((putSpeed_guards u k {}).trans (joinUrgent_guards _ k)).trans (Guards.foldl clearStray_guards _ _)
    exact Guards.ite (((given _).trans (cleared _)).trans (wantArbitrate_guards _)) ((given _).trans (cleared _))
  unfold ownEnterTrain
  split
  · exact .refl s
  · exact entered _

theorem stackNotices_frame (l : List StackEntry) (u : State) : ∃ clp,
    l.foldl (fun s e => s.notice .stackDropped e.route) u = { u with clp := clp } := by
  induction l generalizing u with
  | nil => exact ⟨u.clp, rfl⟩
  | cons e l ih =>
    obtain ⟨clp, frame⟩ := ih (u.notice .stackDropped e.route)
    exact ⟨clp, by rw [List.foldl_cons, frame]; rfl⟩

/-- R47: routes become unassigned, and stack entries are dropped. -/
theorem retireFromIu_guards (s : State) (k n : Nat) : Guards s (s.retireFromIu k n) := by
  have routes := (retireFromIu_keeps s k n).routes
  unfold State.retireFromIu at routes ⊢
  dsimp only at routes ⊢
  obtain ⟨clp, frame⟩ := stackNotices_frame (s.iu.stack.filter (fun e => decide (e.train = some n))) { s with iu := { s.iu with
    routes := ⟨s.iu.routes.rows.map (fun r => (r.1, if r.2.train = some k then { r.2 with train := none } else r.2))⟩,
    stack := s.iu.stack.filter (fun e => !decide (e.train = some n)) } }
  rw [frame] at routes ⊢
  refine ⟨⟨id, id, routes, fun law _ l => l.of_holds rfl (routes law).rising rfl fun j => ?_⟩,
    fun _ _ _ l => l.eased rfl (fun _ => id) (.refl _)⟩
  unfold State.route? Tab.get?
  dsimp only
  rw [rowsGet_map (fun r : ActiveRoute => if r.train = some k then { r with train := none } else r), Option.map_map]
  congr 1
  funext r
  dsimp only [Function.comp]
  split <;> rfl

theorem retirePart_guards (k n : Nat) (s : State) (b : Block) : Guards s (State.retirePart k n s b) := by
  cases b with
  | tr => exact .refl s
  | iu => exact retireFromIu_guards _ _ _
  | ss => exact putSs_guards s _
  | tc =>
    refine (dropTurnsOf_rail s n).guards_iu ?_
    unfold State.dropTurnsOf
    split
    · rfl
    · exact dropTurn_iu _ _
  | awu => exact Guards.ite ((putAwu_guards s _).trans (endDemo_guards _ _)) (putAwu_guards s _)

theorem ownRetireTrain_guards (s : State) (st ref : Nat) : Guards s (ownRetireTrain s st ref).1 := by
  have record : ∀ k x, Guards s (s.retireRecord k x) := fun k x =>
    ((dropHandle_guards s _).trans (putTr_guards _ _)).trans
      (Guards.foldl (fun s y => Guards.ite (t := s.putStray y true) (putTr_guards s _) (sectionLeft_guards s y)) _ _)
  have retired : ∀ k x, Guards s (s.retire k x) := fun k x => by
    have base := (record k x).trans (Guards.foldl (retirePart_guards k x.number) (fullOrder s.order) _)
    exact Guards.ite (base.trans (wantArbitrate_guards _)) base
  unfold ownRetireTrain
  split
  · exact .refl s
  · split
    · exact .refl s
    · refine Guards.fst_ite (.refl s) (Guards.fst_ite (.refl s) ?_)
      split
      · exact .refl s
      · exact retired _ _

theorem ownAcquireTrain_guards (s : State) (st : Nat) (a : Nat × Nat) : Guards s (ownAcquireTrain s st a).1 := by
  unfold ownAcquireTrain
  split
  · exact .refl s
  · split
    · exact .refl s
    · split
      · exact .refl s
      · split
        · exact giveTo_guards s _ _ _
        · split
          · split
            · exact .refl s
            · exact giveToCab_guards s _ _
          · split <;> exact .refl s
          · exact .refl s
          · exact .refl s

theorem ownReleaseTrain_guards (s : State) (st ref : Nat) : Guards s (ownReleaseTrain s st ref).1 := by
  unfold ownReleaseTrain
  split
  · exact .refl s
  · split
    · exact .refl s
    · exact (giveTo_guards s _ _ _).trans (requestGrade_guards _ _ _)

theorem ownSetSpeed_guards (s : State) (st : Nat) (a : Nat × Nat) : Guards s (ownSetSpeed s st a).1 := by
  unfold ownSetSpeed
  split
  · exact .refl s
  · exact requestGrade_guards s _ _

theorem ownReverseTrain_guards (s : State) (st ref : Nat) : Guards s (ownReverseTrain s st ref).1 := by
  have reversed : ∀ k x, Guards s (s.reverse k x) := fun k x => by
    have turned : ∀ (u : State) (y : Train), Guards u (((u.putTrain k y).reverseRoutes k).joinUrgent k) := fun u y =>
      ((putTrain_guards u k y).trans (reverseRoutes_guards _ k)).trans (joinUrgent_guards _ k)
    have counted : Guards s { s with freeCount := s.freeCount + 1 } := .of_fields rfl rfl rfl (fun _ => id) rfl
    unfold State.reverse
    dsimp only
    split
    · exact counted.trans (turned _ _)
    · exact turned s _
  unfold ownReverseTrain
  split
  · exact .refl s
  · split
    · exact .refl s
    · exact Guards.fst_ite (.refl s) (Guards.fst_ite (.refl s) (reversed _ _))

theorem forSelected_guards (s : State) (st : Nat) (sel : Nat × Nat) (act : State → Nat → State)
    (h : ∀ s k, Guards s (act s k)) : Guards s (s.forSelected st sel act).1 := by
  unfold State.forSelected
  split
  · exact .refl s
  · exact Guards.foldl h _ s

theorem holdTrain_guards (held : Bool) (s : State) (k : Nat) : Guards s (State.holdTrain held s k) := by
  have put : ∀ t x, Guards s (s.toState k t x) := fun t x =>
    (putTrain_guards s k _).trans (Guards.ite (wantArbitrate_guards _) (.refl _))
  unfold State.holdTrain
  split
  · exact .refl s
  · split
    · exact Guards.ite (put _ _) (.refl s)
    · exact Guards.ite (.refl s) (put _ _)
    · exact setTc_guards s _
    · exact .refl s

theorem ownSetAuto_guards (s : State) (st : Nat) (a : (Nat × Nat) × Nat) : Guards s (ownSetAuto s st a).1 := by
  unfold ownSetAuto
  split
  · exact .refl s
  · exact forSelected_guards s st _ _ fun s k => updTrain_guards s k _

theorem ownSeekTrain_guards (s : State) (st n : Nat) : Guards s (ownSeekTrain s st n).1 :=
  Guards.fst_ite (.refl s) (putTr_guards s _)

theorem ownReadTrainField_guards (s : State) (st n : Nat) : Guards s (ownReadTrainField s st n).1 :=
  Guards.fst_ite (.refl s) (putTr_guards s _)

theorem ownReadTrainRecord_guards (s : State) (st : Nat) (u : Unit) : Guards s (ownReadTrainRecord s st u).1 := by
  unfold ownReadTrainRecord
  dsimp only
  split
  · exact putTr_guards s _
  · exact putTr_guards s _

/-! ### Interlocking Unit -/

theorem ownSetRoute_guards (s : State) (st : Nat) (a : Nat × Nat × Nat × Bool) : Guards s (ownSetRoute s st a).1 := by
  unfold ownSetRoute
  split
  · exact .refl s
  · exact askRoute_guards _ _

theorem ownCancelRoute_guards (s : State) (st n : Nat) : Guards s (ownCancelRoute s st n).1 :=
  Guards.fst_ite (.refl s) (Guards.fst_ite (.refl s) (Guards.fst_ite (.refl s) (Guards.fst_ite (.refl s)
    (cancelParts_guards _ _ _ _))))

theorem clearPointFault_guards (s : State) (p : Nat) (r : PointRec) : Guards s (s.clearPointFault p r) := by
  have cleared : Guards s (s.putPoint p { s.point p with
      fault := false, state := match s.detected r with | some q => q.settled | none => (s.point p).state }) := by
    cases s.detected r with
    | none => exact putTimers_guards s p _ rfl rfl rfl
    | some q => exact putStill_guards s p _ (settled_not_inFlight q)
  exact Guards.ite (cleared.trans (wantScan_guards _)) (.refl s)

theorem ownClearFault_guards (s : State) (st : Nat) (a : Nat × Nat) : Guards s (ownClearFault s st a).1 := by
  have field : Guards s { s with fs := { s.fs with fieldFault := false } } := .of_fields rfl rfl rfl (fun _ => id) rfl
  refine Guards.fst_ite (.refl s) (Guards.fst_ite (Guards.fst_ite (.refl s) ?_) (Guards.fst_ite
    (Guards.fst_ite (.refl s) ?_) (Guards.ite (.refl s) field)))
  · split
    · exact .refl s
    · exact clearPointFault_guards _ _ _
  · split
    · exact .refl s
    · exact updTrain_guards s _ _

/-! ### Turntable Controller and Automatic Working Unit -/

theorem askHome_guards (s : State) (n : Nat) : Guards s (s.askHome n).1 := (askHome_rail s n).guards_iu (askHome_iu s n)

theorem ownTurn_guards (s : State) (st : Nat) (a : Nat × Nat × Nat × Bool × Nat) : Guards s (ownTurn s st a).1 := by
  unfold ownTurn
  split
  · exact .refl s
  · split
    · exact .refl s
    · exact askTurn_guards _ _

theorem ownWithdrawTurn_guards (s : State) (st : Nat) (a : WithdrawAsk) : Guards s (ownWithdrawTurn s st a).1 := by
  unfold ownWithdrawTurn
  split
  · exact .refl s
  · exact .refl s
  · split
    · exact .refl s
    · exact Guards.fst_ite (.refl s) (Guards.fst_ite (.refl s) ((dropTurn_rail _ _).guards_iu (dropTurn_iu _ _)))

theorem admitDemo_guards (s : State) (v : Visitor) : Guards s (s.admitDemo v) :=
  Guards.ite ((putAwu_guards s _).trans (wantAttempt_guards _)) (putAwu_guards s _)

theorem ownStartDemo_guards (s : State) (st n : Nat) : Guards s (ownStartDemo s st n).1 := by
  unfold ownStartDemo
  split
  · exact .refl s
  · refine Guards.fst_ite (.refl s) ?_
    split
    · exact .refl s
    · exact Guards.fst_ite (.refl s) (admitDemo_guards s _)

theorem ownStopDemo_guards (s : State) (st n : Nat) : Guards s (ownStopDemo s st n).1 := by
  unfold ownStopDemo
  split
  · exact .refl s
  · exact Guards.fst_ite (endDemo_guards _ _)
      (Guards.fst_ite (Guards.ite ((putAwu_guards s _).trans (wantAttempt_guards _)) (putAwu_guards s _)) (.refl s))

/-! ### Mode Control -/

theorem ownGoQuiet_guards (s : State) (st : Nat) (u : Unit) : Guards s (ownGoQuiet s st u).1 := by
  unfold ownGoQuiet
  refine Guards.fst_ite (.refl s) ?_
  split
  next => exact .refl s
  next running =>
    have mode : s.mc.mode ≠ .setup := by simp [running]
    exact changeMode_guards s .quiet none (by decide) (fun checked => checked mode) fun sound => sound mode
  next => exact .refl s
  next => exact .refl s

theorem ownStopAll_guards (s : State) (st : Nat) (u : Unit) : Guards s (ownStopAll s st u).1 :=
  Guards.fst_ite (.refl s) (requestStop_guards s)

/-- R156, R157: a RESUME returns to the mode remembered, which the law of the modes has RUN or QUIET. -/
theorem ownResume_guards (s : State) (st : Nat) (u : Unit) (modes : ModeLaw s) : Guards s (ownResume s st u).1 := by
  refine Guards.fst_ite (.refl s) ?_
  split
  next => exact .refl s
  next stopped =>
    have stopped : s.mc.mode = .stop := by simpa using stopped
    have mode : s.mc.mode ≠ .setup := by simp [stopped]
    have known : s.mc.remembered.getD .run ≠ .setup := by
      rcases modes.1 stopped with e | e <;> simp [e]
    exact Guards.fst_ite (.refl s)
      (changeMode_guards s _ none known (fun checked => checked mode) fun sound => sound mode)

end Sys2Proof.Machine
end

section
/-! PROOFS. What every command keeps of the laws of routes, of sections and of moving points (R75, R76, R80, R157). -/
namespace Sys2Proof.Machine

/-! ### The laws over a whole command -/

/-- What a command, or the first part of one, keeps of the laws on a plan that meets its own. -/
structure Lawful (s t : State) : Prop where
  routes : RouteLaw s → RouteLaw t
  checked : PlanLaw s → CheckedLaw s → CheckedLaw t
  sound : PlanLaw s → s.Sound → t.Sound
  sections : PlanLaw s → RouteLaw s → s.Sound → ReservationLaw s → ReservationLaw t
  moving : PlanLaw s → RouteLaw s → s.Sound → s.mc.mode ≠ .setup → ChainLaw s → MovingLaw s → MovingLaw t

section
variable {s t u : State}

theorem Guards.movingLaw (h : Guards s t) (law : RouteLaw s) (sound : s.Sound) (moving : MovingLaw s) : MovingLaw t :=
  (movingLaw_iff t).2 (h.moving _ law sound ((movingLaw_iff s).1 moving))

/-- A part of a command that keeps the laws where the plan meets its own. -/
theorem Lawful.of_plan (routes : RouteLaw s → RouteLaw t) (h : PlanLaw s → Guards s t) : Lawful s t where
  routes := routes
  checked := fun p => (h p).checked
  sound := fun p => (h p).sound
  sections := fun p => (h p).sections
  moving := fun p r a _ _ => (h p).movingLaw r a

theorem Guards.lawful (h : Guards s t) : Lawful s t := .of_plan h.routes fun _ => h

theorem Lawful.after (h : Lawful s t) (k : Guards t u) : Lawful s u where
  routes := fun r => k.routes (h.routes r)
  checked := fun p c => k.checked (h.checked p c)
  sound := fun p a => k.sound (h.sound p a)
  sections := fun p r a l => k.sections (h.routes r) (h.sound p a) (h.sections p r a l)
  moving := fun p r a m c l => k.movingLaw (h.routes r) (h.sound p a) (h.moving p r a m c l)

/-- The plan, the mode and the Field Scanner are still as they were. -/
theorem Lawful.before (h : Guards s t) (pm : t.pm = s.pm) (mc : t.mc = s.mc) (fs : t.fs = s.fs) (k : Lawful t u) :
    Lawful s u := by
  have plan : PlanLaw s → PlanLaw t := by
    unfold PlanLaw State.plan
    rw [pm]
    exact id
  have chain : ChainLaw s → ChainLaw t := fun c => by
    refine ⟨by rw [fs]; exact c.kept, ?_⟩
    unfold State.plan
    rw [mc, pm]
    exact c.reach
  exact
    { routes := fun r => k.routes (h.routes r)
      checked := fun p c => k.checked (plan p) (h.checked c)
      sound := fun p a => k.sound (plan p) (h.sound a)
      sections := fun p r a l => k.sections (plan p) (h.routes r) (h.sound a) (h.sections r a l)
      moving := fun p r a m c l =>
        k.moving (plan p) (h.routes r) (h.sound a) (mc ▸ m) (chain c) (h.movingLaw r a l) }

theorem Lawful.fst_ite {x y : State × Answer} {c : Prop} [Decidable c] (h : Lawful s x.1) (k : Lawful s y.1) :
    Lawful s (if c then x else y).1 := by
  split
  · exact h
  · exact k

theorem Lawful.refl (s : State) : Lawful s s := (Guards.refl s).lawful

/-- In SETUP there is no route, and the law of moving points is not asked. -/
theorem Lawful.in_setup (before : s.mc.mode = .setup) (after : t.mc.mode = .setup) (routes : RouteLaw s → RouteLaw t)
    (marks : t.iu.marks = s.iu.marks) : Lawful s t where
  routes := routes
  checked := fun _ _ m => absurd after m
  sound := fun _ _ m => absurd after m
  sections := fun _ r _ l => by
    have none : ∀ {u : State}, RouteLaw u → u.mc.mode = .setup → ∀ k q, u.route? k ≠ some q := fun law m k q e =>
      law.busy e m
    have away : ∀ k q, t.route? k ≠ some q := none (routes r) after
    refine ⟨(routes r).rising, marks ▸ l.marks, fun k q e => absurd e (away k q), fun k q _ _ _ _ e => absurd e (away k q),
      fun k q _ _ e => absurd e (away k q), fun sec k e => ?_, fun sec k e => ?_⟩
    · obtain ⟨q, -, -, -, e, -⟩ := l.backed sec k (by rw [State.mark, ← marks]; exact e)
      exact absurd e (none r before k q)
    · obtain ⟨q, -, e, -⟩ := l.backedOverlap sec k (by rw [State.mark, ← marks]; exact e)
      exact absurd e (none r before k q)
  moving := fun _ _ _ m => absurd before m

/-- A start of the Interlocking Unit from nothing, in SETUP. -/
theorem Lawful.of_start (mode : t.mc.mode = .setup) (iu : t.iu = {}) : Lawful s t where
  routes := fun _ => by
    refine ⟨?_, ?_, ?_, ?_, ?_, ?_, fun _ => ?_⟩
    all_goals simp [iu, Tab.empty_wf, Tab.keys, State.entrySignal, State.route?, Tab.get?, rowsGet]
  checked := fun _ _ m => absurd mode m
  sound := fun _ _ m => absurd mode m
  sections := fun _ _ _ _ => by
    have routes : ∀ k q, t.route? k ≠ some q := fun k q e => by
      rw [State.route?, iu] at e
      contradiction
    have marks : ∀ x, t.mark x = .free := fun x => by rw [State.mark, iu]; rfl
    refine ⟨by rw [iu]; exact Tab.empty_wf, by rw [iu]; exact Tab.empty_wf, fun k q e => absurd e (routes k q),
      fun k q _ _ _ _ e => absurd e (routes k q), fun k q _ _ e => absurd e (routes k q), fun x k e => ?_, fun x k e => ?_⟩
    · rw [marks] at e
      contradiction
    · rw [marks] at e
      contradiction
  moving := fun _ _ _ _ _ _ => by
    have still : ∀ p, t.point p = {} := fun p => by rw [State.point, iu]; rfl
    refine ⟨by rw [iu]; exact Tab.empty_wf, fun p r _ moves => ?_, fun p q r _ moves => ?_⟩
    · rw [still] at moves
      contradiction
    · rw [still] at moves
      have flies := inFlight_moving q
      rw [← moves] at flies
      contradiction

end

/-! ### Frames (R163) -/

theorem openFrame_guards (s : State) (f : Frame) : Guards s (s.openFrame f) := .of_fields rfl rfl rfl (fun _ => id) rfl

theorem reportStation_guards (s : State) (n : Nat) : Guards s (s.reportStation n) :=
  Guards.ite (.refl s) (by
    show Guards s (s.restartKeepAlive n)
    exact Guards.ite (.refl s) (putTr_guards s _))

/-- A request keeps the laws that its owner's answer and the closing of its event keep. -/
theorem takeFrame_lawful {α : Type} {s : State} {code : Nat} {f : Frame} {p : Parse α}
    {owner : State → Nat → α → State × Answer} {close : State → State}
    (own : ∀ a, Lawful (s.openFrame f) (owner (s.openFrame f) f.station.toNat a).1) (c : ∀ u, Guards u (close u)) :
    Lawful s (s.takeFrame code f p owner close) := by
  have base := openFrame_guards s f
  have answered : ∀ x : State × Answer, Lawful (s.openFrame f) x.1 →
      Lawful s (State.answered code f.station.toNat close x) := fun x h => by
    have opened : Lawful s x.1 := .before base rfl rfl rfl h
    unfold State.answered
    split
    · exact (opened.after (reportStation_guards _ _)).after (putClp_guards _ _)
    · exact ((opened.after (c _)).after (reportStation_guards _ _)).after (putClp_guards _ _)
  have held : Lawful s { s.openFrame f with clp := { s.clp with dropped := true } } := (base.trans (putClp_guards _ _)).lawful
  unfold State.takeFrame State.handFrame
  dsimp only
  split
  · exact base.lawful
  · split
    · exact held
    · split
      · exact (base.trans (putClp_guards _ _)).lawful
      · split
        · exact (base.trans (putClp_guards _ _)).lawful
        · exact answered _ (own _)

theorem takeRequest_lawful {α : Type} {s : State} {code : Nat} {f : Frame} {p : Parse α}
    {owner : State → Nat → α → State × Answer} (own : ∀ u st a, Lawful u (owner u st a).1) :
    Lawful s (s.takeRequest code f p owner) :=
  takeFrame_lawful (fun _ => own _ _ _) fun u => finish_guards u _

theorem takeQuery_lawful {α : Type} {s : State} {code : Nat} {f : Frame} {p : Parse α}
    {owner : State → Nat → α → State × Answer} (own : ∀ u st a, Lawful u (owner u st a).1) :
    Lawful s (s.takeQuery code f p owner) :=
  takeFrame_lawful (fun _ => own _ _ _) .refl

/-- A request that leaves the plan alone, with its hand-offs. -/
theorem takeRequest_guards {α : Type} {s : State} {code : Nat} {f : Frame} {p : Parse α}
    {owner : State → Nat → α → State × Answer} (own : ∀ u st a, Guards u (owner u st a).1) :
    Lawful s (s.takeRequest code f p owner) := takeRequest_lawful fun u st a => (own u st a).lawful

/-- A request that hands nothing on. -/
theorem takeQuery_guards {α : Type} {s : State} {code : Nat} {f : Frame} {p : Parse α}
    {owner : State → Nat → α → State × Answer} (own : ∀ u st a, Guards u (owner u st a).1) :
    Lawful s (s.takeQuery code f p owner) := takeQuery_lawful fun u st a => (own u st a).lawful

/-- A request that only reads. -/
theorem takeQuery_reads {α : Type} {s : State} {code : Nat} {f : Frame} {p : Parse α}
    {owner : State → Nat → α → State × Answer} (own : ∀ u st a, (owner u st a).1 = u) :
    Lawful s (s.takeQuery code f p owner) := takeQuery_lawful fun u st a => by rw [own]; exact .refl u

/-! ### POINT TEST, GO RUN and RESET LAYOUT (R90, R157, R160) -/

theorem ownPointTest_lawful (s : State) (st : Nat) (a : Nat × Nat) : Lawful s (ownPointTest s st a).1 := by
  unfold ownPointTest
  refine .fst_ite (.refl s) ?_
  split
  next => exact .refl s
  next setup =>
    have setup : s.mc.mode = .setup := by simpa using setup
    have commanded : ∀ q, Lawful s (s.command a.1 q) := fun q => by
      have rail := command_rail s a.1 q
      obtain ⟨image, frame⟩ := command_frame s a.1 q
      exact .in_setup setup (by rw [rail.mc, setup]) rail.routes (by rw [frame])
    refine .fst_ite (.refl s) ?_
    split
    next => exact .refl s
    next q _ =>
      split
      next => exact .refl s
      next => exact .fst_ite (.refl s) (.fst_ite (.refl s) (.fst_ite (.refl s) (.fst_ite (.refl s) (commanded q))))

theorem ownGoRun_lawful (s : State) (st : Nat) (u : Unit) : Lawful s (ownGoRun s st u).1 := by
  refine .of_plan (ownGoRun_keeps s st u).routes fun plan => ?_
  have go := fun valid distinct => changeMode_guards s .run none (by decide) valid distinct
  refine Guards.fst_ite (.refl s) ?_
  split
  next =>
    split
    next valid => exact go (fun _ => valid) fun _ => distinct_of_check (plan valid)
    next => exact .refl s
  next => exact .refl s
  next quiet =>
    have mode : s.mc.mode ≠ .setup := by simp [quiet]
    exact go (fun checked => checked mode) fun sound => sound mode
  next => exact .refl s

theorem ownResetLayout_lawful (s : State) (st : Nat) (u : Unit) : Lawful s (ownResetLayout s st u).1 := by
  refine .fst_ite (.refl s) ?_
  show Lawful s s.resetLayout
  have start : Lawful s { s with
      fs := s.fs.reset, tr := {}, iu := {}, ss := s.ss.reset, tc := s.tc.reset, awu := s.awu.reset,
      mc := { s.mc with mode := .setup, remembered := none }, clp := s.clp.reset, due := {} } := .of_start rfl rfl
  exact (start.after (stopSignals_guards _)).after (Guards.foldl (fun s (r : Nat × PointRec) => detection_guards s r.1) _ _)

theorem powerUp_lawful (s : State) : Lawful s s.powerUp := by
  rw [powerUp_eq]
  exact .of_start rfl rfl

/-! ### Plan Memory (R15, R18, R19, R21, R22) -/

theorem clearOuts_iu (s : State) (l : List Nat) : (s.clearOuts l).iu = s.iu :=
  foldl_keeps State.iu (f := fun s b => s.setOut b false) (fun _ _ => rfl) l s

/-- R15, R18: output bits cleared and the tables rewritten, in SETUP. -/
theorem rewriteTables_routes {s : State} (setup : s.mc.mode = .setup) (l : List Nat) (p : Plan) :
    RouteLaw s → RouteLaw ((s.clearOuts l).putPlan p) := fun law =>
  (putPlan_keeps _ p (by rw [(clearOuts_rail s l).mc, setup])).routes ((clearOuts_rail s l).routes law)

theorem rewriteTables_lawful {s : State} (setup : s.mc.mode = .setup) (l : List Nat) (p : Plan) :
    Lawful s ((s.clearOuts l).putPlan p) :=
  .in_setup setup (congrArg MC.mode (clearOuts_rail s l).mc |>.trans setup) (rewriteTables_routes setup l p)
    (congrArg IU.marks (clearOuts_iu s l))

theorem planChanged_guards (s : State) (kind key : Nat) (old new : Option Record) :
    Guards s (s.planChanged kind key old new) := by
  have stopped : Guards s (s.stopPulse key old) := by
    unfold State.stopPulse
    split
    · exact setOut_guards _ _ _
    · exact .refl s
  have reset : ∀ k, Guards s ((if s.keepsPulse key old new then s else s.stopPulse key old).resetPoint key k) := fun k =>
    (Guards.ite (.refl s) stopped).trans (putStill_guards _ _ _ rfl)
  unfold State.planChanged
  split
  · dsimp only
    split
    · exact (reset _).trans (detection_guards _ _)
    · exact reset _
  · split
    · exact showAspect_guards _ _ _ _
    · exact .of_fields rfl rfl rfl (fun _ => id) rfl
  · exact putAwu_guards s _
  · exact Guards.ite (putAwu_guards s _) (.refl s)
  · exact setTc_guards s _
  · exact .refl s

theorem ownPlanWrite_lawful (s : State) (st : Nat) (a : WriteAsk) : Lawful s (ownPlanWrite s st a).1 := by
  unfold ownPlanWrite
  refine .fst_ite (.refl s) ?_
  split
  next => exact .refl s
  next m =>
    have setup : s.mc.mode = .setup := by simpa using m
    have put : ∀ old new p kind key, Lawful s (((s.dropOutputs old new).putPlan p).planChanged kind key old new) :=
      fun old new p kind key => (rewriteTables_lawful setup _ p).after (planChanged_guards _ _ _ _ _)
    refine .fst_ite (.refl s) (.fst_ite (.refl s) ?_)
    split
    next =>
      split
      · exact .refl s
      · exact put (s.plan.lookup a.kind a.key) none _ _ _
    next => exact .refl s
    next r _ => exact put (s.plan.lookup a.kind a.key) (some r) _ _ _

theorem replacePlan_lawful {s : State} (setup : s.mc.mode = .setup) (p : Plan) : Lawful s (s.replacePlan p) := by
  have emptied : Lawful s { (s.clearOuts s.plan.outputs).putPlan p with
      iu := { (s.clearOuts s.plan.outputs).iu with points := ⟨[]⟩, signals := ⟨[]⟩ },
      awu := { (s.clearOuts s.plan.outputs).awu with lamps := ⟨[]⟩, views := ⟨[]⟩ } } :=
    .in_setup setup (congrArg MC.mode (clearOuts_rail s _).mc |>.trans setup)
      (fun law => RouteLaw.congr (s := (s.clearOuts s.plan.outputs).putPlan p) rfl rfl rfl id
        (rewriteTables_routes setup _ p law))
      (show (s.clearOuts s.plan.outputs).iu.marks = s.iu.marks by rw [clearOuts_iu])
  exact ((emptied.after (setTc_guards _ _)).after (stopSignals_guards _)).after
    (Guards.foldl (fun s (r : Nat × PointRec) => detection_guards s r.1) _ _)

theorem ownPlanClear_lawful (s : State) (st : Nat) (u : Unit) : Lawful s (ownPlanClear s st u).1 := by
  refine .fst_ite (.refl s) ?_
  split
  next => exact .refl s
  next m => exact .fst_ite (.refl s) (replacePlan_lawful (by simpa using m) _)

theorem ownPlanLoad_lawful (s : State) (st : Nat) (u : Unit) : Lawful s (ownPlanLoad s st u).1 := by
  refine .fst_ite (.refl s) ?_
  split
  next => exact .refl s
  next m =>
    refine .fst_ite (.refl s) ?_
    split
    next => exact .refl s
    next => exact replacePlan_lawful (by simpa using m) _

/-- R19: the plan-valid flag is written as the plan bears it. -/
theorem putValid_lawful (s : State) (v : Bool) (h : s.plan.check = none → v = true) :
    Lawful s { s with pm := { s.pm with valid := v } } where
  routes := RouteLaw.congr rfl rfl rfl id
  checked := fun plan checked mode => h (plan (checked mode))
  sound := fun _ sound => sound
  sections := fun _ law _ l => l.of_holds rfl law.rising rfl fun _ => rfl
  moving := fun _ _ _ _ _ l => (movingLaw_iff _).2 (((movingLaw_iff s).1 l).eased rfl (fun _ => id) (.refl _))

theorem ownPlanCheck_lawful (s : State) (st : Nat) (u : Unit) : Lawful s (ownPlanCheck s st u).1 := by
  refine .fst_ite (.refl s) ?_
  split
  next => exact putValid_lawful s true fun _ => rfl
  next fails => exact putValid_lawful s false fun passes => by rw [passes] at fails; contradiction

theorem ownPlanSave_guards (s : State) (st : Nat) (u : Unit) : Guards s (ownPlanSave s st u).1 :=
  Guards.fst_ite (.refl s) (Guards.fst_ite (.refl s) (Guards.fst_ite (.refl s)
    (.of_fields rfl rfl rfl (fun _ => id) rfl)))

theorem saveEnds_guards (s : State) (m : Bool) : Guards s (s.saveEnds m) := by
  have saved : ∀ store, Guards s { s with pm := { s.pm with saving := false, store := store } } := fun _ =>
    .of_fields rfl rfl rfl (fun _ => id) rfl
  exact Guards.ite (.refl s) (Guards.ite ((saved _).trans (notice_guards _ _ _)) ((saved _).trans (notice_guards _ _ _)))

/-! ### Timers and the link -/

theorem setOrder_guards (s : State) (order : List Block) : Guards s { s with order := order } :=
  .of_fields rfl rfl rfl (fun _ => id) rfl

/-- A timer whose last tick it is runs its event; otherwise nothing happens. -/
theorem expiry_guards {c : Prop} [Decidable c] {s t u v : State} (hu : Guards s u) (hv : Guards s v)
    (h : (if c then .next u else .next v : Host.Outcome State Fault Refusal) = .next t) : Guards s t := by
  split at h
  · cases h; exact hu
  · cases h; exact hv

/-- An event that begins with its order of hand-offs and ends with the closing of the event. -/
theorem ordered_guards {s : State} {order : List Block} {t : State} {before : List Nat}
    (h : Guards ({ s with order := order } : State) t) : Guards s (t.finish before) :=
  ((setOrder_guards s order).trans h).trans (finish_guards t before)

theorem execKeepAliveExpiry_guards {s t : State} {cab : Nat} {order : List Block}
    (h : execKeepAliveExpiry cab order s = .next t) : Guards s t := by
  unfold execKeepAliveExpiry at h
  dsimp only at h
  split at h
  · exact expiry_guards (ordered_guards (expireCab_guards _ cab)) (setOrder_guards s order) h
  · cases h; exact setOrder_guards s order

theorem execApproachTimerExpiry_guards {s t : State} {slot : Nat} {order : List Block}
    (h : execApproachTimerExpiry slot order s = .next t) : Guards s t := by
  unfold execApproachTimerExpiry at h
  dsimp only at h
  split at h
  · cases h; exact setOrder_guards s order
  · exact expiry_guards (ordered_guards (approachExpired_guards _ _)) (setOrder_guards s order) h

theorem execPulseExpiry_guards {s t : State} {point : Nat} (h : execPulseExpiry point s = .next t) : Guards s t := by
  unfold execPulseExpiry at h
  split at h
  · cases h; exact .refl s
  · exact expiry_guards (endPulse_guards s point) (.refl s) h

theorem execThrowTimeout_guards {s t : State} {point : Nat} {order : List Block}
    (h : execThrowTimeout point order s = .next t) : Guards s t := by
  unfold execThrowTimeout at h
  dsimp only at h
  split at h
  · cases h; exact setOrder_guards s order
  · exact expiry_guards (ordered_guards (failThrow_guards _ _)) (setOrder_guards s order) h

theorem execTurntableTimerExpiry_guards {s t : State} {order : List Block}
    (h : execTurntableTimerExpiry order s = .next t) : Guards s t := by
  unfold execTurntableTimerExpiry at h
  dsimp only at h
  split at h
  · cases h; exact setOrder_guards s order
  · exact expiry_guards (ordered_guards (((tableTimeout_rail _).guards_iu (tableTimeout_iu _)).trans
      (wantArbitrate_guards _))) (setOrder_guards s order) h

theorem execDemoTimeout_guards {s t : State} {order : List Block} (h : execDemoTimeout order s = .next t) : Guards s t := by
  unfold execDemoTimeout at h
  dsimp only at h
  split at h
  · cases h; exact setOrder_guards s order
  · exact expiry_guards (ordered_guards (endDemo_guards _ _)) (setOrder_guards s order) h

theorem execDwellEnd_guards {s t : State} {slot : Nat} {order : List Block} (h : execDwellEnd slot order s = .next t) :
    Guards s t := by
  unfold execDwellEnd at h
  dsimp only at h
  split at h
  · cases h; exact setOrder_guards s order
  · exact expiry_guards (ordered_guards (endDwell_guards _ _)) (setOrder_guards s order) h

theorem execOrderCompletion_guards {s t : State} (h : execOrderCompletion s = .next t) : Guards s t := by
  unfold execOrderCompletion at h
  split at h
  · cases h; exact .refl s
  · cases h
    exact (putSs_guards s _).trans ((kickPort_rail _).guards_iu (kickPort_frame _).1)

theorem execUnknownRequest_guards {s t : State} {code : Byte} {f : Frame} (h : execUnknownRequest code f s = .next t) :
    Guards s t := by
  have base := openFrame_guards s f
  unfold execUnknownRequest at h
  split at h
  · cases h
  · cases h
    exact Guards.ite base (Guards.ite (base.trans (putClp_guards _ _)) (base.trans (putClp_guards _ _)))

theorem fetchReply_guards (s : State) (n : Nat) : Guards s (s.fetchReplyFrame n) := by
  unfold State.fetchReplyFrame
  dsimp only
  split
  · exact .of_fields rfl rfl rfl (fun _ => id) rfl
  · exact .of_fields rfl rfl rfl (fun _ => id) rfl

theorem fetchNotice_guards (s : State) (g : FetchStage) : Guards s (s.fetchNoticeFrame g) := by
  have out : ∀ (u : State) (l : List Byte) (p : CLP), Guards u { u with linkOut := l, clp := p } := fun u l p =>
    .of_fields rfl rfl rfl (fun _ => id) rfl
  unfold State.fetchNoticeFrame
  split
  · exact Guards.ite (out s _ s.clp) ((out s _ _).trans (out _ _ _))
  · exact out s _ _
  · exact out s _ _

end Sys2Proof.Machine
end

section
/-! PROOFS. What a scan keeps of the law of moving points, and what every command keeps of the laws of routes, of sections and
of moving points (R25 to R38, R75, R76, R80, R157). -/
namespace Sys2Proof.Machine

/-! ### The delivery of a used scan (R33, R35 to R38) -/

/-- R35: a section of the plan whose detector is among the bits that changed. -/
def Plan.reports (p : Plan) (changed : List Nat) (x : Nat) : Prop :=
  ∃ r, p.sections.get? x = some r ∧ r.detector ∈ changed

theorem debounce_inLen (f : FS) (n : Nat) (fdi : List Bool) : (f.debounce n fdi).inLen = f.inLen :=
  List.foldlRecOn (motive := fun g : FS => g.inLen = f.inLen) _ _ rfl fun _ same _ _ => same

/-- R33: an input that reads set where it read clear is among the bits that changed. -/
theorem mem_changedBits {s : State} {after : FS} (inLen : after.inLen = s.fs.inLen) {b : Nat} (was : s.input b = false)
    (is : State.input { s with fs := after } b = true) : b ∈ changedBits s.fs after := by
  unfold State.input at was is
  dsimp only at is
  rw [inLen] at is
  split at was
  next within =>
    rw [if_pos within] at is
    refine List.mem_filter.2 ⟨List.mem_range.2 (inLen ▸ within), ?_⟩
    simp [was, is]
  next => contradiction

theorem MovingBut.debounced {s : State} {after : FS} (inLen : after.inLen = s.fs.inLen)
    (h : MovingBut (fun _ => False) s) :
    MovingBut (s.plan.reports (changedBits s.fs after)) { s with fs := after } := by
  refine ⟨h.points, fun p r rec moves full => ?_, h.demand⟩
  have clear : s.occupied r.sect = false := Bool.eq_false_iff.2 (h.clear p r rec moves)
  unfold State.occupied at clear full
  change (match s.plan.sections.get? r.sect with
    | none => false
    | some d => State.input { s with fs := after } d.detector) = true at full
  cases known : s.plan.sections.get? r.sect with
  | none => rw [known] at full; contradiction
  | some d =>
    rw [known] at full clear
    exact ⟨d, known, mem_changedBits inLen clear full⟩

theorem deliver_guards (changed : List Nat) (s : State) (b : Block) : Guards s (s.deliver changed b) := by
  cases b with
  | tr => exact (takeReport_takes s _ _).toGuards
  | iu =>
    exact Guards.foldl (fun s (r : Nat × PointRec) => (detection_guards s r.1).trans (handOn_guards _)) _ s
  | tc =>
    exact Guards.ite ((((sensors_rail s _ _ _ _).guards_iu (sensors_iu s _ _ _ _)).trans (tcTakes_guards _)).trans
      (handOn_guards _)) (.refl s)
  | awu =>
    exact Guards.foldl (fun s (r : Nat × ButtonRec) => (press_guards s _ _ r.2).trans (handOn_guards _)) _ s
  | ss => exact .refl s

/-- R80: once Train Tracking has taken its report, no section report waits. -/
theorem deliverTr_moving {s : State} {changed : List Nat} (law : RouteLaw s) (sound : s.Sound)
    (h : MovingBut (s.plan.reports changed) s) : MovingBut (fun _ => False) (s.deliver changed .tr) := by
  have calm : Calm s (s.deliver changed .tr) := deliver_calm changed s .tr
  have taken : MovingBut _ (s.deliver changed .tr) := (takeReport_takes s _ _).taken _ law sound h
  refine ⟨taken.points, fun p r rec moves full => ?_, taken.demand⟩
  obtain ⟨⟨d, known, bit⟩, left⟩ := taken.clear p r rec moves full
  refine left (List.mem_map.2 ⟨(r.sect, d), List.mem_filter.2 ⟨List.mem_filter.2 ⟨rowsGet_mem _ _ _ known, ?_⟩, ?_⟩, rfl⟩)
  · simpa using bit
  · rw [← occupied_of_image calm.pm calm.fs]
    exact full

theorem putFs_steady (s : State) (f : FS) : Steady s { s with fs := f } := .of_fields rfl rfl rfl rfl

theorem useScan_steady (s : State) (fdi : List Bool) : Steady s (s.useScan fdi) :=
  (putFs_steady s _).trans (Guards.foldl (deliver_guards _) _ _).toSteady

theorem useScan_moving {s : State} {fdi : List Bool} (law : RouteLaw s) (sound : s.Sound)
    (h : MovingBut (fun _ => False) s) : MovingBut (fun _ => False) (s.useScan fdi) := by
  have begins : Steady s { s with fs := s.fs.debounce s.plan.device.clearDebounce fdi } := .of_fields rfl rfl rfl rfl
  have plan : ∀ (u : State) (b : Block), (u.deliver (changedBits s.fs (s.fs.debounce s.plan.device.clearDebounce fdi)) b).plan =
      u.plan := fun u b => congrArg PM.plan (deliver_calm _ u b).pm
  refine foldl_establishes
    (Q := fun u => u.plan = s.plan ∧ RouteLaw u ∧ u.Sound ∧
      MovingBut (s.plan.reports (changedBits s.fs (s.fs.debounce s.plan.device.clearDebounce fdi))) u)
    ?_ ?_ ?_ _ (mem_fullOrder s.order .tr) _
    ⟨rfl, begins.routes law, begins.sound sound, h.debounced (debounce_inLen s.fs _ fdi)⟩
  · rintro u b ⟨same, law, sound, moving⟩
    have guards := deliver_guards (changedBits s.fs (s.fs.debounce s.plan.device.clearDebounce fdi)) u b
    exact ⟨(plan u b).trans same, guards.routes law, guards.sound sound, guards.moving _ law sound moving⟩
  · rintro u b ⟨-, law, sound, -⟩ none
    exact (deliver_guards _ u b).moving _ law sound none
  · rintro u ⟨same, law, sound, moving⟩
    exact deliverTr_moving law sound (same ▸ moving)

/-! ### The chain check and the chain lengths (R26, R28 to R31) -/

/-- What a completed scan keeps, with every section report taken. -/
structure Scanned (s t : State) : Prop extends Steady s t where
  moving : RouteLaw s → s.Sound → MovingBut (fun _ => False) s → MovingBut (fun _ => False) t

theorem Guards.scanned {s t : State} (h : Guards s t) : Scanned s t := ⟨h.toSteady, h.moving _⟩

theorem Scanned.trans {s t u : State} (h : Scanned s t) (k : Scanned t u) : Scanned s u where
  toSteady := h.toSteady.trans k.toSteady
  moving := fun r a l => k.moving (h.routes r) (h.sound a) (h.moving r a l)

theorem useScan_scanned (s : State) (fdi : List Bool) : Scanned s (s.useScan fdi) :=
  ⟨useScan_steady s fdi, useScan_moving⟩

theorem checkScan_scanned (s : State) (good : Bool) (fdi : List Bool) : Scanned s (s.checkScan good fdi) := by
  have chain : ∀ (c : ChainState) (n : Nat) (b : Bool),
      Guards s { s with fs := { s.fs with chain := c, recovery := n, fieldFault := b } } :=
    fun _ _ _ => .of_fields rfl rfl rfl (fun _ => id) rfl
  unfold State.checkScan
  split
  · exact useScan_scanned s fdi
  · exact (chain .suspect s.fs.recovery s.fs.fieldFault).scanned
  · exact (chain .good s.fs.recovery s.fs.fieldFault).scanned.trans (useScan_scanned _ fdi)
  · exact (((chain .fault 0 true).trans (notice_guards _ .fieldFault 0)).trans (requestStop_guards _)).scanned
  · exact (Guards.ite (chain .good 0 s.fs.fieldFault)
      (chain s.fs.chain (s.fs.recovery + 1) s.fs.fieldFault)).scanned
  · exact (chain s.fs.chain 0 s.fs.fieldFault).scanned

theorem rowsGet_below {α : Type} {n k : Nat} (below : k < n) (l : List (Nat × α)) :
    rowsGet (l.filter (fun r => decide (r.1 < n))) k = rowsGet l k := by
  induction l with
  | nil => rfl
  | cons r l ih =>
    by_cases kept : r.1 < n
    · rw [List.filter_cons_of_pos (by simpa using kept)]
      simp only [rowsGet, ih]
    · rw [List.filter_cons_of_neg (by simpa using kept), ih, rowsGet, if_neg (by omega)]

/-- R26: the scanner with the chain lengths in force. -/
def State.cutChain (s : State) : State :=
  { s with fs := { s.fs with
    inLen := s.plan.device.inputLength, outLen := s.plan.device.outputLength,
    inputs := ⟨s.fs.inputs.rows.filter (fun r => decide (r.1 < s.plan.device.inputLength))⟩ } }

/-- R20 code 3, R26: where every detector lies within the chain, no section comes to read occupied. -/
theorem occupied_cutChain {s : State} (reach : ∀ r ∈ s.plan.sections.rows, r.2.detector < s.plan.device.inputLength)
    {x : Nat} (h : s.cutChain.occupied x = true) : s.occupied x = true := by
  have same : s.cutChain.plan = s.plan := rfl
  unfold State.occupied at h ⊢
  rw [same] at h
  split at h
  next => contradiction
  next r known =>
    have within := reach _ (rowsGet_mem _ _ _ known)
    unfold State.input at h ⊢
    split
    next =>
      rw [show s.cutChain.fs.inLen = s.plan.device.inputLength from rfl, if_pos within] at h
      have kept : Tab.getD {} s.cutChain.fs.inputs r.detector = Tab.getD {} s.fs.inputs r.detector := by
        unfold Tab.getD State.cutChain
        rw [rowsGet_below within]
      rw [← kept]
      exact h
    next => rfl

theorem offChain_guards (s : State) (r : Nat × PointRec) : Guards s (s.offChain r) :=
  Guards.ite (putStill_guards s r.1 _ rfl) (.refl s)

theorem takeLengths_steady (s : State) : Steady s s.takeLengths :=
  (putFs_steady s s.cutChain.fs).trans (Guards.foldl offChain_guards _ _).toSteady

theorem takeLengths_moving {s : State} (reach : ∀ r ∈ s.plan.sections.rows, r.2.detector < s.plan.device.inputLength)
    (law : RouteLaw s) (sound : s.Sound) (h : MovingBut (fun _ => False) s) : MovingBut (fun _ => False) s.takeLengths := by
  have cut : Guards s s.cutChain := .of_fields rfl rfl rfl (fun _ => occupied_cutChain reach) rfl
  exact (cut.trans (Guards.foldl offChain_guards _ _)).moving _ law sound h

/-- R25, R26: the end of a scan's event, once its frame is checked and used. -/
def State.endScan (s : State) (before : List Nat) : State := (s.takeLengths.finish before).startScan

theorem startScan_guards (s : State) : Guards s s.startScan := .of_fields rfl rfl rfl (fun _ => id) rfl

theorem startNext_guards (s : State) (before : List Nat) : Guards s (s.finish before).startScan :=
  (finish_guards s before).trans (startScan_guards _)

theorem endScan_steady (s : State) (before : List Nat) : Steady s (s.endScan before) :=
  (takeLengths_steady s).trans (startNext_guards _ before).toSteady

theorem endScan_moving {s : State} (before : List Nat)
    (reach : ∀ r ∈ s.plan.sections.rows, r.2.detector < s.plan.device.inputLength) (law : RouteLaw s) (sound : s.Sound)
    (h : MovingBut (fun _ => False) s) : MovingBut (fun _ => False) (s.endScan before) := by
  have lengths := takeLengths_steady s
  exact (startNext_guards _ before).moving _ (lengths.routes law) (lengths.sound sound)
    (takeLengths_moving reach law sound h)

/-- R25, R28: a scan's frame latched and checked, and used where it is good. -/
def State.checkedScan (s : State) (fdi : List Bool) : State :=
  State.checkScan { s with fs := { s.fs.latch with check := s.fs.check.other } } (s.fs.good fdi) fdi

theorem completeScan_eq (s : State) (fdi : List Bool) :
    s.completeScan fdi = (s.checkedScan fdi).endScan s.ss.urgent := rfl

theorem checkedScan_scanned (s : State) (fdi : List Bool) : Scanned s (s.checkedScan fdi) := by
  have latched : Guards s { s with fs := { s.fs.latch with check := s.fs.check.other } } :=
    .of_fields rfl rfl rfl (fun _ => id) rfl
  exact latched.scanned.trans (checkScan_scanned _ _ fdi)

theorem checkedScan_plan (s : State) (fdi : List Bool) : (s.checkedScan fdi).plan = s.plan :=
  congrArg PM.plan
    (checkScan_within { s with fs := { s.fs.latch with check := s.fs.check.other } } (s.fs.good fdi) fdi).pm

theorem completeScan_lawful (s : State) (fdi : List Bool) : Lawful s (s.completeScan fdi) := by
  have used := checkedScan_scanned s fdi
  have whole := used.toSteady.trans (endScan_steady _ s.ss.urgent)
  rw [completeScan_eq]
  refine ⟨whole.routes, fun _ => whole.checked, fun _ => whole.sound, fun _ => whole.sections,
    fun _ law sound mode chain moving => ?_⟩
  refine (movingLaw_iff _).2 (endScan_moving _ ?_ (used.routes law) (used.sound sound)
    (used.moving law sound ((movingLaw_iff s).1 moving)))
  rw [checkedScan_plan]
  exact chain.reach mode

/-! ### Every command -/

/-- R75, R76, R80, R157: every command keeps the laws of routes, of sections and of moving points. -/
theorem exec_lawful {c : Instr} {s t : State} (modes : ModeLaw s) (h : exec c s = .next t) : Lawful s t := by
  cases c with
  | powerUp => cases h; exact powerUp_lawful s
  | resetPin => cases h; exact powerUp_lawful s
  | planClear f => cases h; exact takeRequest_lawful ownPlanClear_lawful
  | planWrite f => cases h; exact takeRequest_lawful ownPlanWrite_lawful
  | planRead f => cases h; exact takeQuery_reads ownPlanRead_fst
  | planCheck f => cases h; exact takeQuery_lawful ownPlanCheck_lawful
  | planSave f => cases h; exact takeQuery_guards ownPlanSave_guards
  | saveEnd matched => cases h; exact (saveEnds_guards s matched).lawful
  | planLoad f => cases h; exact takeRequest_lawful ownPlanLoad_lawful
  | goRun f => cases h; exact takeRequest_lawful ownGoRun_lawful
  | goQuiet f => cases h; exact takeRequest_guards ownGoQuiet_guards
  | stopAll f => cases h; exact takeRequest_guards ownStopAll_guards
  | resume f =>
    cases h
    exact takeFrame_lawful (fun a => (ownResume_guards _ _ a ((openFrame_keeps s f).modes modes)).lawful)
      fun u => finish_guards u _
  | resetLayout f => cases h; exact takeRequest_lawful ownResetLayout_lawful
  | enterTrain f => cases h; exact takeRequest_guards ownEnterTrain_guards
  | retireTrain f => cases h; exact takeRequest_guards ownRetireTrain_guards
  | acquireTrain f => cases h; exact takeQuery_guards ownAcquireTrain_guards
  | releaseTrain f => cases h; exact takeRequest_guards ownReleaseTrain_guards
  | setSpeed f => cases h; exact takeRequest_guards ownSetSpeed_guards
  | reverseTrain f => cases h; exact takeRequest_guards ownReverseTrain_guards
  | hold f => cases h; exact takeRequest_guards fun u st a => forSelected_guards u st a _ (holdTrain_guards true)
  | unhold f => cases h; exact takeRequest_guards fun u st a => forSelected_guards u st a _ (holdTrain_guards false)
  | setAuto f => cases h; exact takeQuery_guards ownSetAuto_guards
  | keepAlive f => cases h; exact takeQuery_reads fun _ _ _ => rfl
  | seekTrain f => cases h; exact takeQuery_guards ownSeekTrain_guards
  | readTrainField f => cases h; exact takeQuery_guards ownReadTrainField_guards
  | readTrainRecord f => cases h; exact takeQuery_guards ownReadTrainRecord_guards
  | keepAliveExpiry cab order => exact (execKeepAliveExpiry_guards h).lawful
  | setRoute f => cases h; exact takeRequest_guards ownSetRoute_guards
  | cancelRoute f => cases h; exact takeRequest_guards ownCancelRoute_guards
  | approachTimerExpiry slot order => exact (execApproachTimerExpiry_guards h).lawful
  | pointTest f => cases h; exact takeRequest_lawful ownPointTest_lawful
  | readRoute f => cases h; exact takeQuery_reads ownReadRoute_fst
  | readSection f => cases h; exact takeQuery_reads ownReadSection_fst
  | readPoint f => cases h; exact takeQuery_reads ownReadPoint_fst
  | readSignal f => cases h; exact takeQuery_reads ownReadSignal_fst
  | clearFault f => cases h; exact takeRequest_guards ownClearFault_guards
  | pulseExpiry point => exact (execPulseExpiry_guards h).lawful
  | throwTimeout point order => exact (execThrowTimeout_guards h).lawful
  | homeTurntable f => cases h; exact takeRequest_guards fun u st _ => askHome_guards u st
  | turn f => cases h; exact takeRequest_guards ownTurn_guards
  | withdrawTurn f => cases h; exact takeRequest_guards ownWithdrawTurn_guards
  | readTurntable f => cases h; exact takeQuery_reads fun _ _ _ => rfl
  | turntableTimerExpiry order => exact (execTurntableTimerExpiry_guards h).lawful
  | startDemo f => cases h; exact takeRequest_guards ownStartDemo_guards
  | stopDemo f => cases h; exact takeRequest_guards ownStopDemo_guards
  | readBoard f => cases h; exact takeQuery_reads ownReadBoard_fst
  | readPanel f => cases h; exact takeQuery_reads ownReadPanel_fst
  | demoTimeout order => exact (execDemoTimeout_guards h).lawful
  | dwellEnd slot order => exact (execDwellEnd_guards h).lawful
  | cooldownExpiry panel =>
    exact (expiry_guards (u := s.cooldownTick panel) (putAwu_guards s _) (.refl s) h).lawful
  | clearStatus f => cases h; exact takeQuery_guards fun u st a => Guards.fst_ite (.refl u) (putClp_guards u _)
  | setNoticeMask f =>
    cases h
    exact takeQuery_guards fun u st a => Guards.fst_ite (.refl u) (Guards.fst_ite (.refl u) (putClp_guards u _))
  | identify f => cases h; exact takeQuery_reads fun _ _ _ => rfl
  | fetchReply n =>
    cases h
    exact (fetchReply_guards s n).lawful
  | fetchNotice g => cases h; exact (fetchNotice_guards s g).lawful
  | layoutTick raw order => cases h; exact ((setOrder_guards s order).trans (tick_guards _ raw)).lawful
  | scanCompletion fdi order =>
    cases h
    exact .before (setOrder_guards s order) rfl rfl rfl (completeScan_lawful _ fdi)
  | orderCompletion => exact (execOrderCompletion_guards h).lawful
  | unknownRequest code f => exact (execUnknownRequest_guards h).lawful

theorem step_lawful {s t : State} (modes : ModeLaw s) (h : step s = .next t) : Lawful s t := by
  unfold step at h
  split at h
  next => cases h; exact .refl s
  next c rest _ =>
    have begins : Guards s { s with pending := rest } := .of_fields rfl rfl rfl (fun _ => id) rfl
    exact .before begins rfl rfl rfl (exec_lawful modes h)

/-- Settles O6: every command keeps the laws of routes, of sections and of moving points; a checked plan names no section
and no point twice in a route, which those of sections and of moving points rest on. -/
theorem routeLawKept : Obligations.RouteLawKept := by
  refine ⟨fun s t modes law h => (step_lawful modes h).routes law, fun s t modes law _ plan checked h => ?_⟩
  have lawful := step_lawful modes h
  have sound : s.Sound := fun mode => distinct_of_check (plan (checked mode))
  exact ⟨lawful.checked plan checked, lawful.sections plan law sound, lawful.moving plan law sound⟩

end Sys2Proof.Machine
end
